-- ==== Sys2Proof/Word.lean ====
section
/-! DEFINITION. The word types of the device and their plainest arithmetic (spec/00_scope.md, notation). -/

namespace Sys2Proof

/-- One byte as the spec numbers it: bit 0 is the least significant (R5). -/
abbrev Byte := BitVec 8

/-- A string of bytes, the first at offset 0. -/
abbrev Bytes := List Byte

/-- A 32-bit register or counter; counters wrap unless a rule says otherwise. -/
abbrev Word32 := BitVec 32

/-- A 64-bit counter. -/
abbrev Word64 := BitVec 64

/-- A byte from a number, modulo 256. -/
abbrev byte (n : Nat) : Byte := BitVec.ofNat 8 n

end Sys2Proof
end

