-- ==== Sys2Proof/Syntax.lean ====
section
/-! DEFINITION. The operand types of the commands and the commands themselves: one constructor of `Instr` per row of
spec/opcode_table.json. -/

namespace Sys2Proof

/-- Isle 0..15 (R13). -/
abbrev IsleNo := Fin 16
/-- Task context 0..3 of an isle (R13). -/
abbrev CtxNo := Fin 4
/-- Slot 0..47 (R13). -/
abbrev SlotNo := Fin 48
/-- Tile counter 0..63 (R297). -/
abbrev CounterNo := Fin 64
/-- Owner 0..15 (R13). -/
abbrev OwnerNo := Fin 16
/-- Ethernet port 0..3 (R431). -/
abbrev EthNo := Fin 4
/-- CAN FD port: 0 is A, 1 is B (R454). -/
abbrev CanNo := Fin 2
/-- Channel of a DMA engine: 0..15 of the device engine; an isle engine has 0..7 (R318). -/
abbrev ChanNo := Fin 16
/-- Atoll 0..63 of an isle (R280). -/
abbrev AtollNo := Fin 64

/-- A requester of the object dictionary: the supervisor on port A, on port B, or the manager's relay (R466). -/
inductive Requester where
  | portA | portB | relay
  deriving DecidableEq, Repr

/-- How a write of an entry came in: who asks, whether the requester held the entry's domain when its transfer
began (R475), and the reference cycle in which the write completes. -/
structure Write where
  req : Requester
  heldAtStart : Bool
  at_ : Nat
  deriving DecidableEq, Repr

/-- A storage upset of a scratchpad word: bit positions that flip. 0..255 are data bits, 256..259 the owner tag,
260 and above check bits (R273). -/
structure Upset where
  isle : IsleNo
  word : Nat
  bits : List Nat
  deriving DecidableEq, Repr

/-- A storage upset of an external-memory atom: one flipped bit, or more (R368). -/
structure MemUpset where
  atom : Nat
  hard : Bool
  deriving DecidableEq, Repr

/-- What an engine meets on its reads, for the step that makes them. -/
structure Upsets where
  sp : List Upset
  mem : List MemUpset
  /-- The op fetched for the step fails its parity (R186). -/
  opParity : Bool
  deriving DecidableEq, Repr

/-- The work a context or a channel does, named by its control core: a step of a frame (a stage, or the analysis
programme), a step of adaptation, or nothing that ends with a frame. -/
inductive Serves where
  | nothing
  | frame (slot : SlotNo) (number : Nat) (step : Nat)
  | adapt (slot : SlotNo) (desc : Nat)
  deriving DecidableEq, Repr

/-- A DMA engine: one in each isle, and the device's (R318). -/
inductive Engine where
  | isle (k : IsleNo)
  | device
  deriving DecidableEq, Repr

/-- One layer of a tick programme: the counter the programme gives it and what the plan fixed for it (R297, R316). -/
structure LayerPlan where
  slot : SlotNo
  step : Nat
  layer : Nat
  counter : CounterNo
  cols : Nat
  rows : Nat
  order : Nat
  limit : Nat
  owner : OwnerNo
  requeueOk : Bool
  isleMask : Nat
  predecessor : Option CounterNo
  rowEdge : Nat
  colEdge : Nat
  /-- Whether the step's tiles come from contexts of the mosaic net (R512). -/
  mosaic : Bool
  /-- Whether the layer's claims end in argmax (R168). -/
  argmax : Bool
  /-- Its input and output channels (R129). -/
  inChannels : Nat
  outChannels : Nat
  /-- Scratchpad rows that hold its weights and tables: first and last, in every isle of its mask (R313, R518). -/
  weightRows : List (Nat × Nat)
  deriving DecidableEq, Repr

/-- A received Ethernet frame outside the supported subset, by what is wrong with it (R433, R436). -/
inductive Unsupported where
  | etherType (type : BitVec 16)
  | untagged
  | vlan (id : Nat)
  | options
  | fragment
  | extension
  | protocol (number : BitVec 8)
  | icmp (type : BitVec 8)
  | udpPort (port : BitVec 16)
  | checksum
  deriving DecidableEq, Repr

/-- An IPv6 neighbour-discovery message: a solicitation of a target by a source and its link address, an advertisement of a
target's link address, or another (R433). -/
inductive NdMessage where
  | solicit (target src mac : Bytes)
  | advertise (target mac : Bytes)
  | other
  deriving DecidableEq, Repr

/-- What an image holds for an adaptation descriptor: the stage's adaptable INT8 weights, the bytes c and ea of each group record (R352),
the isles that hold the stage, and the first words of its two weight sets there (R343). -/
structure AdaptImage where
  weights : List Byte
  rates : List (Byte × Byte)
  isles : List IsleNo
  set0 : Nat
  set1 : Nat
  deriving DecidableEq, Repr

/-- A loaded `.lmi` image, as a write of a plan entry names it: its identifier, the plan's structure (a chain descriptor and its stage
descriptors, R121, or the analysis descriptor of R159), its adaptation descriptors (R341) and what it holds for each, the stages whose model
is streamed (R313), the SHA-256 of the image (R426), the work per second Linry records for each level, analysis included (R514), the in-line
stripe latency D it computed (R137), the reference cycles of its longest planned op (R508) and of its longest layer (R301). -/
structure PlanImage where
  id : Nat
  analysis : Bool
  body : List Byte
  adapt : List (List Byte)
  sets : List AdaptImage
  streamed : List Nat
  hash : List Byte
  load : List Nat
  latency : Nat
  longestOp : Nat
  longestLayer : Nat
  deriving DecidableEq, Repr

/-- What the world holds that a write may name: the plan image of a plan entry, the image file on the SD card. -/
structure Around where
  img : Option PlanImage
  card : Option (List Byte)
  deriving DecidableEq, Repr

/-- A JTAG instruction: those of R568, and any other. -/
inductive JtagOp where
  | bypass | idcode | sample | extest | clamp | highz
  | other (code : Nat)
  deriving DecidableEq, Repr

/-- What the power-management core measures of a shed: nanoseconds until the device draws 8 W or less, whether a step before that
was late, µs and µJ of the ledger's commit, and how often its read-back failed first (R545, R559). -/
structure ShedFigures where
  ns : BitVec 16
  late : Bool
  us : BitVec 16
  uj : BitVec 16
  fails : Fin 16
  deriving DecidableEq, Repr

/-- The strap pins as sampled at reset release (R17, R567). -/
structure Straps where
  mgr : Bool
  node : Fin 64
  memsz : Bool
  boot : Fin 4
  deriving DecidableEq, Repr

/-- The tick programme the scheduler core delivers for a tick (R41 step 6, R57). -/
structure Programme where
  layers : List LayerPlan
  deriving DecidableEq, Repr

/-- The commands: one constructor for each row of spec/opcode_table.json, with what the row's occurrence brings.

`at_` is the reference cycle of an occurrence whose instant nothing in the state fixes; where the state fixes it (a deadline, an
expiry, a boundary), the command takes none. `after` is how long the level of TICK_IN that the edge begins lasts, in reference
cycles. `w` and `b` say how a write of an object-dictionary entry came in and the bytes it
carries. `k` is an isle or a slot, `c` a context or a channel, `n` a frame number (of a tile counter or an atoll: its number), `p` a port,
`src` a 16-byte sender address, `us` the storage upsets that the accesses of the command meet. `run` of a tile op: none
where its unit runs it to its end; a number where it has written no more than that many words of its result and goes on later. -/
inductive Instr where
  -- The tick (spec/02_tick.md)
  /-- TICK_BOUNDARY: R41. -/
  | tickBoundary (prog : Option Programme)
  /-- STAGGER_SLOT_OPEN: R43. -/
  | staggerSlotOpen (k : IsleNo)
  /-- SLEW_GOVERNOR_WINDOW: R45. -/
  | slewGovernorWindow
  /-- TICK_OUT_PULSE: R53. -/
  | tickOutPulse
  /-- TICKIN_EDGE: R51. -/
  | tickinEdge (at_ after : Nat) (falling : Bool)
  /-- TICKIN_WINDOW_CLOSE: R52. -/
  | tickinWindowClose
  /-- RESYNC_COMMAND: R59. -/
  | resyncCommand (w : Write) (b : Bytes)
  /-- BORROW_DEADLINE: R55. -/
  | borrowDeadline (k : SlotNo)
  /-- FRAME_DONE: R55. -/
  | frameDone (k : SlotNo) (n : BitVec 32) (at_ : Nat)
  -- Raw ingest (03_raw_ingest.md)
  /-- CAM_FV_RISE: R69. -/
  | camFvRise (at_ : Nat) (short : Bool)
  /-- CAM_FV_FALL: R69. -/
  | camFvFall (at_ : Nat) (words : List (BitVec 24)) (short : Bool)
  /-- INLINE_LINE: R70. -/
  | inlineLine (at_ : Nat) (words : List (BitVec 24)) (short : Bool)
  /-- INLINE_CLOCK_LOSS: R72. -/
  | inlineClockLoss (at_ : Nat) (words : List (BitVec 24))
  /-- INLINE_STUCK: R72. -/
  | inlineStuck (at_ : Nat) (words : List (BitVec 24))
  /-- INLINE_LINE_GAP: R72. -/
  | inlineLineGap (at_ : Nat)
  /-- BROKEN_REARM: R73. -/
  | brokenRearm (at_ : Nat)
  /-- STRIPE_DATAGRAM: R78. -/
  | stripeDatagram (at_ : Nat) (p : EthNo) (src payload : Bytes)
  /-- REORDER_GRACE_EXPIRY: R87. -/
  | reorderGraceExpiry (k : SlotNo)
  /-- SILENCE_TIMEOUT_EXPIRY: R87. -/
  | silenceTimeoutExpiry (k : SlotNo)
  /-- STREAM_FORGET: R82. -/
  | streamForget (k : SlotNo)
  -- The fixed front (04_fixed_front.md)
  /-- FRONT_STRIPE: R96. -/
  | frontStripe (at_ : Nat) (k : SlotNo) (n : BitVec 32) (i : Fin 512)
  /-- FRONT_IMAGE_WRITE: R118. -/
  | frontImageWrite (w : Write) (k : SlotNo) (block : Fin 5) (b : Bytes)
  /-- DEFECT_LIST_WRITE: R119. -/
  | defectListWrite (w : Write) (k : SlotNo) (b : Bytes)
  /-- LOAD_DEFAULTS: R119. -/
  | loadDefaults (w : Write) (k : SlotNo) (b : Bytes)
  -- Stages (05_neural_stages.md)
  /-- PLAN_WRITE: R124. -/
  | planWrite (w : Write) (k : SlotNo) (b : Bytes) (img : Option PlanImage)
  /-- ANALYSIS_PLAN_WRITE: R159. -/
  | analysisPlanWrite (w : Write) (k : SlotNo) (source : Bool) (b : Bytes) (img : Option PlanImage)
  /-- EPOCH_APPLY: R423. -/
  | epochApply
  /-- STAGE_STRIPE_START: R130. -/
  | stageStripeStart (at_ : Nat) (k : SlotNo) (n : BitVec 32) (j : Fin 16) (i : Fin 512)
  /-- STAGE_STRIPE_COMPLETE: R130. -/
  | stageStripeComplete (at_ : Nat) (k : SlotNo) (n : BitVec 32) (j : Fin 16) (i : Fin 512) (us : Upsets)
  /-- FORCE_WARMING: R142. -/
  | forceWarming (w : Write) (k : SlotNo) (b : Bytes)
  -- Outputs and analysis (06_outputs_and_analysis.md)
  /-- FORMATTER_STRIPE: R150. -/
  | formatterStripe (at_ : Nat) (k : SlotNo) (n : BitVec 32) (kind : Fin 3) (i : Fin 512)
  /-- ANALYSIS_START: R160. -/
  | analysisStart (at_ : Nat) (k : SlotNo) (n : BitVec 32)
  /-- RESULT_TRANSMIT: R172. -/
  | resultTransmit (at_ : Nat) (k : SlotNo)
  -- Tile ops: the op at the head of a context's queue (07_isle.md, 09_operators.md)
  /-- NOP: R203. -/
  | nop (k : IsleNo) (c : CtxNo) (us : Upsets)
  /-- CLAIM: R300. -/
  | claim (k : IsleNo) (c : CtxNo) (us : Upsets)
  /-- BLOCK_END: R302. -/
  | blockEnd (k : IsleNo) (c : CtxNo) (us : Upsets)
  /-- FENCE: R204. -/
  | fence (k : IsleNo) (c : CtxNo) (us : Upsets)
  /-- WAIT: R205. -/
  | wait (k : IsleNo) (c : CtxNo) (us : Upsets)
  /-- SETIX: R203. -/
  | setix (k : IsleNo) (c : CtxNo) (us : Upsets)
  /-- HALT: R203. -/
  | halt (k : IsleNo) (c : CtxNo) (us : Upsets)
  /-- SETSEED: R226. -/
  | setseed (k : IsleNo) (c : CtxNo) (us : Upsets)
  /-- CONV: R196. -/
  | conv (k : IsleNo) (c : CtxNo) (run : Option Nat) (us : Upsets)
  /-- CONV_BWD: R198. -/
  | convBwd (k : IsleNo) (c : CtxNo) (run : Option Nat) (us : Upsets)
  /-- WGRAD: R198. -/
  | wgrad (k : IsleNo) (c : CtxNo) (run : Option Nat) (us : Upsets)
  /-- SK_CONV: R222. -/
  | skConv (k : IsleNo) (c : CtxNo) (run : Option Nat) (us : Upsets)
  /-- SK_CONV_BWD: R222. -/
  | skConvBwd (k : IsleNo) (c : CtxNo) (run : Option Nat) (us : Upsets)
  /-- VEC_ELT_ADD: R227. -/
  | vecEltAdd (k : IsleNo) (c : CtxNo) (run : Option Nat) (us : Upsets)
  /-- VEC_ELT_SUB: R227. -/
  | vecEltSub (k : IsleNo) (c : CtxNo) (run : Option Nat) (us : Upsets)
  /-- VEC_ELT_MUL: R227. -/
  | vecEltMul (k : IsleNo) (c : CtxNo) (run : Option Nat) (us : Upsets)
  /-- VEC_ELT_MAX: R227. -/
  | vecEltMax (k : IsleNo) (c : CtxNo) (run : Option Nat) (us : Upsets)
  /-- VEC_ELT_MIN: R227. -/
  | vecEltMin (k : IsleNo) (c : CtxNo) (run : Option Nat) (us : Upsets)
  /-- VEC_ELT_REQUANT: R227. -/
  | vecEltRequant (k : IsleNo) (c : CtxNo) (run : Option Nat) (us : Upsets)
  /-- VEC_ELT_ABSDIFF: R227. -/
  | vecEltAbsdiff (k : IsleNo) (c : CtxNo) (run : Option Nat) (us : Upsets)
  /-- VEC_ELT_COPY: R227. -/
  | vecEltCopy (k : IsleNo) (c : CtxNo) (run : Option Nat) (us : Upsets)
  /-- VEC_LUT8: R228. -/
  | vecLut8 (k : IsleNo) (c : CtxNo) (run : Option Nat) (us : Upsets)
  /-- VEC_LUT16: R229. -/
  | vecLut16 (k : IsleNo) (c : CtxNo) (run : Option Nat) (us : Upsets)
  /-- VEC_POOL_MAX: R250. -/
  | vecPoolMax (k : IsleNo) (c : CtxNo) (run : Option Nat) (us : Upsets)
  /-- VEC_POOL_AVG: R250. -/
  | vecPoolAvg (k : IsleNo) (c : CtxNo) (run : Option Nat) (us : Upsets)
  /-- VEC_RESAMPLE_NEAREST: R253. -/
  | vecResampleNearest (k : IsleNo) (c : CtxNo) (run : Option Nat) (us : Upsets)
  /-- VEC_RESAMPLE_BILINEAR: R253. -/
  | vecResampleBilinear (k : IsleNo) (c : CtxNo) (run : Option Nat) (us : Upsets)
  /-- VEC_ROTATE_FORWARD: R230. -/
  | vecRotateForward (k : IsleNo) (c : CtxNo) (run : Option Nat) (us : Upsets)
  /-- VEC_ROTATE_INVERSE: R230. -/
  | vecRotateInverse (k : IsleNo) (c : CtxNo) (run : Option Nat) (us : Upsets)
  /-- VEC_REDUCE_SUM: R231. -/
  | vecReduceSum (k : IsleNo) (c : CtxNo) (run : Option Nat) (us : Upsets)
  /-- VEC_REDUCE_SUMSQ: R231. -/
  | vecReduceSumsq (k : IsleNo) (c : CtxNo) (run : Option Nat) (us : Upsets)
  /-- VEC_OPTIM_MOMENT1: R353. -/
  | vecOptimMoment1 (k : IsleNo) (c : CtxNo) (run : Option Nat) (us : Upsets)
  /-- VEC_OPTIM_MOMENT2: R354. -/
  | vecOptimMoment2 (k : IsleNo) (c : CtxNo) (run : Option Nat) (us : Upsets)
  /-- VEC_OPTIM_MASTER: R355. -/
  | vecOptimMaster (k : IsleNo) (c : CtxNo) (run : Option Nat) (us : Upsets)
  /-- VEC_BOXDEC_INTAKE: R162. -/
  | vecBoxdecIntake (k : IsleNo) (c : CtxNo) (run : Option Nat) (us : Upsets)
  /-- VEC_BOXDEC_SUPPRESS: R164. -/
  | vecBoxdecSuppress (k : IsleNo) (c : CtxNo) (run : Option Nat) (us : Upsets)
  /-- VEC_ARGMAX: R167. -/
  | vecArgmax (k : IsleNo) (c : CtxNo) (run : Option Nat) (us : Upsets)
  -- Contexts (07_isle.md)
  /-- TILE_OP_RESUME: R182. -/
  | tileOpResume (k : IsleNo) (c : CtxNo) (at_ : Nat)
  /-- CONTEXT_WAIT_LIMIT: R184. -/
  | contextWaitLimit (k : IsleNo) (c : CtxNo)
  /-- CONTEXT_ENABLE: R186. -/
  | contextEnable (k : IsleNo) (c : CtxNo) (ctrl : BitVec 32) (w : Serves)
  /-- CONTEXT_STOP: R185. -/
  | contextStop (k : IsleNo) (c : CtxNo)
  /-- CONTEXT_RESET: R207. -/
  | contextReset (k : IsleNo) (c : CtxNo)
  /-- OP_PUSH: R187. -/
  | opPush (k : IsleNo) (c : CtxNo) (op : Bytes)
  -- Tile counters (11_tiling_and_streaming.md)
  /-- COUNTER_CONFIG_WRITE: R298. -/
  | counterConfigWrite (n : CounterNo) (off : Fin 8) (v : BitVec 32)
  /-- COUNTER_OPEN: R299. -/
  | counterOpen (n : CounterNo)
  /-- COUNTER_ARM: R299. -/
  | counterArm (n : CounterNo)
  /-- COUNTER_CLOSE: R299. -/
  | counterClose (n : CounterNo)
  /-- COUNTER_RESET: R299. -/
  | counterReset (n : CounterNo)
  /-- COUNTER_REQUEUE: R304. -/
  | counterRequeue (n : CounterNo) (index : Nat)
  /-- COUNTER_ARMED_OPEN: R299. -/
  | counterArmedOpen (n : CounterNo)
  -- Scratchpads, atolls, straits (10_scratchpad.md)
  /-- SP_ATTR_WRITE: R262. -/
  | spAttrWrite (k : IsleNo) (e : Fin 33) (v : BitVec 64)
  /-- SP_FORMAT_COMPLETE: R262. -/
  | spFormatComplete (k : IsleNo)
  /-- SCRUB_ROW: R275. -/
  | scrubRow (k : IsleNo) (us : Upsets)
  /-- SCRUB_DEADLINE: R275. -/
  | scrubDeadline (k : IsleNo) (us : Upsets)
  /-- ATOLL_ENABLE: R281. -/
  | atollEnable (k : IsleNo) (n : AtollNo) (r0 r4 : BitVec 32) (thr : Nat)
  /-- ATOLL_DISABLE: R281. -/
  | atollDisable (k : IsleNo) (n : AtollNo)
  /-- REMOTE_LINK: R291. -/
  | remoteLink (k : IsleNo) (m : Fin 16) (d : IsleNo) (n : AtollNo)
  /-- LINK_ANSWER: R291. -/
  | linkAnswer (k : IsleNo) (m : Fin 16)
  /-- REMOTE_UNLINK: R291. -/
  | remoteUnlink (k : IsleNo) (m : Fin 16)
  /-- STRAIT_WRITE_ARRIVAL: R290. -/
  | straitWriteArrival (k src : IsleNo) (us : Upsets)
  /-- STRAIT_READ_REQUEST: R288. -/
  | straitReadRequest (k : IsleNo) (c : CtxNo)
  /-- SLOT_CREDIT_RETURN: R292. -/
  | slotCreditReturn (k : IsleNo) (n : AtollNo)
  /-- WAKE_NOTICE: R293. -/
  | wakeNotice (k src : IsleNo) (c : CtxNo)
  /-- REMOTE_RETRY: R293. -/
  | remoteRetry (k : IsleNo) (c : CtxNo)
  -- Movers (12_movers_and_regions.md)
  /-- DMA_SHADOW_WRITE: R319. -/
  | dmaShadowWrite (e : Engine) (c : ChanNo) (b : Bytes)
  /-- DMA_ENABLE: R319. -/
  | dmaEnable (e : Engine) (c : ChanNo) (ctrl : BitVec 32) (v : Serves)
  /-- DMA_TRANSFER_START: R324. -/
  | dmaTransferStart (e : Engine) (us : Upsets)
  /-- DMA_TRANSFER_COMPLETE: R327. -/
  | dmaTransferComplete (e : Engine)
  /-- DMA_ARRIVAL: R327. -/
  | dmaArrival (e : Engine) (c : ChanNo)
  /-- DMA_PAUSE: R328. -/
  | dmaPause (e : Engine) (c : ChanNo)
  /-- DMA_PAUSED: R328. -/
  | dmaPaused (e : Engine) (c : ChanNo) (n : Nat)
  /-- DMA_RESUME: R329. -/
  | dmaResume (e : Engine) (c : ChanNo)
  /-- DMA_ABORT: R331. -/
  | dmaAbort (e : Engine) (c : ChanNo)
  /-- DMA_RESET: R332. -/
  | dmaReset (e : Engine) (c : ChanNo)
  /-- DMA_WAIT_LIMIT: R326. -/
  | dmaWaitLimit (e : Engine) (c : ChanNo)
  /-- WINDOW_WRITE: R336. -/
  | windowWrite (o : OwnerNo) (n : Fin 64) (b : Bytes) (secure : Bool)
  -- External memory (14_memory_codec_encryption.md)
  /-- CODEC_WINDOW_WRITE: R386. -/
  | codecWindowWrite (n : Fin 16) (b : Bytes)
  /-- MEM_PATROL: R371. -/
  | memPatrol (us : Upsets)
  -- Adaptation (13_adaptation.md)
  /-- SAMPLE_CAPTURE: R347. -/
  | sampleCapture (k : SlotNo) (n : BitVec 32) (d : Fin 2)
  /-- ADAPT_STEP_START: R350. -/
  | adaptStepStart (k : SlotNo) (d : Fin 2) (isles : BitVec 16)
  /-- ADAPT_STEP_COMMIT: R345. -/
  | adaptStepCommit (k : SlotNo) (d : Fin 2) (loss : BitVec 32) (lossExp : BitVec 8)
  /-- ADAPT_RESET_COMMAND: R346. -/
  | adaptResetCommand (w : Write) (k : SlotNo) (b : Bytes)
  -- The system (15_system.md)
  /-- MANAGER_ELECTION: R395. -/
  | managerElection
  /-- BEACON_TRANSMIT: R400. -/
  | beaconTransmit
  /-- BEACON: R401. -/
  | beacon (at_ : Nat) (p : EthNo) (src b : Bytes)
  /-- BEACON_WINDOW_EXPIRY: R401. -/
  | beaconWindowExpiry
  /-- MANAGER_TAKEOVER: R406. -/
  | managerTakeover
  /-- ISOLATED: R405. -/
  | isolated
  /-- MEMBER_LOST: R405. -/
  | memberLost (node : Fin 48)
  /-- JOIN: R404. -/
  | join (at_ : Nat) (p : EthNo) (src b : Bytes)
  /-- JOIN_ACCEPT: R404. -/
  | joinAccept (at_ : Nat) (p : EthNo) (src b : Bytes)
  /-- DIGEST_SEND: R427. -/
  | digestSend
  /-- DIGEST: R420. -/
  | digest (at_ : Nat) (p : EthNo) (src b : Bytes)
  /-- DIGEST_COMPARE: R428. -/
  | digestCompare
  /-- EPOCH_SCHEDULE: R422. -/
  | epochSchedule (w : Write) (b : Bytes)
  /-- EPOCH_CANCEL: R422. -/
  | epochCancel (w : Write)
  /-- STREAM_PLACEMENT: R420. -/
  | streamPlacement
  /-- EPOCH_READINESS_CLOSE: R423. -/
  | epochReadinessClose
  /-- REREAD_MEMBER: R424. -/
  | rereadMember (w : Write) (b : Bytes)
  /-- DATA: R417. -/
  | data (at_ : Nat) (p : EthNo) (src b : Bytes)
  /-- ACK: R413. -/
  | ack (at_ : Nat) (p : EthNo) (src b : Bytes)
  /-- ACK_PERIODIC: R413. -/
  | ackPeriodic (src : Fin 48) (chan : BitVec 8)
  /-- CAUSEWAY_RETRANSMIT: R414. -/
  | causewayRetransmit (dest : Fin 48) (chan : BitVec 8)
  /-- FLOW_RESET_SEND: R414. -/
  | flowResetSend (dest : Fin 48) (chan : BitVec 8)
  /-- FLOW_RESET: R414. -/
  | flowReset (at_ : Nat) (p : EthNo) (src b : Bytes)
  /-- RELAY_REQUEST: R418. -/
  | relayRequest (at_ : Nat) (p : EthNo) (src b : Bytes) (a : Around)
  /-- RELAY_RESPONSE: R418. -/
  | relayResponse (at_ : Nat) (p : EthNo) (src b : Bytes)
  /-- RELAY_TIMEOUT: R418. -/
  | relayTimeout (transaction : BitVec 16)
  -- Ethernet (16_ethernet.md)
  /-- ETH_LINK_UP: R431. -/
  | ethLinkUp (at_ : Nat) (p : EthNo)
  /-- ETH_LINK_DOWN: R431. -/
  | ethLinkDown (at_ : Nat) (p : EthNo)
  /-- ETH_UNSUPPORTED_FRAME: R433. -/
  | ethUnsupportedFrame (p : EthNo) (u : Unsupported)
  /-- ARP_REQUEST: R433. -/
  | arpRequest (p : EthNo) (mac sender target : Bytes)
  /-- ND_MESSAGE: R433. -/
  | ndMessage (p : EthNo) (m : NdMessage)
  /-- ICMP_ECHO_REQUEST: R433. -/
  | icmpEchoRequest (p : EthNo) (dst src body : Bytes)
  /-- MULTICAST_QUERY: R433. -/
  | multicastQuery (p : EthNo) (six : Bool) (group : Bytes)
  /-- PFC_FRAME: R440. -/
  | pfcFrame (at_ : Nat) (p : EthNo) (b : Bytes)
  /-- PFC_REFRESH: R440. -/
  | pfcRefresh (p : EthNo)
  /-- PFC_WATCHDOG: R441. -/
  | pfcWatchdog (p : EthNo)
  /-- STOP_COMMAND: R448. -/
  | stopCommand (at_ : Nat) (p : EthNo) (src : Bytes) (sport : BitVec 16) (b : Bytes)
  /-- RELEASE_COMMAND: R448. -/
  | releaseCommand (at_ : Nat) (p : EthNo) (src : Bytes) (sport : BitVec 16) (b : Bytes)
  /-- STOP_HOLD_EXPIRY: R448. -/
  | stopHoldExpiry (k : SlotNo)
  /-- PTP_EVENT_MESSAGE: R450. -/
  | ptpEventMessage (at_ : Nat) (p : EthNo) (ns : Fin 10) (peer b : Bytes)
  /-- PTP_HOLDOVER: R451. -/
  | ptpHoldover
  -- Object dictionary and control ports (17_object_dictionary.md)
  /-- OD_ENTRY_WRITE: R470. -/
  | odEntryWrite (w : Write) (i : BitVec 16) (sub : BitVec 8) (b : Bytes) (a : Around)
  /-- NMT_START: R458. -/
  | nmtStart (at_ : Nat) (p : CanNo)
  /-- NMT_STOP: R458. -/
  | nmtStop (at_ : Nat) (p : CanNo)
  /-- NMT_ENTER_PREOPERATIONAL: R458. -/
  | nmtEnterPreoperational (at_ : Nat) (p : CanNo)
  /-- NMT_RESET_COMMUNICATION: R458. -/
  | nmtResetCommunication (at_ : Nat) (p : CanNo)
  /-- HEARTBEAT_PRODUCE: R457. -/
  | heartbeatProduce (p : CanNo)
  /-- HEARTBEAT_RECEIVE: R474. -/
  | heartbeatReceive (at_ : Nat) (p : CanNo) (node : Fin 128)
  /-- HEARTBEAT_LAPSE: R464. -/
  | heartbeatLapse (p : CanNo)
  /-- CAN_BUS_OFF: R456. -/
  | canBusOff (at_ : Nat) (p : CanNo)
  /-- CAN_ERROR_PASSIVE: R456. -/
  | canErrorPassive (at_ : Nat) (p : CanNo)
  /-- USDO_FOREIGN_CLIENT: R455. -/
  | usdoForeignClient (at_ : Nat) (p : CanNo) (node : Fin 128)
  /-- SUPERVISOR_VERSION_WRITE: R467. -/
  | supervisorVersionWrite (w : Write) (b : Bytes)
  /-- START_SERVICE: R468. -/
  | startService (w : Write) (b : Bytes)
  /-- STORE_PARAMETERS: R464. -/
  | storeParameters (w : Write) (b : Bytes)
  /-- RESTORE_DEFAULTS: R464. -/
  | restoreDefaults (w : Write) (b : Bytes)
  /-- SEMAPHORE_CLAIM: R472. -/
  | semaphoreClaim (w : Write) (b : Bytes) (other : Option Bytes)
  /-- SEMAPHORE_RELEASE: R473. -/
  | semaphoreRelease (w : Write) (b : Bytes)
  /-- SEMAPHORE_RENEW: R473. -/
  | semaphoreRenew (w : Write) (b : Bytes)
  /-- LEASE_EXPIRY: R474. -/
  | leaseExpiry (q : Requester)
  /-- TOKEN_RATE_LIMIT_END: R473. -/
  | tokenRateLimitEnd (q : Requester)
  -- Reset, firmware and update (18_firmware_and_update.md)
  /-- DEVICE_RESET: R552. -/
  | deviceReset (st : Straps) (trained : Bool) (fails : Fin 16)
  /-- STAGE_FROM_SD: R493. -/
  | stageFromSd (w : Write) (b : Bytes) (card : Option Bytes)
  /-- STAGING_COMPLETE: R493. -/
  | stagingComplete (at_ : Nat) (readBack : Bool)
  /-- SD_CARD_REMOVED: R493. -/
  | sdCardRemoved (at_ : Nat)
  /-- ACTIVATE: R495. -/
  | activate (w : Write) (b : Bytes)
  /-- ACTIVATION_CORE_SWITCH: R495. -/
  | activationCoreSwitch (at_ : Nat) (r : Bytes) (selfCheck : Bool)
  /-- SCHEDULER_CORE_SWITCH: R497. -/
  | schedulerCoreSwitch (at_ : Nat) (r : Bytes) (selfCheck : Bool)
  /-- ACTIVATION_RESUME: R498. -/
  | activationResume
  /-- CONFIRM: R501. -/
  | confirm (w : Write) (b : Bytes)
  /-- AUTO_CONFIRM: R501. -/
  | autoConfirm
  /-- REVERT: R502. -/
  | revert (w : Write) (b : Bytes)
  -- Faults, fencing and events (19_faults_and_availability.md)
  /-- FENCE_COMMAND: R508. -/
  | fenceCommand (w : Write) (b : Bytes)
  /-- ISLE_HANG: R508. -/
  | isleHang (k : IsleNo) (c : CtxNo)
  /-- FENCE_COMPLETE: R511. -/
  | fenceComplete (k : IsleNo)
  /-- UNFENCE_COMMAND: R517. -/
  | unfenceCommand (w : Write) (b : Bytes)
  /-- ISLE_UNFENCED: R517. -/
  | isleUnfenced (at_ : Nat) (k : IsleNo) (ok : Bool)
  /-- WEIGHTS_RELOADED: R518. -/
  | weightsReloaded (at_ : Nat) (k : IsleNo) (row : Fin 12288) (data : Bytes)
  /-- CLEAR_RING_NOTICE: R519. -/
  | clearRingNotice (w : Write) (b : Bytes)
  /-- EMCY_TRANSMIT: R523. -/
  | emcyTransmit (p : CanNo)
  /-- EVENT_LOG_POLL: R525. -/
  | eventLogPoll (node : Fin 48)
  -- Owners and the ledger (20_owners_and_ledger.md)
  /-- CREATE_OWNER: R529. -/
  | createOwner (w : Write) (b : Bytes)
  /-- KEY_LOAD: R532. -/
  | keyLoad (w : Write) (b : Bytes)
  /-- OWNER_LOCK_SET: R534. -/
  | ownerLockSet (w : Write) (b : Bytes)
  /-- OWNER_LOCK_CLEAR: R534. -/
  | ownerLockClear (w : Write) (b : Bytes)
  /-- KILL_JOB: R536. -/
  | killJob (w : Write) (b : Bytes)
  /-- SCRUB_COMPLETE: R537. -/
  | scrubComplete (at_ : Nat) (o : OwnerNo)
  /-- SCRUB_OVERDUE: R537. -/
  | scrubOverdue (o : OwnerNo)
  /-- LEDGER_SAMPLE: R538. -/
  | ledgerSample (at_ : Nat) (isles : Vector (BitVec 24) 16) (front movers rest : BitVec 24) (mv amps : BitVec 16)
  /-- INTERVAL_CLOSED: R539. -/
  | intervalClosed (fails : Fin 16)
  -- Power, thermal limits (21_power_thermal_pins.md)
  /-- POWER_GOOD: R558. -/
  | powerGood (at_ : Nat)
  /-- PFW_ASSERTED: R559. -/
  | pfwAsserted (at_ : Nat) (f : ShedFigures)
  /-- PFW_DEASSERTED: R558. -/
  | pfwDeasserted (at_ : Nat)
  /-- THERM_ASSERTED: R556. -/
  | thermAsserted (at_ : Nat)
  /-- THERM_DEASSERTED: R556. -/
  | thermDeasserted (at_ : Nat)
  /-- THERMAL_SAMPLE: R556. -/
  | thermalSample (at_ : Nat) (ts : Vector (BitVec 16) 20)
  /-- THERMAL_LIMIT_STEP: R556. -/
  | thermalLimitStep (at_ : Nat)
  /-- ISLE_THERMAL: R556. -/
  | isleThermal (k : IsleNo)
  /-- RAIL_MONITOR_SAMPLE: R563. -/
  | railMonitorSample (at_ : Nat) (inRange : BitVec 8) (f : ShedFigures)
  -- Further rows of the table
  /-- ATOLL_NOTICE_CLEAR: R280. -/
  | atollNoticeClear (k : IsleNo) (n : AtollNo) (v : BitVec 32)
  /-- CAN_ERROR_ACTIVE: R456. -/
  | canErrorActive (at_ : Nat) (p : CanNo)
  /-- ARP_REPLY: R433. -/
  | arpReply (p : EthNo) (mac sender : Bytes)
  /-- RELAY_LEASE_RENEWAL: R476. -/
  | relayLeaseRenewal (node : Fin 48)
  /-- JTAG_INSTRUCTION: R568. -/
  | jtagInstruction (op : JtagOp) (authenticated : Bool)
  deriving DecidableEq, Repr

end Sys2Proof
end

