-- ==== Sys2Proof/Decode.lean ====
section
/-! DEFINITION. The decoder over the rows of spec/opcode_table.json that give bits. None does: every row's list of fields is
empty, the block takes commands and fetches no words (DEDUCED, log entry 3). -/

namespace Sys2Proof

/-- The command a word of the table's bits spells: no row gives bits, so none. -/
def decodeTableWord (_nbits _w : Nat) : Option Instr := none

end Sys2Proof
end

