-- ==== Sys2Proof/Machine/Bytes.lean ====
section
/-! DEFINITION. Byte order, bit fields, two's complement, division and saturation as the notation of
spec/00_scope.md and spec/08_arithmetic.md gives them. -/

namespace Sys2Proof.Machine

/-- The number a little-endian byte string spells (R6). -/
def leNat : Bytes → Nat
  | [] => 0
  | b :: bs => b.toNat + 256 * leNat bs

/-- The number a big-endian byte string spells (wire headers, R6). -/
def beNat (bs : Bytes) : Nat := leNat bs.reverse

/-- `n` little-endian bytes of a number, modulo 2^(8n). -/
def toLe : Nat → Nat → Bytes
  | 0, _ => []
  | n + 1, v => byte v :: toLe n (v / 256)

/-- `n` big-endian bytes of a number. -/
def toBe (n v : Nat) : Bytes := (toLe n v).reverse

/-- `len` bytes at offset `off`; bytes past the end read 0. -/
def slice (bs : Bytes) (off len : Nat) : Bytes :=
  let t := (bs.drop off).take len
  t ++ List.replicate (len - t.length) 0

/-- The little-endian field of `len` bytes at `off`. -/
def leAt (bs : Bytes) (off len : Nat) : Nat := leNat (slice bs off len)

/-- The big-endian field of `len` bytes at `off`. -/
def beAt (bs : Bytes) (off len : Nat) : Nat := beNat (slice bs off len)

/-- Bits `lo .. lo+n-1` of a number. -/
def bitsOf (v lo n : Nat) : Nat := v / 2 ^ lo % 2 ^ n

/-- Bit `i` of a number as a truth value. -/
def bitOf (v i : Nat) : Bool := v.testBit i

/-- The two's complement reading of the low `w` bits. -/
def signed (w v : Nat) : Int :=
  let u := v % 2 ^ w
  if u < 2 ^ (w - 1) then (u : Int) else (u : Int) - (2 ^ w : Nat)

/-- The `w`-bit two's complement word of an integer. -/
def unsigned (w : Nat) (v : Int) : Nat := (v % ((2 ^ w : Nat) : Int)).toNat

/-- The little-endian signed field of `len` bytes at `off`. -/
def leIntAt (bs : Bytes) (off len : Nat) : Int := signed (8 * len) (leAt bs off len)

/-- `v` clamped to the interval `lo .. hi`. -/
def clampInt (lo hi v : Int) : Int := max lo (min hi v)

/-- Saturation to a signed `w`-bit value. -/
def satS (w : Nat) (v : Int) : Int := clampInt (-(2 ^ (w - 1) : Nat)) ((2 ^ (w - 1) : Nat) - 1) v

/-- Saturation to an unsigned `w`-bit value. -/
def satU (w : Nat) (v : Int) : Nat := (clampInt 0 ((2 ^ w : Nat) - 1) v).toNat

/-- `ceil(a / b)`; 0 where `b` is 0. -/
def ceilDiv (a b : Nat) : Nat := (a + b - 1) / b

/-- The least multiple of `m` that is not below `a`. -/
def roundUp (a m : Nat) : Nat := ceilDiv a m * m

/-- `floor(log2 v)`, 0 for 0. -/
def log2 (v : Nat) : Nat := Nat.log2 v

/-- Whether a number is a power of two. -/
def isPow2 (v : Nat) : Bool := v != 0 && 2 ^ Nat.log2 v == v

/-- All bytes of a string zero (reserved fields, R16). -/
def allZero (bs : Bytes) : Bool := bs.all (· == 0)

/-- The bytes of `bs` with `new` written over them at offset `off` (bytes past the end are dropped). -/
def patch (bs : Bytes) (off : Nat) (new : Bytes) : Bytes :=
  bs.take off ++ new.take (bs.length - off) ++ bs.drop (off + new.length)

/-- A list cut into pieces of `n` items; the last piece holds what is left. -/
def chunks {α : Type} (n : Nat) (xs : List α) : List (List α) :=
  (List.range (ceilDiv xs.length n)).map fun i => (xs.drop (i * n)).take n

/-- The exclusive or of two byte strings, to the shorter length. -/
def xorBytes (a b : Bytes) : Bytes := List.zipWith (· ^^^ ·) a b

/-- A 32-bit wrapping counter one higher. -/
def bump (c : Word32) : Word32 := c + 1

/-- An 8-bit saturating count one higher. -/
def bumpSat8 (n : Nat) : Nat := min 255 (n + 1)

end Sys2Proof.Machine
end

