-- ==== Sys2Proof/Machine/Crypto.lean ====
section
/-! DEFINITION. The named algorithms the spec calls on: CRC-32 (R444, R484, R544), SHA-256 (R427), SHA-384 and
ECDSA P-384 (R485), AES-256-GCM (R80, R173, R408, R531, R534). The algorithms themselves are those of the standards
the spec names (IEEE 802.3, FIPS 180-4, FIPS 186, FIPS 197, SP 800-38D); PRESUMED, log entry 20. -/

namespace Sys2Proof.Machine

/-! ### CRC-32 of IEEE 802.3 -/

/-- One bit of the reflected CRC with polynomial 0xEDB88320. -/
def crcBit (c : BitVec 32) : BitVec 32 := if c.getLsbD 0 then (c >>> 1) ^^^ 0xEDB88320#32 else c >>> 1

/-- One byte of the CRC. -/
def crcByte (c : BitVec 32) (b : Byte) : BitVec 32 := Nat.iterate crcBit 8 (c ^^^ b.setWidth 32)

/-- CRC-32 of a byte string. -/
def crc32 (bs : Bytes) : Nat := ((bs.foldl crcByte 0xFFFFFFFF#32) ^^^ 0xFFFFFFFF#32).toNat

/-! ### SHA-2 -/

/-- `floor(x ^ (1/k))`, found bit by bit from bit `fuel - 1`. -/
def iroot (k x : Nat) : Nat → Nat → Nat
  | 0, acc => acc
  | n + 1, acc => if (acc + 2 ^ n) ^ k ≤ x then iroot k x n (acc + 2 ^ n) else iroot k x n acc

/-- Whether `p` is prime, by trial division. -/
def primeTrial (p : Nat) : Bool := 2 ≤ p && (List.range p).all fun d => d < 2 || p % d != 0

/-- The first `n` primes. -/
def firstPrimes (n : Nat) : List Nat := ((List.range 420).filter primeTrial).take n

/-- The first `w` fraction bits of the `k`-th root of `p`: the constants of FIPS 180-4. -/
def rootFrac (w k p : Nat) : Nat := iroot k (p * 2 ^ (k * w)) (w + 8) 0 % 2 ^ w

/-- The round constants: cube roots of the first primes. -/
def shaK (w rounds : Nat) : List (BitVec w) := (firstPrimes rounds).map fun p => BitVec.ofNat w (rootFrac w 3 p)

/-- The shift and rotation amounts of one member of the family: Sigma0, Sigma1 and sigma0, sigma1. -/
structure ShaShape where
  big0 : Nat × Nat × Nat
  big1 : Nat × Nat × Nat
  small0 : Nat × Nat × Nat
  small1 : Nat × Nat × Nat

/-- The shape of SHA-256. -/
def sha256Shape : ShaShape := ⟨(2, 13, 22), (6, 11, 25), (7, 18, 3), (17, 19, 10)⟩

/-- The shape of SHA-512 and SHA-384. -/
def sha512Shape : ShaShape := ⟨(28, 34, 39), (14, 18, 41), (1, 8, 7), (19, 61, 6)⟩

/-- Three rotations exclusive-ored. -/
def rot3 {w : Nat} (t : Nat × Nat × Nat) (x : BitVec w) : BitVec w :=
  x.rotateRight t.1 ^^^ x.rotateRight t.2.1 ^^^ x.rotateRight t.2.2

/-- Two rotations and a shift exclusive-ored. -/
def rot2s {w : Nat} (t : Nat × Nat × Nat) (x : BitVec w) : BitVec w :=
  x.rotateRight t.1 ^^^ x.rotateRight t.2.1 ^^^ (x >>> t.2.2)

/-- The message schedule, newest word first. -/
def shaExpand {w : Nat} (sh : ShaShape) : Nat → List (BitVec w) → List (BitVec w)
  | 0, ws => ws
  | n + 1, ws =>
    let g i := ws.getD i 0
    shaExpand sh n ((rot2s sh.small1 (g 1) + g 6 + rot2s sh.small0 (g 14) + g 15) :: ws)

/-- One round on the working words a..h. -/
def shaRound {w : Nat} (sh : ShaShape) (st : List (BitVec w)) (kw : BitVec w) : List (BitVec w) :=
  match st with
  | [a, b, c, d, e, f, g, h] =>
    let t1 := h + rot3 sh.big1 e + ((e &&& f) ^^^ (~~~e &&& g)) + kw
    let t2 := rot3 sh.big0 a + ((a &&& b) ^^^ (a &&& c) ^^^ (b &&& c))
    [t1 + t2, a, b, c, d + t1, e, f, g]
  | st => st

/-- One block. -/
def shaBlock {w : Nat} (sh : ShaShape) (ks : List (BitVec w)) (st : List (BitVec w)) (blk : List (BitVec w)) :
    List (BitVec w) :=
  let ws := (shaExpand sh (ks.length - 16) blk.reverse).reverse
  List.zipWith (· + ·) st ((List.zipWith (· + ·) ks ws).foldl (shaRound sh) st)

/-- Padding: a one bit, zeros, the bit length in a double word. -/
def shaPad (w : Nat) (m : Bytes) : Bytes :=
  let blk := 2 * w
  let used := (m.length + 1 + w / 4) % blk
  m ++ [0x80] ++ List.replicate ((blk - used) % blk) 0 ++ toBe (w / 4) (8 * m.length)

/-- The hash of a message from initial words. -/
def shaHash (w : Nat) (sh : ShaShape) (ks iv : List (BitVec w)) (m : Bytes) : Bytes :=
  let words := (chunks (w / 8) (shaPad w m)).map fun b => BitVec.ofNat w (beNat b)
  ((chunks 16 words).foldl (shaBlock sh ks) iv).flatMap fun x => toBe (w / 8) x.toNat

/-- SHA-256. -/
def sha256 (m : Bytes) : Bytes :=
  shaHash 32 sha256Shape (shaK 32 64) ((firstPrimes 8).map fun p => BitVec.ofNat 32 (rootFrac 32 2 p)) m

/-- SHA-384. -/
def sha384 (m : Bytes) : Bytes :=
  (shaHash 64 sha512Shape (shaK 64 80)
    (((firstPrimes 16).drop 8).map fun p => BitVec.ofNat 64 (rootFrac 64 2 p)) m).take 48

/-! ### AES-256 -/

/-- Multiplication by x in the field of AES. -/
def xtime (b : Byte) : Byte := if b.getLsbD 7 then (b <<< 1) ^^^ 0x1B else b <<< 1

/-- The product in the field of AES. -/
def gmul8 (a b : Byte) : Byte :=
  (List.range 8).foldl (fun acc i => if b.getLsbD i then acc ^^^ Nat.iterate xtime i a else acc) 0

/-- The field inverse (a to the 254th), 0 for 0. -/
def ginv8 (a : Byte) : Byte := Nat.iterate (gmul8 a) 253 a

/-- The S-box of FIPS 197. -/
def sboxOf (a : Byte) : Byte :=
  let b := ginv8 a
  b ^^^ b.rotateLeft 1 ^^^ b.rotateLeft 2 ^^^ b.rotateLeft 3 ^^^ b.rotateLeft 4 ^^^ 0x63

/-- The S-box as a table. -/
def sboxTable : List Byte := (List.range 256).map fun i => sboxOf (byte i)

/-- The S-box. -/
def sbox (b : Byte) : Byte := sboxTable.getD b.toNat 0

/-- The key schedule of AES-256 as 4-byte words, newest first; `n` words to add, `i` the index of the next. -/
def aesExpand : Nat → Nat → List Bytes → List Bytes
  | 0, _, ws => ws
  | n + 1, i, ws =>
    let prev := ws.getD 0 []
    let t :=
      if i % 8 = 0 then
        xorBytes ((prev.rotateLeft 1).map sbox) [Nat.iterate xtime (i / 8 - 1) 1, 0, 0, 0]
      else if i % 8 = 4 then prev.map sbox else prev
    aesExpand n (i + 1) (xorBytes (ws.getD 7 []) t :: ws)

/-- The 15 round keys. -/
def aesRoundKeys (key : Bytes) : List Bytes :=
  (chunks 4 (aesExpand 52 8 (chunks 4 key).reverse).reverse).map List.flatten

/-- Row shifting on the 16 bytes, column by column. -/
def shiftRows (s : Bytes) : Bytes := (List.range 16).map fun i => s.getD ((i + 4 * (i % 4)) % 16) 0

/-- Column mixing. -/
def mixColumns (s : Bytes) : Bytes :=
  (List.range 16).map fun i =>
    let g j := s.getD (i / 4 * 4 + (i + j) % 4) 0
    xtime (g 0) ^^^ (xtime (g 1) ^^^ g 1) ^^^ g 2 ^^^ g 3

/-- One AES-256 block encryption under round keys. -/
def aesBlock (rks : List Bytes) (b : Bytes) : Bytes :=
  let s0 := xorBytes b (rks.getD 0 [])
  let s13 := ((rks.drop 1).take 13).foldl (fun s rk => xorBytes (mixColumns (shiftRows (s.map sbox))) rk) s0
  xorBytes (shiftRows (s13.map sbox)) (rks.getD 14 [])

/-! ### GCM (SP 800-38D) -/

/-- Product in the field of GHASH, on 128-bit numbers whose most significant bit is the first. -/
def ghashMul (x y : BitVec 128) : BitVec 128 :=
  ((List.range 128).foldl
    (fun (p : BitVec 128 × BitVec 128) i =>
      let z := if x.getMsbD i then p.1 ^^^ p.2 else p.1
      let v := if p.2.getLsbD 0 then (p.2 >>> 1) ^^^ (0xE1#128 <<< 120) else p.2 >>> 1
      (z, v)) (0, y)).1

/-- 16-byte blocks of a string, the last padded with zeros, as 128-bit numbers. -/
def gcmBlocks (bs : Bytes) : List (BitVec 128) := (chunks 16 bs).map fun b => BitVec.ofNat 128 (beNat (slice b 0 16))

/-- The counter-mode stream for a 12-byte nonce, from counter 2, over `n` bytes. -/
def gcmStream (rks : List Bytes) (nonce : Bytes) (n : Nat) : Bytes :=
  ((List.range (ceilDiv n 16)).flatMap fun i => aesBlock rks (nonce ++ toBe 4 (i + 2))).take n

/-- The 16-byte tag over additional data and ciphertext. -/
def gcmTag (rks : List Bytes) (nonce aad ct : Bytes) : Bytes :=
  let h := BitVec.ofNat 128 (beNat (aesBlock rks (List.replicate 16 0)))
  let lens := BitVec.ofNat 128 (8 * aad.length * 2 ^ 64 + 8 * ct.length)
  let g := (gcmBlocks aad ++ gcmBlocks ct ++ [lens]).foldl (fun y x => ghashMul (y ^^^ x) h) 0
  xorBytes (toBe 16 g.toNat) (aesBlock rks (nonce ++ [0, 0, 0, 1]))

/-- AES-256-GCM encryption: ciphertext and tag. -/
def gcmSeal (key nonce aad pt : Bytes) : Bytes × Bytes :=
  let rks := aesRoundKeys key
  let ct := xorBytes pt (gcmStream rks nonce pt.length)
  (ct, gcmTag rks nonce aad ct)

/-- AES-256-GCM decryption: the plaintext where the tag verifies. -/
def gcmOpen (key nonce aad ct tag : Bytes) : Option Bytes :=
  let rks := aesRoundKeys key
  if gcmTag rks nonce aad ct = tag then some (xorBytes ct (gcmStream rks nonce ct.length)) else none

/-! ### ECDSA on P-384 -/

/-- The prime of the field. -/
def p384P : Nat := 2 ^ 384 - 2 ^ 128 - 2 ^ 96 + 2 ^ 32 - 1

/-- The order of the base point. -/
def p384N : Nat :=
  2 ^ 384 - 0x389CB27E0BC8D220A7E5F24DB74F58851313E695333AD68D

/-- The curve's constant b. -/
def p384B : Nat :=
  0xB3312FA7E23EE7E4988E056BE3F82D19181D9C6EFE814112_0314088F5013875AC656398D8A2ED19D2A85C8EDD3EC2AEF

/-- The base point. -/
def p384G : Nat × Nat :=
  (0xAA87CA22BE8B05378EB1C71EF320AD746E1D3B628BA79B98_59F741E082542A385502F25DBF55296C3A545E3872760AB7,
   0x3617DE4A96262C6F5D9E98BF9292DC29F8F41DBD289A147C_E9DA3113B5F0B8C00A60B1CE1D7E819D7A431D7C90EA0E5F)

/-- Modular power by squaring over the low `n` bits of the exponent. -/
def powMod (m b e : Nat) : Nat → Nat
  | 0 => 1 % m
  | n + 1 =>
    let r := powMod m b (e / 2) n
    if e % 2 = 1 then r * r % m * b % m else r * r % m

/-- The inverse modulo a prime below 2^384. -/
def invMod (m a : Nat) : Nat := powMod m a (m - 2) 384

/-- Point addition; `none` is the point at infinity. -/
def ecAdd (a b : Option (Nat × Nat)) : Option (Nat × Nat) :=
  match a, b with
  | none, q => q
  | p, none => p
  | some (x1, y1), some (x2, y2) =>
    let p := p384P
    if x1 = x2 ∧ (y1 + y2) % p = 0 then none
    else
      let l := if x1 = x2 then (3 * x1 * x1 + (p - 3)) % p * invMod p (2 * y1 % p) % p
               else (y2 + p - y1) % p * invMod p ((x2 + p - x1) % p) % p
      let x3 := (l * l + 2 * p - x1 - x2) % p
      some (x3, (l * (x1 + p - x3) + p - y1) % p)

/-- `k` times a point over the low `n` bits of `k`. -/
def ecMul (k : Nat) (pt : Option (Nat × Nat)) : Nat → Option (Nat × Nat)
  | 0 => none
  | n + 1 =>
    let h := ecMul (k / 2) pt n
    let d := ecAdd h h
    if k % 2 = 1 then ecAdd d pt else d

/-- Whether the ECDSA P-384 signature (r, s) over a SHA-384 hash verifies under the public point (x, y). -/
def ecdsaVerify (x y : Nat) (hash : Bytes) (r s : Nat) : Bool :=
  let n := p384N
  let p := p384P
  if r = 0 || s = 0 || n ≤ r || n ≤ s || p ≤ x || p ≤ y
      || y * y % p != (x * x % p * x + (p - 3) * x + p384B) % p then false
  else
    let w := invMod n s
    let z := beNat hash
    match ecAdd (ecMul (z * w % n) (some p384G) 384) (ecMul (r * w % n) (some (x, y)) 384) with
    | none => false
    | some (x1, _) => x1 % n = r

end Sys2Proof.Machine
end

