-- ==== Sys2Proof/Config.lean ====
section
/-! DEFINITION. What an implementation fixes and what the spec leaves open: fuse values, random draws and free values.
Every constant here has no body, so nothing can be proved of its value. -/

namespace Sys2Proof

/-- A byte read from external memory that was written under another key, or never written (R375): by the key that
reads, the byte's address and a fresh draw. -/
opaque Config.garbledByte : Nat → Nat → Nat → BitVec 8

/-- Whether a strong word with four or more flipped bits, and a light word whose flips parity cannot see, escapes
detection as R273 allows. -/
opaque Config.escapesDetection : Nat → Nat → Bool

/-- The grid Linry's stage programme needs for a geometry other than the planned one: by plan, step, layer, width, height and the
sizes of the stripes received over causeway (R316). -/
opaque Config.runtimeGrid : Nat → Nat → Nat → Nat → Nat → List (Nat × Nat) → Nat × Nat

/-- What the fuses hold: 0 grade, 1 device unique ID, 2 vendor ID, 3 serial number, 4 base MAC address, 5 key slots fused
and revoked, 6 minimum security version, 7 and 8 the hashes of key slots 0 and 1, 9 device provisioning key, 10 the
JEDEC manufacturer code (R17, R485,
R530, R568). -/
opaque Config.fuse : Nat → Nat

/-- What the header of the image the device is shipped with holds: 0 firmware_version, 1 handoff_version, 2 handoff_min
(R484). -/
opaque Config.factory : Nat → Nat

/-- Random bytes of the security core, by draw: keys and tokens (R375, R469, R529). -/
opaque Config.randomNat : Nat → Nat

/-- Accesses of an op that took the fallback path, by draw (R286). -/
opaque Config.conflicts : Nat → Nat

/-- Array-cycles of null products in a governor window, by draw (R44). -/
opaque Config.nullCycles : Nat → Nat

/-- Which of two unordered tie-breaks the hardware takes, by draw. -/
opaque Config.choice : Nat → Nat

/-- What an element of a stage's output or of its new state may depend on (R127, R133): the hash of the image, the stage descriptor, the
weights in force (R343), the input lines y - halo_top to y + halo_bottom, the state lines they meet, and the line, channel and column. -/
structure StageQuery where
  hash : List (BitVec 8)
  desc : Nat
  weights : List Nat
  input : List (List (List Int))
  state : List (List (List Int))
  line : Nat
  channel : Nat
  column : Nat
  deriving DecidableEq, Repr

/-- An element of the output of a stage's reference computation, before it is narrowed to the output type (R127, R133). What the layers
compute is Linry's; that nothing but the query enters is the rule. -/
opaque Config.stageElem : StageQuery → Int

/-- An element of the state a recurrent stage's layers write (R127, R138). -/
opaque Config.stateElem : StageQuery → Int

/-- A value of the data path for which the spec states no result, by a number that tells the cases apart. -/
opaque Config.unstated : Nat → Int

end Sys2Proof
end

