-- ==== Sys2Proof/Machine/PartsIsle.lean ====
section
/-! DEFINITION. The state of an isle, of the tile counters, of the DMA engines and of the straits: spec/07_isle.md,
10_scratchpad.md, 11_tiling_and_streaming.md and 12_movers_and_regions.md. A field's default is its reset value. -/

namespace Sys2Proof.Machine

/-- States of TILE_CTX_STATUS (R210). -/
inductive CtxPhase where
  | idle | ready | running | waiting | faulted | releasing
  deriving DecidableEq, Repr

/-- Wait causes of R183. -/
inductive WaitCause where
  | none | tag | claim | fence | queue | wait
  deriving DecidableEq, Repr

/-- One op slot of op memory: its 64 bytes (R186). -/
structure QueuedOp where
  bytes : Bytes
  deriving DecidableEq, Repr

/-- An open CLAIM block (R188): the counter, the index held, the tile's place against the grid's last row and
column (R308), and the block's length. -/
structure TileBlock where
  counter : CounterNo
  index : Nat
  lastRow : Bool
  lastCol : Bool
  len : Nat
  /-- The edge masks the counter had when it granted the tile (R300, R308), and whether its grid was not the planned one (R316). -/
  rowEdge : Word32 := 0xFFFFFFFF#32
  colEdge : Word32 := 0xFFFFFFFF#32
  resized : Bool := false
  onSkerry : Option Bool := none
  deriving DecidableEq, Repr

/-- How a write combines at the bank (R267). -/
inductive BankOp where
  | plain | add32 | add16 | max8 | max16 | max32 | maxU16
  deriving DecidableEq, Repr

/-- One word written: the enabled bytes and their values (R267, R269). -/
structure WordWrite where
  isle : IsleNo
  word : Nat
  op : BankOp
  /-- Offset and value of each enabled byte, ascending. -/
  bytes : List (Nat × Byte)
  /-- A write the bank takes as a masked one although it gives all 32 bytes: a 4-byte result of R231 (R269). -/
  masked : Bool := false
  deriving DecidableEq, Repr

/-- A remote message on its way to an isle: a word to write, or the tag change that follows the last word of a
slot (R290, R293). -/
inductive StraitMsg where
  | word (w : WordWrite)
  | slotFull (atoll slot : Nat)
  | slotRead (atoll slot : Nat)
  deriving DecidableEq, Repr

/-- A message in flight: its source isle and context, its owner, what it carries, and the op that sent it (R207, R272). -/
structure StraitItem where
  src : IsleNo
  /-- The context, or none for the isle's DMA engine. -/
  ctx : Option CtxNo
  owner : OwnerNo
  dst : IsleNo
  msg : StraitMsg
  serves : Serves := .nothing
  op : Nat := 0
  /-- For a word of the DMA engine: its channel, and which of the channel's transfers sent it. -/
  sent : Option (ChanNo × Nat) := none
  deriving DecidableEq, Repr

/-- The slots of a local atoll whose tags change when an op retires: those it read, and those it wrote (R283). -/
structure TagDue where
  atoll : Nat
  reads : List Nat
  fills : List Nat
  deriving DecidableEq, Repr

/-- A task context (R179, R210). -/
structure Context where
  owner : OwnerNo := 0
  priority : Fin 4 := 0
  enable : Bool := false
  opqBase : Nat := 0
  opqCap : Nat := 0
  phase : CtxPhase := .idle
  cause : WaitCause := .none
  /-- A stop request stands (R185). -/
  stopping : Bool := false
  /-- An op is in progress but holds no unit (R181). -/
  suspended : Bool := false
  ix : Vector (BitVec 20) 4 := Vector.replicate 4 0
  seed : Word64 := 0
  /-- Ops in the queue, oldest first; a block's ops stay until it ends (R188). -/
  queue : List QueuedOp := []
  /-- Place of the head op in the queue. -/
  pos : Nat := 0
  block : Option TileBlock := none
  faultCode : Nat := 0
  faultOp : Nat := 0
  /-- Reference cycle in which the context became waiting (R184). -/
  waitSince : Nat := 0
  /-- Reference cycle in which the running op last took its unit (R508 reason 5). -/
  runSince : Nat := 0
  /-- Reference cycles the op in progress ran before that (R508 reason 5). -/
  ranFor : Nat := 0
  /-- The head op has passed the checks of R206. -/
  checked : Bool := false
  /-- The position where the op in progress stopped: how many words of its result it has written (R181). -/
  made : Nat := 0
  /-- The tag changes its retirement makes in its own isle (R283). -/
  due : List TagDue := []
  /-- Remote words an op in progress has yet to send (R289). -/
  unsent : List StraitItem := []
  /-- The tag updates of an op in progress that make up its retirement are done once its words are sent. -/
  sending : Bool := false
  /-- A FENCE in progress: each awaited channel and how many of its transfers must have arrived (R204). -/
  fenceGoal : Option (List (Nat × Nat)) := none
  /-- The FENCE's signal has been written. -/
  signalled : Bool := false
  /-- The remote reads of the head op have been served and their replies have returned (R288). -/
  fetched : Bool := false
  serves : Serves := .nothing
  /-- Units its running op holds (R177, R538). -/
  unitsHeld : Nat := 0
  /-- Its op in progress has been counted in the ledger (R538). -/
  counted : Bool := false
  deriving DecidableEq, Repr

/-- An attribute entry (R261). -/
structure AttrEntry where
  baseRow : Nat := 0
  rows : Nat := 0
  hashMode : Fin 4 := 0
  strong : Bool := false
  deriving DecidableEq, Repr

/-- An atoll (R280). -/
structure Atoll where
  base : Nat := 0
  slotWordsM1 : Nat := 0
  enable : Bool := false
  slotCount : Nat := 1
  readers : Nat := 0
  creditIsle : IsleNo := 0
  creditEnable : Bool := false
  head : Nat := 0
  tail : Nat := 0
  /-- The full slots, ascending (the level is their number). -/
  full : List Nat := []
  /-- Read counts of slots, ascending by slot; unlisted 0 (R283). -/
  reads : List (Nat × Nat) := []
  wmThreshold : Nat := 0
  highWater : Nat := 0
  notice : Bool := false
  /-- Reference cycle in which the notice was set last (R16). -/
  noticeAt : Option Nat := none
  crossings : Nat := 0
  conflicts : Word32 := 0
  /-- Slot credits on their way back to the linked writer (R292). -/
  owed : Nat := 0
  /-- The remote entry linked to it: source isle and entry (R291). -/
  linkedBy : Option (IsleNo × Nat) := none
  deriving DecidableEq, Repr

/-- A remote entry (R291). -/
structure RemoteEntry where
  isle : IsleNo := 0
  atoll : AtollNo := 0
  enable : Bool := false
  linked : Bool := false
  credits : Nat := 0
  base : Nat := 0
  slotWordsM1 : Nat := 0
  slotCount : Nat := 0
  nextSlot : Nat := 0
  /-- The link to ask for once an unlink that waits for acknowledgements is done. -/
  next : Option (IsleNo × AtollNo) := none
  /-- A link request has been sent and not answered. -/
  requested : Bool := false
  deriving DecidableEq, Repr

/-- A remote tag read answered "empty" and waiting for its slot to fill (R293). -/
structure WakeNote where
  src : IsleNo
  ctx : CtxNo
  atoll : Nat
  slot : Nat
  deriving DecidableEq, Repr

/-- A context whose remote tag read was answered "retry", and when it asks again (R293). -/
structure RetryNote where
  ctx : CtxNo
  due : Nat
  deriving DecidableEq, Repr

/-- States of a DMA channel (R333). -/
inductive ChanPhase where
  | idle | waiting | queued | running | pausing | paused | faulted
  deriving DecidableEq, Repr

/-- A byte moved by a transfer: where it goes, in transfer order. -/
inductive MovedTo where
  | sp (isle : IsleNo) (word : Nat)
  | ext (addr : Nat)
  | eth (addr : Nat)
  | push (ctx : CtxNo)
  deriving DecidableEq, Repr

/-- One chunk of a transfer: where its first byte goes and its bytes; `order` is the transfer-order offset, `cost` the
bytes it counts in the ledger (R327, R387). -/
structure Chunk where
  order : Nat
  dst : MovedTo
  bytes : Bytes
  cost : Nat
  deriving DecidableEq, Repr

/-- A completed transfer whose data has not all arrived (R327). -/
structure InTransit where
  desc : Bytes
  /-- The channel's owner and what it served as the transfer ran. -/
  owner : OwnerNo
  serial : Nat
  /-- Transfer-order offset before which everything has arrived. -/
  upTo : Nat
  chunks : List Chunk
  deriving DecidableEq, Repr

/-- A DMA channel (R319, R333). -/
structure Channel where
  owner : OwnerNo := 0
  enable : Bool := false
  pauseBit : Bool := false
  /-- The shed set the pause (R559, R561). -/
  shedPause : Bool := false
  aborting : Bool := false
  phase : ChanPhase := .idle
  shadow : Bytes := List.replicate 64 0
  shadowValid : Bool := false
  active : Bytes := List.replicate 64 0
  row : Nat := 0
  plane : Nat := 0
  byteIn : Nat := 0
  completed : BitVec 16 := 0
  arrived : BitVec 16 := 0
  faultCode : Nat := 0
  waitSince : Nat := 0
  /-- The active transfer passed its checks and took its slots (R325, R329). -/
  begun : Bool := false
  /-- Data read by the running transfer and not yet written. -/
  reading : List Chunk := []
  transit : List InTransit := []
  /-- Transfers promoted so far, and those with data whose last byte has arrived (R204, R327). -/
  serial : Nat := 0
  landed : Nat := 0
  serves : Serves := .nothing
  deriving DecidableEq, Repr

/-- A DMA engine: its channels and the channel it last served (R320). -/
structure EngineState where
  chans : Vector Channel 16 := Vector.replicate 16 {}
  lastServed : Nat := 15
  deriving DecidableEq, Repr

/-- States of a tile counter (R298). -/
inductive CounterPhase where
  | idle | armed | open_ | exhausted | closed
  deriving DecidableEq, Repr

/-- A handed-out index: which context holds it, and whether its done report came (R302, R304). -/
structure Handed where
  index : Nat
  isle : IsleNo
  ctx : CtxNo
  reported : Bool
  deriving DecidableEq, Repr

/-- A tile counter (R298). -/
structure TileCounter where
  gridCols : Nat := 0
  gridRows : Nat := 0
  order : Nat := 0
  limit : Nat := 0
  owner : OwnerNo := 0
  requeueOk : Bool := false
  isleMask : BitVec 16 := 0
  predecessor : CounterNo := 0
  rowEdge : Word32 := 0xFFFFFFFF#32
  colEdge : Word32 := 0xFFFFFFFF#32
  /-- The frame whose layer it counts, and whether its grid is not the planned one (R316). -/
  serves : Option (SlotNo × Nat) := none
  resized : Bool := false
  /-- Whether the layer it counts runs on the skerry (R129); none where the counter was written by hand. -/
  onSkerry : Option Bool := none
  next : Nat := 0
  done : Nat := 0
  phase : CounterPhase := .idle
  handed : List Handed := []
  requeued : List Nat := []
  /-- Claims waiting while armed, in order of arrival (R301). -/
  claims : List (IsleNo × CtxNo) := []
  deriving DecidableEq, Repr

/-- Isle states of 0x2300:01 (R526). -/
inductive IslePhase where
  | available | fencing | fenced | testing
  deriving DecidableEq, Repr

/-- The 64-bit and 32-bit counters of an isle (R211, R295). -/
structure IsleCounters where
  arrayBusy : Word64 := 0
  nullCycles : Word64 := 0
  switches : Word64 := 0
  waitCycles : Word64 := 0
  releaseDrops : Word64 := 0
  bankConflicts : Word64 := 0
  guardCorrected : Word64 := 0
  guardDetected : Word64 := 0
  ownerFaults : Word64 := 0
  scrubPasses : Word32 := 0
  remoteOut : Word64 := 0
  remoteIn : Word64 := 0
  deriving DecidableEq, Repr

/-- The scratchpad of an isle (R257, R271, R273). Byte b of word a is cell 32a + b; unlisted cells read 0. -/
structure Scratchpad where
  cells : List Host.Cell := []
  /-- Owner tags of words, ascending; unlisted 0. -/
  tags : List (Nat × Nat) := []
  /-- Flipped bits of words, ascending; unlisted none. -/
  upsets : List (Nat × List Nat) := []
  attrs : Vector AttrEntry 32 := Vector.replicate 32 {}
  defaultHash : Fin 4 := 2
  defaultStrong : Bool := true
  formatBusy : Bool := false
  /-- Rows the format pass has still to reach. -/
  toFormat : List Nat := []
  scrubRow : Nat := 0
  /-- Reference cycle of the last row scrubbed. -/
  scrubbedAt : Nat := 0
  deriving DecidableEq, Repr

/-- What the scheduler core keeps of an isle's errors for the fence triggers (R508, R518). -/
structure IsleHealth where
  phase : IslePhase := .available
  reason : Nat := 0
  fenceBegan : Nat := 0
  /-- Second in which the last uncorrectable strong word came. -/
  uncorrectableAt : Option Nat := none
  /-- Reference cycles of corrections in the last 60 s. -/
  corrections : List Nat := []
  /-- Ticks of light parity errors in the last 64 ticks. -/
  parityTicks : List Nat := []
  /-- Ticks of op-memory parity errors. -/
  opParityTicks : List Nat := []
  /-- Rows awaiting a weight reload, and whether the reload arrived (R518). -/
  reloads : List (Nat × Bool) := []
  /-- Since when the sensor has read at or above the fence temperature (R556). -/
  hotSince : Option Nat := none
  /-- A fence request was made since then. -/
  hotAsked : Bool := false
  /-- Steps of 50 MHz below 1,400 MHz at which the thermal loop caps the clock, for the isle's own sensor and for the four
  others; 0 where released (R556). -/
  cut : Nat := 0
  cutShared : Nat := 0
  deriving DecidableEq, Repr

/-- An isle. -/
structure IsleState where
  ctx : Vector Context 4 := Vector.replicate 4 {}
  /-- The context that last took each unit: arrays 0..7, skerry 8, vector 9, argmax 10, sequencer 11 (R182). -/
  lastTook : Vector (Fin 4) 12 := Vector.replicate 12 3
  waitLimit : Nat := 1000000
  sp : Scratchpad := {}
  atolls : Vector Atoll 64 := Vector.replicate 64 {}
  remotes : Vector RemoteEntry 16 := Vector.replicate 16 {}
  wakes : List WakeNote := []
  retries : List RetryNote := []
  /-- Messages on their way to this isle, oldest first. -/
  inbound : List StraitItem := []
  dma : EngineState := {}
  cnt : IsleCounters := {}
  health : IsleHealth := {}
  /-- The isle's stagger slot of this tick has opened (R43). -/
  slotOpen : Bool := false
  /-- When it opened. -/
  slotOpenAt : Nat := 0
  /-- Issue activity in eighths of full array issue, 0..8 (R44). -/
  activity : Nat := 0
  /-- The isle's clock in MHz (0x2B00, R555). -/
  clock : Nat := 1250
  /-- Unit-cycles held by ops since the last energy sample, by owner, and those of idle units (R538). -/
  unitTime : List (Nat × Nat) := []
  idleTime : Nat := 0
  deriving DecidableEq, Repr

/-- A region window (R335). -/
structure Window where
  space : Nat := 0
  read : Bool := false
  write : Bool := false
  sharedRead : Bool := false
  everyIsle : Bool := false
  isle : IsleNo := 0
  base : Nat := 0
  limit : Nat := 0
  deriving DecidableEq, Repr

/-- A codec window (R386). -/
structure CodecWindow where
  enable : Bool := false
  type : Nat := 0
  maxCodec : Nat := 0
  base : Nat := 0
  limit : Nat := 0
  deriving DecidableEq, Repr

/-- A line of the harbour cache (R376): its address divided by 128. Each set lists its lines, the most recently
used first. -/
structure CacheSet where
  index : Nat
  lines : List Nat
  deriving DecidableEq, Repr

/-- External memory, its controller and the harbour cache (R366 to R390). -/
structure MemState where
  /-- Plaintext of written bytes; a byte is readable only under the key its block was written with (R374, R375). -/
  cells : List Host.Cell := []
  /-- For each 16-byte block ever written, ascending, the identity of the key it was written under. -/
  keys : List (Nat × Nat) := []
  /-- Identity the next memory key pair takes (R375, R530); 1 is owner 0's at reset. -/
  nextKey : Nat := 2
  /-- Atoms with a flipped bit, ascending; true when uncorrectable. -/
  upsets : List (Nat × Bool) := []
  patrolAtom : Nat := 0
  /-- The reference cycle of its last read. -/
  patrolAt : Nat := 0
  cache : List CacheSet := []
  /-- Bytes of the Ethernet packet buffers (R321); unlisted 0. -/
  eth : List Host.Cell := []
  codec : Vector CodecWindow 16 := Vector.replicate 16 {}
  corrected : Word64 := 0
  uncorrectable : Word64 := 0
  scrubPasses : Word64 := 0
  hbHits : Word64 := 0
  hbMisses : Word64 := 0
  hbMerged : Word64 := 0
  becBlocks : Word64 := 0
  becSaved : Word64 := 0
  /-- Line fills in flight (R379). -/
  fills : List Nat := []
  /-- The memory was trained at the last start (R488). -/
  trained : Bool := true
  deriving DecidableEq, Repr

end Sys2Proof.Machine
end

