-- ==== Sys2Proof/Machine/PartsStream.lean ====
section
/-! DEFINITION. The state of a stream's slot: ingest (spec/03_raw_ingest.md), stages and temporal state
(05_neural_stages.md), outputs (06_outputs_and_analysis.md) and adaptation (13_adaptation.md). A field's default is
its reset value. Settings and counters that the object dictionary lists live in the dictionary's own store. -/

namespace Sys2Proof.Machine

/-- A value of an object-dictionary entry: a number, or a byte string. -/
inductive OdVal where
  | num (v : Int)
  | raw (b : Bytes)
  deriving DecidableEq, Repr

/-- Frame outcomes of R35. -/
inductive FrameOutcome where
  | done | late | failed
  deriving DecidableEq, Repr

/-- Pixels of one 64-pixel cell of a line of an exposure (R77, R84): which of them arrived and their unpacked
values. -/
structure Cell where
  plane : Nat
  line : Nat
  cell : Nat
  /-- Column within the cell and value of each pixel written, ascending. -/
  pix : List (Nat × Nat)
  deriving DecidableEq, Repr

/-- The geometry a frame runs under (R64, R65): lines and pixels of an exposure, packing or lane mode, sample width, exposures,
CFA period. -/
structure Geometry where
  width : Nat := 0
  height : Nat := 0
  mode : Nat := 0
  sampleWidth : Nat := 12
  exposures : Nat := 1
  per : Nat := 1
  deriving DecidableEq, Repr

/-- State of a ring entry (R85). -/
inductive EntryPhase where
  | free | filling | closed | processing
  deriving DecidableEq, Repr

/-- A frame-ring entry: the header of R85, the pixels, and the instants the close conditions of R87 need. -/
structure RingEntry where
  phase : EntryPhase := .free
  closeReason : Nat := 0
  frame : Nat := 0
  status : Word32 := 0
  srcWidth : Nat := 0
  srcHeight : Nat := 0
  width : Nat := 0
  height : Nat := 0
  packing : Nat := 0
  exposures : Nat := 1
  cfaPeriod : Nat := 1
  /-- Where the entry lies in external memory, fixed when it opened (R65, R83). -/
  base : Nat := 0
  firstSeq : Nat := 0
  lastSeq : Nat := 0
  captureTime : Nat := 0
  closeTick : Nat := 0
  closeAt : Nat := 0
  datagrams : Nat := 0
  cellsRepaired : Nat := 0
  lastFlagAt : Option Nat := none
  lastDatagramAt : Nat := 0
  laterFrameAt : Option Nat := none
  codec : Nat := 0
  /-- Exposures and sample width in force when the entry opened. -/
  planes : Nat := 1
  sampleWidth : Nat := 12
  cells : List Cell := []
  /-- The frame is a stream restart under R82. -/
  restart : Bool := false
  deriving DecidableEq, Repr

/-- A stripe of a tensor in a stripe buffer: its stripe number, the element type (0 U16, 1 INT16, 2 INT8) and size of its channels,
and its words in the layout of R128, as bytes. Where a buffer lies in a scratchpad is fixed by Linry's image only. -/
structure StripeData where
  stripe : Nat
  type : Nat
  channels : Nat
  lines : Nat
  width : Nat
  bytes : Bytes
  deriving DecidableEq, Repr

/-- Progress of one stage of the active level in a frame (R130). -/
structure StageRun where
  started : List Nat := []
  completed : List Nat := []
  /-- Completed stripes still held in the stage's output buffers. -/
  held : List StripeData := []
  deriving DecidableEq, Repr

/-- A state header of R139. -/
structure StateHeader where
  valid : Bool := false
  generation : Nat := 0
  writerFrame : Nat := 0
  writerTick : Nat := 0
  deriving DecidableEq, Repr

/-- The two halves of a recurrent stage's state, by stage descriptor (R138). -/
structure StateHalves where
  desc : Nat
  half0 : StateHeader := {}
  half1 : StateHeader := {}
  deriving DecidableEq, Repr

/-- What a frame fixed for a recurrent stage at its start (R140): the half it reads, if any, whether the state is
usable, the half it writes. -/
structure HalfChoice where
  desc : Nat
  read : Option Bool
  usable : Bool
  write : Bool
  deriving DecidableEq, Repr

/-- Progress of analysis in a frame (R160). -/
inductive AnalysisPhase where
  | none | running | done | skipped
  deriving DecidableEq, Repr

/-- A held candidate record of R161, with its record index. -/
structure Candidate where
  gx : Nat
  gy : Nat
  l : Nat
  t : Nat
  r : Nat
  b : Nat
  cls : Nat
  score : Nat
  head : Nat
  index : Nat
  deriving DecidableEq, Repr

/-- A detection record of R165. -/
structure Detection where
  x0 : Nat
  y0 : Nat
  x1 : Nat
  y1 : Nat
  cls : Nat
  score : Nat
  head : Nat
  suppressed : Nat
  deriving DecidableEq, Repr

/-- A DATA frame of a cut tensor received: stripe, segment, whether it is the stripe's last, and its bytes in the layout of R128,
decoded where coded (R416, R417). -/
structure CutSegment where
  stripe : Nat
  segment : Nat
  last : Bool
  bytes : Bytes
  deriving DecidableEq, Repr

/-- The weights an adapted stage runs under in a frame: the adaptation descriptor, the set, the programme that reads it, and what names its
contents (R343). -/
structure FrameSet where
  desc : Nat
  set : Nat
  /-- Where the programme variant that reads the set lies in the image. -/
  program : Nat
  generation : Nat
  steps : Nat
  deriving DecidableEq, Repr

/-- The RW-F entries a frame takes with it when it begins: display alpha, score and IoU thresholds, suppression mode (R175). -/
structure FrameKnobs where
  alpha : Nat := 255
  score : Nat := 128
  iou : Nat := 32768
  mode : Nat := 0
  deriving DecidableEq, Repr

/-- A frame the device is processing, or has processed. -/
structure Frame where
  number : Nat
  /-- An in-line frame of which no line has come: it has not started, and may yet turn out zero-size (R35, R71). -/
  unopened : Bool := false
  /-- The front image it runs under (R98, R116). -/
  front : Bytes := []
  knobs : FrameKnobs := {}
  /-- Tick in which its processing began. -/
  tick : Nat
  width : Nat
  height : Nat
  level : Nat := 0
  generation : Nat := 0
  warming : Bool := false
  status : Word32 := 0
  captureTime : Nat := 0
  /-- Boundary at which the frame began to borrow, and its deadline (R54). -/
  borrow : Option (Nat × Nat) := none
  /-- It began in a tick that starts no frame work (R57). -/
  coasted : Bool := false
  /-- Ring entry it is read from (memory path). -/
  entry : Option Nat := none
  outEntry : Option Nat := none
  halves : List HalfChoice := []
  /-- The weights of each adaptation descriptor, fixed at the start: descriptor, deployed set, generation and step count (R343). -/
  sets : List FrameSet := []
  frontDone : List Nat := []
  frontHeld : List StripeData := []
  /-- DATA frames of the cut tensor received (R416). -/
  cut : List CutSegment := []
  /-- Lines the in-line port has given the front: exposure, line, samples. -/
  inlineLines : List Cell := []
  /-- Lines dropped for want of a buffer (R74). -/
  dropped : List (Nat × Nat) := []
  stages : List StageRun := []
  /-- Formatter stripes done: kind and stripe. -/
  formatted : List (Nat × Nat) := []
  analysis : AnalysisPhase := .none
  cands : List Candidate := []
  /-- The step whose post-processors took candidates or wrote the map (R160, R276). -/
  postStep : Option Nat := none
  detections : List Detection := []
  detectDone : Bool := false
  /-- Pixels of the map written, and the ops of blocks that wrote them: counter, index and place in the block (R160, R167). -/
  mapPixels : Nat := 0
  mapOps : List (Nat × Nat × Nat) := []
  /-- Steps re-run under R276 in this frame. -/
  rerun : List Nat := []
  /-- Steps waiting at the head of the tick programme for their re-run. -/
  rerunPending : List Nat := []
  /-- Codes this frame has raised that are raised once per frame. -/
  once : List Nat := []
  outcome : Option FrameOutcome := none
  faultCode : Nat := 0
  outcomeTick : Nat := 0
  /-- Plan identifier it runs under. -/
  plan : Nat := 0
  geo : Geometry := {}
  deriving DecidableEq, Repr

/-- State of an output entry (R170). -/
inductive OutPhase where
  | free | writing | complete | void
  deriving DecidableEq, Repr

/-- An output-ring entry; its header and sections are bytes of external memory (R170). -/
structure OutEntry where
  phase : OutPhase := .free
  frame : Nat := 0
  /-- The frames whose analysis on this device reads it: analysing slot and frame number (R171). -/
  pins : List (Nat × Nat) := []
  deriving DecidableEq, Repr

/-- The sequence record of R79: the highest sequence and, by distance below it, what was seen. -/
structure SeqRecord where
  top : Nat
  seen : BitVec 64
  /-- Distance below `top` from which sequences never count as gaps: they precede the first after a clear. -/
  floor : Nat
  deriving DecidableEq, Repr

/-- A header of adaptation state (R344). -/
structure AdaptHeader where
  valid : Bool := false
  deployedSet : Nat := 0
  generation : Nat := 0
  stepCount : Nat := 0
  commitTick : Nat := 0
  loss : Int := 0
  lossExp : Int := 0
  baseline : Int := 0
  baselineExp : Int := 0
  deriving DecidableEq, Repr

/-- A pair of the sample ring (R347, R348). -/
structure SamplePair where
  frame : Nat
  stripe : Nat
  /-- The entry of the sample ring that holds it. -/
  entry : Nat
  first : Bool
  second : Bool
  /-- Outcome checks of the two frames so far. -/
  firstOk : Bool := false
  usable : Bool := false
  generation : Nat := 0
  plan : Nat := 0
  deriving DecidableEq, Repr

/-- A running adaptation step (R350). -/
structure AdaptStep where
  set : Nat
  tick : Nat
  stepCount : Nat
  isles : List IsleNo
  cycles : Nat
  deriving DecidableEq, Repr

/-- Adaptation of one adaptation descriptor of a slot (R340 to R362). -/
structure AdaptStage where
  desc : Nat
  generation : Nat := 0
  half0 : AdaptHeader := {}
  half1 : AdaptHeader := {}
  running : Option AdaptStep := none
  badLosses : Nat := 0
  pairs : List SamplePair := []
  /-- The entry of the sample ring after the one taken last (R347). -/
  nextEntry : Nat := 0
  resetPending : Bool := true
  deriving DecidableEq, Repr

/-- Stop state of a result stream (R448). -/
structure StopState where
  stopped : Bool := false
  holdEnd : Option Nat := none
  lastSeq : Option Nat := none
  /-- The cycle of the last accepted frame, the highest sequence accepted before it, and those accepted in it. -/
  lastAt : Nat := 0
  before : Option Nat := none
  inCycle : List Nat := []
  deriving DecidableEq, Repr

/-- A frame whose header has been written and whose result datagrams are to be sent (R172): its output entry, its number, and
kind, offset and length of each section present. -/
structure ResultJob where
  entry : Nat
  frame : Nat
  sections : List (Nat × Nat × Nat)
  deriving DecidableEq, Repr

/-- The result stream of a slot (R172). -/
structure ResultState where
  seq : Nat := 0
  jobs : List ResultJob := []
  deriving DecidableEq, Repr

/-- What a frame ring's watermark keeps (R519). -/
structure RingMark where
  level : Nat := 0
  highWater : Nat := 0
  notice : Bool := false
  crossings : Nat := 0
  deriving DecidableEq, Repr

/-- The in-line port (R69 to R74), used by slot 0. -/
structure InlinePort where
  fv : Bool := false
  /-- The number the next frame takes. -/
  nextFrame : Nat := 0
  /-- Line-valid pulses of the frame, cut lines included. -/
  pulses : Nat := 0
  syncErrorNext : Bool := false
  /-- After a break: CAM_FV is ignored until the port re-arms (R73). -/
  broken : Bool := false
  /-- The frame is being received: CAM_FV is high and it is not broken. -/
  active : Bool := false
  /-- Reference cycle since which CAM_LV has been low. -/
  lowSince : Nat := 0
  /-- Ingest bits of the frame so far (R93). -/
  status : Word32 := 0
  /-- Geometry the frame being received was begun under (R65). -/
  geo : Geometry := {}
  deriving DecidableEq, Repr

/-- A slot. -/
structure Slot where
  inl : InlinePort := {}
  seq : Option SeqRecord := none
  newest : Option Nat := none
  lastAccepted : Option Nat := none
  restartPending : Bool := false
  /-- The frames counted as lost for want of an entry (R90). -/
  lost : List Nat := []
  entries : List RingEntry := []
  mark : RingMark := {}
  frames : List Frame := []
  finished : List Frame := []
  /-- Frames with an outcome whose report waits for an older frame of the slot (R34). -/
  reports : List Frame := []
  /-- DATA payloads of the downstream frame that waits for a borrowing frame to end (R54, R417). -/
  cutWait : List Bytes := []
  halves : List StateHalves := []
  /-- Invalidation reasons that take effect at the next frame start (R142). -/
  reasons : List Nat := [1]
  /-- Level of the last frame that was not valid_empty (R147). -/
  lastLevel : Option Nat := none
  planNone : Bool := false
  /-- The code of the shape-mismatch mark (R126, R316). -/
  shape : Option Nat := none
  /-- A plan entry took effect at an epoch since the last frame start (R316 step 4). -/
  planChanged : Bool := false
  /-- Whether the last frame fell back because the mosaic net was unavailable (R110). -/
  fellBack : Bool := false
  /-- Argmax was unavailable at the last frame (R168). -/
  argmaxGone : Bool := false
  outRing : List OutEntry := []
  outNext : Nat := 0
  stop : StopState := {}
  result : ResultState := {}
  adapt : List AdaptStage := []
  /-- Charge in the tick, in isle-cycles, and steps started in it (R360). -/
  charge : Nat := 0
  steps : Nat := 0
  shed : Bool := false
  /-- Front image in force and its shadow (R116). -/
  front : Bytes := []
  frontShadow : Option Bytes := none
  /-- The last commit changed a front field and no frame has begun under it (R117). -/
  commitNew : Bool := false
  /-- Defect-list entries outside the geometry were counted for this commit and geometry (R105). -/
  defectsCounted : Bool := false
  deriving DecidableEq, Repr

end Sys2Proof.Machine
end

