-- ==== Sys2Proof/Machine/PartsSystem.lean ====
section
/-! DEFINITION. The device-wide state: the tick (spec/02_tick.md), events (19_faults_and_availability.md), the object
dictionary and the control ports (17_object_dictionary.md), the system (15), Ethernet (16), firmware (18), owners and
ledger (20), power (21). A field's default is its reset value. -/

namespace Sys2Proof.Machine

/-- Sync states of R52. -/
inductive SyncState where
  | internal | acquiring | locked | holdover | freeRun
  deriving DecidableEq, Repr

/-- The window an edge is looked for in (R51). -/
structure EdgeWindow where
  /-- Instant of the boundary it belongs to. -/
  boundary : Nat
  /-- Its start, exclusive, in offset time. -/
  start : Int
  /-- Its end, inclusive, in offset time. -/
  stop : Int
  found : Bool := false
  deriving DecidableEq, Repr

/-- The tick sequencer (R36 to R62). -/
structure TickState where
  number : Nat := 0
  /-- Instant of the last boundary. -/
  boundary : Nat := 0
  /-- Instant of the next boundary. -/
  next : Nat := 3333333
  /-- Correction that placed the next boundary. -/
  correction : Int := 0
  sync : SyncState := .internal
  /-- Consecutive windows without an edge, and with one (R52). -/
  missing : Nat := 0
  edges : Nat := 0
  /-- Consecutive missing pulses since the state last counted from 0 (8 lead to free-run). -/
  lost : Nat := 0
  window : Option EdgeWindow := none
  /-- Reference cycle of the last level change of TICK_IN (R51). -/
  pinAt : Nat := 0
  /-- A sync reset is due at the next boundary: resync command, tick-number load (R59). -/
  resync : Bool := false
  /-- Tick number to load at the next boundary (R401). -/
  load : Option Nat := none
  /-- The programme latched, and whether one has ever been (R41 step 6). -/
  programme : Option Programme := none
  coasted : Nat := 0
  /-- The reference cycles in which the last TICK_OUT pulse rises and falls: the pin is high between them (R53). -/
  pulse : Option (Nat × Nat) := none
  /-- Limiter steps granted in the window that ended last (R45). -/
  granted : Nat := 0
  windowAt : Nat := 0
  /-- Input samples the front has processed in the tick (R114). -/
  frontSamples : Nat := 0
  /-- Tick of the epoch applied last (R423). -/
  epochDone : Option Nat := none
  deriving DecidableEq, Repr

/-- An event record of R521. -/
structure EventRecord where
  number : Nat
  code : Nat
  severity : Nat
  forwarded : Bool
  node : Nat
  slot : Nat
  isle : Nat
  tick : Nat
  detail : Nat
  deriving DecidableEq, Repr

/-- The event log (R521, R522). -/
structure EventState where
  log : List EventRecord := []
  /-- Records written since reset, modulo 2^32. -/
  written : Nat := 0
  /-- Codes raised in this tick that are raised once per tick, with what they are counted for. -/
  onceTick : List (Nat × Nat) := []
  /-- The error register as last reported (R524). -/
  errorReg : Nat := 0
  deriving DecidableEq, Repr

/-- A queued EMCY message (R523). -/
structure Emcy where
  code : Nat
  register : Nat
  data : Bytes
  deriving DecidableEq, Repr

/-- NMT states of R458. -/
inductive NmtState where
  | initialising | preOperational | operational | stopped
  deriving DecidableEq, Repr

/-- Fault confinement states of ISO 11898-1 (R456). -/
inductive CanStatus where
  | active | passive | busOff
  deriving DecidableEq, Repr

/-- A CAN FD control port (R454 to R458). -/
structure CanPort where
  nmt : NmtState := .preOperational
  status : CanStatus := .active
  emcy : List Emcy := []
  /-- Reference cycle of the last EMCY sent (R523, inhibit time 0x1015). -/
  emcyAt : Option Nat := none
  /-- Last heartbeat received from the supervisor, and whether its lapse was raised (R464). -/
  heartbeatAt : Option Nat := none
  lapsed : Bool := false
  /-- When the next heartbeat of the port is due (R457). -/
  produceAt : Option Nat := none
  /-- Settings in force, taken from the entries at reset and at reset communication (R454). -/
  enabled : Bool := true
  nodeId : Nat := 1
  supervisor : Nat := 0x70
  nominalRate : Nat := 1
  dataRate : Nat := 1
  deriving DecidableEq, Repr

/-- Negotiation states of R466. -/
inductive NegoState where
  | none | agreed | refused
  deriving DecidableEq, Repr

/-- What the device keeps for one requester (R466, R469, R473): negotiation, token and lease, its recent token
mismatches and the refusal second, and the answer to its last write: 0, or the abort code of R459. -/
structure RequesterState where
  nego : NegoState := .none
  version : Nat := 0
  agreed : Nat := 0
  token : Nat := 0
  leaseEnd : Nat := 0
  mismatches : List Nat := []
  limitEnd : Option Nat := none
  answer : Nat := 0
  deriving DecidableEq, Repr

/-- A request that came in the management pause of an activation, which waits for its end (R459, R495): a write of a port, or a relayed
request with its sender and transaction; `card` is what an SD card held. -/
inductive HeldRequest where
  | write (w : Write) (index sub : Nat) (b : Bytes) (card : Option Bytes)
  | relayed (src transaction : Nat) (b : Bytes) (card : Option Bytes)
  deriving DecidableEq, Repr

/-- The object dictionary: values that differ from their defaults, pending RW-E and RW-F values, requesters, the
semaphores of the eight domains (R469) and their round-robin bit. Each store ascends by entry key. -/
structure OdState where
  vals : List (Nat × OdVal) := []
  pendE : List (Nat × OdVal) := []
  pendF : List (Nat × OdVal) := []
  /-- RW-E values written after boundary E - 2: they belong to the epoch after E (R424). -/
  pendLate : List (Nat × OdVal) := []
  /-- The epoch that those came too late for. -/
  lateFor : Option Nat := none
  reqs : Vector RequesterState 3 := Vector.replicate 3 {}
  holders : Vector (Option Requester) 8 := Vector.replicate 8 none
  tieToB : Bool := false
  /-- Requests held in the management pause, in their order (R495). -/
  waiting : List HeldRequest := []
  deriving DecidableEq, Repr

/-- Owner states of R529. -/
inductive OwnerPhase where
  | absent | active | scrubbing
  deriving DecidableEq, Repr

/-- A loaded key and its salt (R530). -/
structure LoadedKey where
  key : Bytes
  salt : Bytes
  deriving DecidableEq, Repr

/-- An owner: its state, the identity of its memory key pair, its keys and the last counter accepted under each KEK it has had
(R529 to R533). For owner 0 the causeway slots hold the system causeway key. -/
structure OwnerState where
  phase : OwnerPhase := .absent
  memKey : Nat := 0
  kek : Option Bytes := none
  stream0 : Option LoadedKey := none
  stream1 : Option LoadedKey := none
  /-- The stream key slot loaded last whose first datagram has not come: false for slot 0. -/
  streamNew : Option Bool := none
  result : Option LoadedKey := none
  /-- A result key that takes effect at the next boundary. -/
  resultNext : Option LoadedKey := none
  causeway0 : Option LoadedKey := none
  causeway1 : Option LoadedKey := none
  counters : List (Bytes × Nat) := []
  /-- Ethernet-buffer windows the owner had when it was killed, still to be zeroed: base and limit (R537). -/
  scrubEth : List (Nat × Nat) := []
  /-- Tick of the kill, while scrubbing (R537). -/
  killedAt : Nat := 0
  /-- 0xA007 was raised for this scrub. -/
  overdue : Bool := false
  deriving DecidableEq, Repr

/-- Second fault and depletion (R513, R516). -/
structure AvailState where
  secondFault : Bool := false
  depleted : Bool := false
  /-- The slot whose adaptation step committed last (R359). -/
  adaptLast : Nat := 47
  deriving DecidableEq, Repr

end Sys2Proof.Machine
end

