-- ==== Sys2Proof/Machine/OdTable.lean ====
section
/-! DEFINITION. The entries of the object dictionary: index, subindices, type, access, default and range, as the
tables of R61, R94, R119, R148, R175, R364, R391, R429, R452, R464, R465, R466, R471, R477, R505, R526, R547, R548
and R570 give them. A range that depends on other values is a rule of the write (Machine/Od.lean). -/

namespace Sys2Proof.Machine

/-- Data types of R460. A byte string carries its least and greatest length and the step between lengths. -/
inductive OdType where
  | bool | u8 | u16 | u32 | u48 | u64 | i8 | i16 | i32 | str
  | octets (lo hi step : Nat)
  | domain (lo hi step : Nat)
  deriving DecidableEq, Repr

/-- Access codes of R14. -/
inductive OdAccess where
  | ro | rw | wo | rwe | rwf
  deriving DecidableEq, Repr

/-- The values a number may take (R24). -/
inductive OdRange where
  | any
  | span (lo hi : Int)
  | oneOf (vs : List Int)
  deriving DecidableEq, Repr

/-- A row of an entry table: subindices `sub .. last` of `index`; `slot0` says whether a slot entry is present on
slot 0 only or on slots 1 to 47 only. -/
structure OdRow where
  index : Nat
  sub : Nat
  last : Nat
  type : OdType
  acc : OdAccess
  dflt : OdVal
  range : OdRange := .any
  slot0 : Option Bool := none
  deriving DecidableEq, Repr

/-- A one-subindex numeric row. -/
def nRow (i s : Nat) (t : OdType) (a : OdAccess) (d : Int) (r : OdRange := .any) (z : Option Bool := none) : OdRow :=
  ⟨i, s, s, t, a, .num d, r, z⟩

/-- A byte-string row whose default is `d`. -/
def bRow (i s l : Nat) (t : OdType) (a : OdAccess) (d : Bytes) : OdRow := ⟨i, s, l, t, a, .raw d, .any, none⟩

/-- `n` zero bytes. -/
def zeros (n : Nat) : Bytes := List.replicate n 0

/-- The bytes of an ASCII string. -/
def ascii (s : String) : Bytes := s.toList.map fun c => byte c.toNat

/-- Communication objects (R464). Fuse and strap values are read elsewhere. -/
def commRows : List OdRow :=
  [nRow 0x1000 0 .u32 .ro 0, nRow 0x1001 0 .u8 .ro 0,
   bRow 0x1008 0 0 .str .ro (ascii "SV4816"), bRow 0x1009 0 0 .str .ro (ascii "B1"), bRow 0x100A 0 0 .str .ro [],
   nRow 0x1010 0 .u8 .ro 1, nRow 0x1010 1 .u32 .rw 1 (.oneOf [0x65766173]),
   nRow 0x1011 0 .u8 .ro 1, nRow 0x1011 1 .u32 .rw 1 (.oneOf [0x64616F6C]),
   nRow 0x1014 0 .u32 .rw 0, nRow 0x1015 0 .u16 .rw 0,
   nRow 0x1016 0 .u8 .ro 2, nRow 0x1016 1 .u32 .rw 0x007003E8 (.span 0 0x00FFFFFF),
   nRow 0x1016 2 .u32 .rw 0x007003E8 (.span 0 0x00FFFFFF),
   nRow 0x1017 0 .u16 .rw 200,
   nRow 0x1018 0 .u8 .ro 4, nRow 0x1018 1 .u32 .ro 0, nRow 0x1018 2 .u32 .ro 0x00004816,
   nRow 0x1018 3 .u32 .ro 0x000100B1, nRow 0x1018 4 .u32 .ro 0]

/-- Identity, service and control ports (R465), negotiation (R466), semaphore (R471). -/
def serviceRows : List OdRow :=
  [nRow 0x2000 0 .u8 .ro 0x0C, bRow 0x2000 1 1 .str .ro (ascii "SV4816"), nRow 0x2000 2 .u8 .ro 0xB1,
   nRow 0x2000 3 .u8 .ro 0, bRow 0x2000 4 4 (.octets 16 16 1) .ro (zeros 16), nRow 0x2000 5 .u32 .ro 0,
   bRow 0x2000 6 6 (.octets 2 16 2) .ro [1, 0], nRow 0x2000 7 .u8 .ro 0, nRow 0x2000 8 .u8 .ro 0,
   nRow 0x2000 9 .u16 .ro 0, nRow 0x2000 0x0A .bool .rw 1, nRow 0x2000 0x0B .u8 .wo 0 (.oneOf [1]),
   nRow 0x2000 0x0C .u32 .ro 0,
   nRow 0x2001 0 .u8 .ro 6, nRow 0x2001 1 .u16 .rw 0, nRow 0x2001 2 .u16 .ro 0, nRow 0x2001 3 .u8 .ro 0,
   nRow 0x2001 4 .u16 .ro 0, nRow 0x2001 5 .u16 .ro 0, nRow 0x2001 6 .u16 .ro 0,
   nRow 0x2010 0 .u8 .ro 0x0A, nRow 0x2010 1 .u8 .wo 0 (.span 1 255), nRow 0x2010 2 .u32 .ro 0,
   nRow 0x2010 3 .u32 .wo 0, nRow 0x2010 4 .u32 .wo 0, nRow 0x2010 5 .u8 .ro 0,
   bRow 0x2010 6 6 (.octets 32 32 1) .ro (zeros 32), nRow 0x2010 7 .bool .ro 0, nRow 0x2010 8 .u32 .ro 0,
   nRow 0x2010 9 .u32 .ro 0, nRow 0x2010 0x0A .u32 .ro 0]

/-- Control-port settings of one port, at subindex base 0x00 (A) or 0x10 (B) (R465). A node-ID of 0 stands for the default,
1 + 0x2900:01. -/
def canRows (b : Nat) : List OdRow :=
  [nRow 0x2002 (b + 1) .bool .rw 1, nRow 0x2002 (b + 2) .u8 .rw 0 (.span 1 127), nRow 0x2002 (b + 3) .u8 .rw 1 (.span 0 2),
   nRow 0x2002 (b + 4) .u8 .rw 1 (.span 0 4), nRow 0x2002 (b + 5) .u8 .rw 0x70 (.span 1 127),
   nRow 0x2002 (b + 6) .u8 .ro 0, nRow 0x2002 (b + 7) .u32 .ro 0]

/-- Tick entries (R61). -/
def tickRows : List OdRow :=
  [nRow 0x2100 0 .u8 .ro 0x11, nRow 0x2100 1 .u32 .rwe 3333333 (.span 833333 10000000), nRow 0x2100 2 .u48 .ro 0,
   nRow 0x2100 3 .u8 .rwe 0 (.span 0 1), nRow 0x2100 4 .i32 .rwe 0 (.span (-100000) 100000),
   nRow 0x2100 5 .u8 .rwe 0 (.span 0 1), nRow 0x2100 6 .u8 .ro 0, nRow 0x2100 7 .u8 .ro 0, nRow 0x2100 8 .i32 .ro 0,
   nRow 0x2100 9 .i32 .rwe 0 (.span (-200000) 200000), nRow 0x2100 0x0A .u32 .rwe 1000 (.span 100 100000),
   nRow 0x2100 0x0B .bool .rw 1, nRow 0x2100 0x0C .u8 .wo 0 (.oneOf [1]), nRow 0x2100 0x0D .u32 .ro 0,
   nRow 0x2100 0x0E .u32 .ro 0, nRow 0x2100 0x0F .u32 .rw 0 (.oneOf [0]), nRow 0x2100 0x10 .u32 .ro 0,
   nRow 0x2100 0x11 .u8 .ro 0]

/-- Front defaults (R119), isles and fencing (R526, R364). -/
def isleRows : List OdRow :=
  [nRow 0x2300 0 .u8 .ro 0x7F, bRow 0x2300 1 1 (.octets 16 16 1) .ro (zeros 16), nRow 0x2300 2 .u8 .ro 0,
   nRow 0x2300 3 .u8 .wo 0 (.span 0 15), nRow 0x2300 4 .u8 .wo 0 (.span 0 15), nRow 0x2300 5 .u8 .ro 0,
   nRow 0x2300 6 .bool .rwe 1, nRow 0x2300 7 .u32 .rwe 86400 (.span 60 31536000),
   nRow 0x2300 8 .u32 .rwe 4096 (.span 16 1048576), nRow 0x2300 9 .u16 .rwe 16 (.span 2 1024),
   nRow 0x2300 0x0A .u32 .rwe 100000 (.span 10000 10000000), bRow 0x2300 0x0B 0x0B (.octets 6 6 1) .ro (zeros 6),
   nRow 0x2300 0x0C .u32 .ro 0, nRow 0x2300 0x0D .u32 .ro 0,
   ⟨0x2300, 0x20, 0x2F, .u8, .ro, .num 0, .any, none⟩, nRow 0x2300 0x40 .bool .rw 1,
   ⟨0x2300, 0x50, 0x7F, .u8, .rwe, .num 128, .any, none⟩]

/-- The front defaults (R119). -/
def frontRows : List OdRow :=
  [nRow 0x2200 0 .u8 .ro 3, bRow 0x2200 1 1 (.domain 41736 41736 1) .rw [], nRow 0x2200 2 .u32 .ro 8000,
   nRow 0x2200 3 .u16 .ro 0]

/-- Ledger (R548). -/
def ledgerRows : List OdRow :=
  [nRow 0x2400 0 .u8 .ro 0x0C, nRow 0x2400 1 .u8 .rwe 15 (.span 1 60), nRow 0x2400 2 .i32 .rwe 0 (.span (-86400) 86400),
   bRow 0x2400 3 3 (.octets 0 64 4) .rwe [], nRow 0x2400 4 .u32 .ro 0, nRow 0x2400 5 .u8 .ro 0, nRow 0x2400 6 .u48 .ro 0,
   nRow 0x2400 7 .u32 .ro 0, bRow 0x2400 8 8 (.domain 0 16384 1024) .ro [], bRow 0x2400 9 9 (.domain 384 384 1) .ro [],
   nRow 0x2400 0x0A .u32 .ro 0, nRow 0x2400 0x0B .u16 .ro 0, nRow 0x2400 0x0C .u16 .ro 0]

/-- Update (R505). -/
def updateRows : List OdRow :=
  [nRow 0x2500 0 .u8 .ro 0x11, nRow 0x2500 1 .u8 .ro 0, nRow 0x2500 2 .u8 .ro 0, nRow 0x2500 3 .u8 .wo 0 (.oneOf [1]),
   nRow 0x2500 4 .u8 .ro 0, nRow 0x2500 5 .u8 .wo 0 (.oneOf [1]), nRow 0x2500 6 .u8 .wo 0 (.oneOf [1]),
   nRow 0x2500 7 .u8 .wo 0 (.oneOf [1]), nRow 0x2500 8 .u16 .rw 60 (.span 0 10080), nRow 0x2500 9 .u8 .ro 0,
   nRow 0x2500 0x0A .u16 .ro 0, nRow 0x2500 0x0B .u32 .ro 0, nRow 0x2500 0x0C .u8 .ro 0, nRow 0x2500 0x0D .u32 .ro 0,
   nRow 0x2500 0x0E .u8 .ro 0, nRow 0x2500 0x0F .u32 .ro 0, nRow 0x2500 0x10 .u8 .ro 0, nRow 0x2500 0x11 .u16 .ro 0]

/-- Faults and events (R526). -/
def eventRows : List OdRow :=
  [nRow 0x2600 0 .u8 .ro 0xAF, nRow 0x2600 1 .u32 .ro 0, nRow 0x2600 2 .u8 .rwe 1 (.span 0 4),
   nRow 0x2600 3 .u8 .rwe 2 (.span 0 4), bRow 0x2600 5 5 (.domain 0 1536 24) .ro [], nRow 0x2600 7 .u32 .ro 0,
   nRow 0x2600 8 .u16 .ro 0, nRow 0x2600 0x10 .u8 .rwe 3 (.span 0 8), nRow 0x2600 0x11 .u8 .wo 0 (.span 1 47),
   bRow 0x2600 0x81 0xAF (.octets 5 5 1) .ro (zeros 5)]

/-- Power and thermal (R570). -/
def powerRows : List OdRow :=
  [nRow 0x2700 0 .u8 .ro 0x30, nRow 0x2700 1 .u8 .ro 0, nRow 0x2700 2 .u8 .ro 0, nRow 0x2700 3 .bool .ro 0,
   nRow 0x2700 4 .u8 .rwe 95 (.span 70 105), nRow 0x2700 5 .u8 .rwe 1 (.span 0 1),
   nRow 0x2700 6 .u16 .rwe 1400 (.oneOf [1250, 1300, 1350, 1400]), nRow 0x2700 7 .u16 .ro 0, nRow 0x2700 8 .u16 .ro 0,
   nRow 0x2700 9 .u32 .ro 0, nRow 0x2700 0x0A .i16 .ro 0, nRow 0x2700 0x0B .u8 .rwe 108 (.span 100 109),
   nRow 0x2700 0x0C .u32 .ro 0, nRow 0x2700 0x0D .u16 .ro 0, nRow 0x2700 0x0E .u8 .ro 0xFF,
   ⟨0x2700, 0x10, 0x1F, .u16, .ro, .num 1250, .any, none⟩, ⟨0x2700, 0x20, 0x2F, .i16, .ro, .num 0, .any, none⟩,
   nRow 0x2700 0x30 .u8 .ro 0]

/-- Security and owners (R547). -/
def ownerRows : List OdRow :=
  [nRow 0x2800 0 .u8 .ro 9, bRow 0x2800 1 1 (.octets 16 16 1) .ro (1 :: zeros 15), nRow 0x2800 2 .u8 .wo 0 (.span 1 15),
   nRow 0x2800 3 .u8 .wo 0 (.span 1 15), bRow 0x2800 4 4 (.domain 80 80 1) .wo [],
   bRow 0x2800 5 5 (.octets 16 16 1) .ro (zeros 16), nRow 0x2800 6 .u16 .ro 0, bRow 0x2800 7 7 (.domain 32 32 1) .wo [],
   bRow 0x2800 8 8 (.octets 16 16 1) .rwe (zeros 16), nRow 0x2800 9 .u8 .rwe 0 (.span 0 1)]

/-- System and causeway (R429). -/
def systemRows : List OdRow :=
  [nRow 0x2900 0 .u8 .ro 0x12, nRow 0x2900 1 .u8 .rw 0 (.span 0 47), nRow 0x2900 2 .u8 .rw 0 (.span 0 2),
   bRow 0x2900 3 3 (.octets 0 8 1) .rwe [], nRow 0x2900 4 .u16 .rwe 47816 (.span 1024 65535), nRow 0x2900 5 .u8 .ro 0,
   nRow 0x2900 6 .u8 .ro 0xFF, nRow 0x2900 7 .u32 .ro 0, bRow 0x2900 8 8 (.octets 6 6 1) .ro (zeros 6),
   nRow 0x2900 9 .u32 .ro 0, nRow 0x2900 0x0A .u48 .rw 0, bRow 0x2900 0x0B 0x0C (.octets 32 32 1) .ro (zeros 32),
   bRow 0x2900 0x0D 0x0E (.domain 0 0x100000 1) .ro [], bRow 0x2900 0x0F 0x0F (.octets 6 6 1) .ro (zeros 6),
   nRow 0x2900 0x10 .u8 .wo 0 (.span 0 47), nRow 0x2900 0x11 .i32 .ro 0, nRow 0x2900 0x12 .u32 .ro 0]

/-- Node addresses, causeway counters, the stream table (R429). -/
def causewayRows : List OdRow :=
  [nRow 0x2901 0 .u8 .ro 0x30, bRow 0x2901 1 0x30 (.octets 16 16 1) .rwe (zeros 16),
   nRow 0x2902 0 .u8 .ro 8, ⟨0x2902, 1, 8, .u32, .ro, .num 0, .any, none⟩,
   nRow 0x2903 0 .u8 .ro 1, bRow 0x2903 1 1 (.domain 0 0x100000 1) .rwe []]

/-- Ethernet entries of a port and of the device (R452). -/
def ethRows : List OdRow :=
  [nRow 0x2A00 0 .u8 .ro 9, nRow 0x2A00 1 .u16 .rwe 47808 (.span 1024 65535), nRow 0x2A00 2 .u16 .rwe 47812 (.span 1024 65535),
   nRow 0x2A00 3 .u16 .rwe 47810 (.span 1024 65535), nRow 0x2A00 4 .u8 .rwe 7 (.span 0 7),
   nRow 0x2A00 5 .u8 .rwe 3 (.span 0 7), nRow 0x2A00 6 .u16 .rwe 100 (.span 10 1000), nRow 0x2A00 7 .u8 .rwe 0 (.span 0 3),
   bRow 0x2A00 8 8 (.octets 3 3 1) .rwe [0xFF, 0x80, 0x00], nRow 0x2A00 9 .u8 .ro 0]

/-- Entries of Ethernet port 0x2A01 + p (R452). -/
def ethPortRows : List OdRow :=
  [nRow 0x2A01 0 .u8 .ro 0x2C, nRow 0x2A01 1 .u8 .rwe 0 (.span 0 4), nRow 0x2A01 2 .u16 .rwe 9000 (.span 1500 9000),
   bRow 0x2A01 3 3 (.octets 6 6 1) .ro (zeros 6), nRow 0x2A01 4 .u8 .rwe 7 (.span 0 7),
   nRow 0x2A01 5 .u16 .rwe 1 (.span 1 4094), nRow 0x2A01 6 .bool .rwe 1,
   bRow 0x2A01 7 7 (.octets 9 9 1) .rwe (zeros 9), bRow 0x2A01 8 8 (.octets 33 33 1) .rwe (zeros 33),
   nRow 0x2A01 9 .u8 .ro 0, ⟨0x2A01, 0x20, 0x2C, .u32, .ro, .num 0, .any, none⟩]

/-- Multicast joins and destinations (R443, R452). -/
def netRows : List OdRow :=
  [nRow 0x2A08 0 .u8 .ro 0x40, bRow 0x2A08 1 0x40 (.octets 17 17 1) .rwe (zeros 17),
   nRow 0x2A10 0 .u8 .ro 0x40, bRow 0x2A10 1 0x40 (.octets 24 24 1) .rwe (zeros 18 ++ [0xFF, 2, 0, 64, 0, 0])]

/-- Ingest entries of a slot (R94, R391, R452). -/
def slotIngestRows : List OdRow :=
  [nRow 0x3000 0 .u8 .ro 0xF3, nRow 0x3000 1 .bool .rwe 0, nRow 0x3000 2 .u16 .rwe 0 .any (some false),
   nRow 0x3000 3 .u16 .rwe 2688 (.span 16 8192), nRow 0x3000 4 .u16 .rwe 1520 (.span 16 8192),
   nRow 0x3000 5 .u8 .rwe 3, nRow 0x3000 6 .u8 .rwe 12 (.span 8 16), nRow 0x3000 7 .u8 .rwe 1 (.span 1 4),
   nRow 0x3000 8 .u8 .rwe 2 (.oneOf [1, 2, 4]), nRow 0x3000 9 .u8 .rwe 4 (.span 3 8) (some false),
   nRow 0x3000 0x0A .u64 .rwe 0 .any (some false), nRow 0x3000 0x0B .u32 .rwe 20000 (.span 0 1000000) (some false),
   nRow 0x3000 0x0C .u32 .rwe 500000 (.span 10000 5000000) (some false), nRow 0x3000 0x0D .u8 .rwe 0 (.span 0 1) (some false),
   nRow 0x3000 0x0E .u32 .rwe 100000 (.span 1000 1000000) (some true), nRow 0x3000 0x0F .u8 .rwe 0 (.span 0 1) (some true),
   ⟨0x3000, 0x10, 0x19, .u32, .ro, .num 0, .any, none⟩, nRow 0x3000 0x1A .u32 .ro 0 .any (some true),
   nRow 0x3000 0x1B .u32 .ro 0, nRow 0x3000 0x1C .u8 .rwe 0 (.span 0 6) (some false),
   ⟨0x3000, 0x1D, 0x1D, .octets 16 16 1, .rwe, .raw (zeros 16), .any, some false⟩,
   nRow 0x3000 0x1E .u8 .rwe 0 (.span 0 128) (some false)]

/-- Front and stage entries of a slot (R119, R148). -/
def slotFrontRows : List OdRow :=
  [bRow 0x3000 0x20 0x20 (.domain 41736 41736 1) .rwf [], bRow 0x3000 0x21 0x21 (.domain 64 64 1) .rwf [],
   bRow 0x3000 0x22 0x22 (.domain 128 128 1) .rwf [], bRow 0x3000 0x23 0x23 (.domain 16384 16384 1) .rwf [],
   bRow 0x3000 0x24 0x24 (.domain 0 16384 4) .rwf [], bRow 0x3000 0x25 0x25 (.domain 8712 8712 1) .rwf [],
   nRow 0x3000 0x26 .u8 .wo 0 (.oneOf [1]), nRow 0x3000 0x27 .u8 .ro 0,
   ⟨0x3000, 0x28, 0x2D, .u32, .ro, .num 0, .any, none⟩,
   nRow 0x3000 0x30 .u32 .rwe 0, nRow 0x3000 0x31 .u8 .ro 0, nRow 0x3000 0x32 .u8 .ro 0, nRow 0x3000 0x33 .u8 .ro 2,
   nRow 0x3000 0x34 .u32 .ro 0, nRow 0x3000 0x35 .u8 .ro 0, nRow 0x3000 0x36 .u32 .ro 0, nRow 0x3000 0x37 .u32 .ro 0,
   nRow 0x3000 0x38 .u32 .ro 0, nRow 0x3000 0x39 .u8 .ro 0, nRow 0x3000 0x3A .u8 .ro 0,
   nRow 0x3000 0x3B .u8 .wo 0 (.oneOf [1]), nRow 0x3000 0x3C .bool .ro 0, nRow 0x3000 0x3D .u32 .ro 0 .any (some true),
   nRow 0x3000 0x3E .u32 .ro 0]

/-- Output entries of a slot (R175). -/
def slotOutputRows : List OdRow :=
  [nRow 0x3000 0x40 .u8 .rwe 0 (.span 0 2), nRow 0x3000 0x41 .u8 .rwf 255, nRow 0x3000 0x42 .u8 .rwe 0 (.span 0 1),
   nRow 0x3000 0x43 .u8 .rwe 0 (.span 0 2), nRow 0x3000 0x44 .u8 .rwe 0 (.span 0 1), nRow 0x3000 0x45 .u8 .rwe 0 (.span 0 2),
   nRow 0x3000 0x46 .u8 .rwe 0 (.span 0 1), nRow 0x3000 0x47 .u8 .rwe 8 (.span 0 16), nRow 0x3000 0x48 .u8 .rwe 0 (.span 0 1),
   nRow 0x3000 0x49 .u32 .rwe 0, nRow 0x3000 0x4A .u8 .rwe 0 (.span 0 47), nRow 0x3000 0x4B .u8 .rwf 128,
   nRow 0x3000 0x4C .u16 .rwf 32768, nRow 0x3000 0x4D .u16 .rwe 256 (.span 1 1024), nRow 0x3000 0x4E .u8 .rwf 0 (.span 0 1),
   nRow 0x3000 0x4F .u8 .rwe 3 (.span 2 8), nRow 0x3000 0x50 .u64 .rwe 0, nRow 0x3000 0x51 .u8 .rwe 0,
   nRow 0x3000 0x52 .u8 .rwe 0 (.span 0 63), nRow 0x3000 0x53 .u16 .rwe 0, nRow 0x3000 0x54 .u8 .rwe 0 (.span 0 1),
   ⟨0x3000, 0x55, 0x59, .u32, .ro, .num 0, .any, none⟩, nRow 0x3000 0x5A .u16 .ro 0, nRow 0x3000 0x5B .u32 .ro 0,
   nRow 0x3000 0x5C .u32 .ro 0]

/-- Adaptation, split and ownership entries of a slot (R364, R429, R477). -/
def slotAdaptRows : List OdRow :=
  [nRow 0x3000 0x60 .bool .rwe 0, nRow 0x3000 0x61 .u32 .rwf 0, nRow 0x3000 0x62 .u8 .rwf 1 (.span 0 16),
   nRow 0x3000 0x63 .bool .rw 0, nRow 0x3000 0x64 .u8 .wo 0 (.oneOf [1]), nRow 0x3000 0x65 .u8 .rw 0,
   nRow 0x3000 0x66 .i32 .ro 0, nRow 0x3000 0x67 .u32 .ro 0, nRow 0x3000 0x68 .u32 .ro 0, nRow 0x3000 0x69 .u8 .ro 0,
   nRow 0x3000 0x6A .i8 .ro 0, nRow 0x3000 0x6B .u8 .ro 0, nRow 0x3000 0x6C .u8 .ro 0, nRow 0x3000 0x6D .u32 .ro 0,
   nRow 0x3000 0x6E .u16 .ro 0, nRow 0x3000 0x6F .u32 .ro 0,
   nRow 0x3000 0x70 .u8 .rwe 0 (.span 0 2), nRow 0x3000 0x71 .u8 .rwe 0xFF (.span 0 47), nRow 0x3000 0x72 .u8 .rwe 0,
   nRow 0x3000 0x73 .u8 .rwe 16 (.span 1 64), nRow 0x3000 0x74 .u8 .rwe 0 (.span 0 6), nRow 0x3000 0x75 .u32 .ro 0,
   nRow 0x3000 0xF0 .u8 .rwe 0 (.span 0 15), nRow 0x3000 0xF1 .u32 .ro 0, nRow 0x3000 0xF2 .u32 .ro 0,
   nRow 0x3000 0xF3 .u8 .ro 0]

/-- Whether an index is a slot's block, 0x3000 + slot. -/
def isSlotIndex (i : Nat) : Bool := 0x3000 ≤ i && i ≤ 0x302F

/-- The rows of an index: none when it does not exist (R463). -/
def odRowsOf (i : Nat) : List OdRow :=
  if isSlotIndex i then slotIngestRows ++ slotFrontRows ++ slotOutputRows ++ slotAdaptRows
  else if i < 0x2000 then commRows.filter (·.index == i)
  else if i = 0x2000 ∨ i = 0x2001 ∨ i = 0x2010 then serviceRows.filter (·.index == i)
  else if i = 0x2002 then nRow 0x2002 0 .u8 .ro 0x17 :: (canRows 0 ++ canRows 0x10)
  else if i = 0x2100 then tickRows
  else if i = 0x2200 then frontRows
  else if i = 0x2300 then isleRows
  else if i = 0x2400 then ledgerRows
  else if i = 0x2500 then updateRows
  else if i = 0x2600 then eventRows
  else if i = 0x2700 then powerRows
  else if i = 0x2800 then ownerRows
  else if i = 0x2900 then systemRows
  else if 0x2901 ≤ i ∧ i ≤ 0x2903 then causewayRows.filter (·.index == i)
  else if i = 0x2A00 then ethRows
  else if 0x2A01 ≤ i ∧ i ≤ 0x2A04 then ethPortRows
  else if i = 0x2A08 ∨ i = 0x2A10 then netRows.filter (·.index == i)
  else []

/-- The row of an entry, where the index has it and the slot shows it (R94, R459 orders 1 and 2). -/
def odFind (i sub : Nat) : Option OdRow :=
  (odRowsOf i).find? fun r =>
    r.sub ≤ sub && sub ≤ r.last && (!isSlotIndex i || r.slot0 == none || r.slot0 == some (i == 0x3000))

/-- The write domain of an index; `none` where no domain is needed (R463). -/
def odDomain (i : Nat) : Option (Fin 8) :=
  if isSlotIndex i then some 7
  else if i < 0x2000 ∨ i = 0x2000 ∨ i = 0x2002 then some 0
  else if i = 0x2001 ∨ i = 0x2010 then none
  else if i = 0x2100 then some 1
  else if i = 0x2200 ∨ i = 0x2300 then some 2
  else if i = 0x2400 ∨ i = 0x2700 then some 3
  else if i = 0x2500 ∨ i = 0x2600 then some 4
  else if i = 0x2800 then some 5
  else if 0x2900 ≤ i ∧ i ≤ 0x2903 then some 1
  else some 6

/-- The default of an entry (R460): that of its row, but for the defaults that depend on the slot. -/
def odDefault (i sub : Nat) : OdVal :=
  if i = 0x3000 ∧ sub = 5 then .num 2
  else if isSlotIndex i ∧ sub = 0x4A then .num (i - 0x3000 : Nat)
  else match odFind i sub with
    | some r => r.dflt
    | none => .num 0

/-- The key under which the value stores hold an entry. -/
def odKey (i sub : Nat) : Nat := i * 256 + sub

end Sys2Proof.Machine
end

