-- ==== Sys2Proof/Machine/PartsBoard.lean ====
section
/-! DEFINITION. The state of firmware and flash (spec/18_firmware_and_update.md), of the usage ledger
(20_owners_and_ledger.md R538 to R546) and of power, thermal limits and pins (21_power_thermal_pins.md). A field's
default is its reset value. -/

namespace Sys2Proof.Machine

/-! ### Firmware -/

/-- States of an image slot (R483). -/
inductive ImagePhase where
  | empty | staged | trial | confirmed | previous | rejected
  deriving DecidableEq, Repr

/-- The code of a slot state (R483). -/
def ImagePhase.code : ImagePhase → Nat
  | .empty => 0 | .staged => 1 | .trial => 2 | .confirmed => 3 | .previous => 4 | .rejected => 5

/-- A copy of the boot record (R483); its version and crc are computed. -/
structure BootRecord where
  active : Bool := false
  state0 : ImagePhase := .confirmed
  state1 : ImagePhase := .empty
  sequence : Nat := 0
  fallbacks : Nat := 0
  deriving DecidableEq, Repr

/-- The boot flash (R482): both boot record copies (none: its crc is not valid), which copy was written last, the
settings banks, which one is home (R490), whether the other is erased at the next store (R501), the image slots. -/
structure FlashState where
  record0 : Option BootRecord := some {}
  record1 : Option BootRecord := none
  bank0 : List (Nat × OdVal) := []
  bank1 : List (Nat × OdVal) := []
  home : Bool := false
  eraseOther : Bool := false
  image0 : Bytes := []
  image1 : Bytes := []
  /-- PMBus address of the VDD_CORE regulator (R550). -/
  regulator : Nat := 0x40
  /-- The next start loads defaults (R464). -/
  loadDefaults : Bool := false
  deriving DecidableEq, Repr

/-- What an activation or a revert has reached (R495): verification, then the cores in order, 1 power management,
2 to 5 the control cores, 6 the scheduler core. -/
inductive UpdateStep where
  | verifying
  | switching (core : Nat)
  deriving DecidableEq, Repr

/-- An activation or revert in progress: its target slot and the reference cycle its management pause began. -/
structure Activation where
  revert : Bool
  target : Bool
  step : UpdateStep
  pauseAt : Nat
  suspended : Bool := false
  deriving DecidableEq, Repr

/-- Firmware, boot and update (R479 to R505). -/
structure FirmwareState where
  flash : FlashState := {}
  /-- The bank each core runs from: security, power management, scheduler, C0 to C3 (R481). -/
  banks : Vector Bool 7 := Vector.replicate 7 false
  /-- The hand-off record in each core's area, as above (R481, R504). -/
  handoff : Vector Bytes 7 := Vector.replicate 7 []
  /-- The slot whose image the security core runs, and the image that runs. -/
  running : Bool := false
  runningImage : Bytes := []
  /-- A staging in progress: the image read from the card (R493). -/
  staging : Option Bytes := none
  activation : Option Activation := none
  /-- Coasted boundaries since the scheduler core switched (R497). -/
  coasting : Option Nat := none
  /-- Reference cycle since which a trial has been in continuous service (R501). -/
  trialSince : Option Nat := none
  deriving DecidableEq, Repr

/-! ### The ledger -/

/-- Usage of one owner: tile ops, bytes moved, energy in µJ (R538). -/
structure Totals where
  ops : Nat := 0
  bytes : Nat := 0
  energy : Nat := 0
  deriving DecidableEq, Repr

/-- The usage ledger (R538 to R546). The interval number, its band and its nominal end are entries 0x2400:04 to 06. -/
structure LedgerState where
  interval : Vector Totals 16 := Vector.replicate 16 {}
  cumulative : Vector Totals 16 := Vector.replicate 16 {}
  frozen : Bool := false
  /-- Ledger seconds and reference cycle at which the open interval opened. -/
  openSeconds : Nat := 0
  openedAt : Nat := 0
  /-- Reference cycles the open interval had been open for at the start it was resumed in (R539, R544). -/
  openFor : Nat := 0
  /-- Length, offset and schedule in force (R541). -/
  length : Nat := 15
  offset : Int := 0
  schedule : Bytes := []
  /-- Ledger time in ms at a reference cycle; known once PTP has locked (R540). -/
  timeMs : Int := 0
  timeAt : Nat := 0
  known : Bool := false
  /-- The MRAM: slot k mod 16 of record k; an empty string where nothing valid stands (R543). -/
  mram : Vector Bytes 16 := Vector.replicate 16 []
  /-- Number of the next record. -/
  nextRecord : Nat := 0
  /-- The last record: its reference cycle, its kind and its clock step in ms (R546). -/
  lastAt : Nat := 0
  lastKind : Nat := 0
  lastStep : Int := 0
  /-- Accumulated since the last energy sample, by owner: samples processed, bytes moved. -/
  samples : List (Nat × Nat) := []
  moved : List (Nat × Nat) := []
  deriving DecidableEq, Repr

/-! ### Power -/

/-- Power, thermal limits and pins (R549 to R570). The power state, PFW_N and THERM_N states, rail faults and
measurements are entries of 0x2700. -/
structure PowerState where
  straps : Straps := ⟨false, 0, false, 0⟩
  /-- Reference cycle in which the shed in force began (R559). -/
  shedAt : Option Nat := none
  /-- A rail fault of VDD_CORE or VDD_SRAM holds the shed (R563). -/
  railShed : Bool := false
  /-- Reference cycle in which PFW_N deasserted last (R498). -/
  goodAt : Nat := 0
  /-- DVFS: the clock mode 1 has reached, in MHz, consecutive ticks without a borrow, and whether a frame borrowed in the
  tick (R555). -/
  level : Nat := 1250
  calm : Nat := 0
  borrowed : Bool := false
  /-- The four sensors outside the isles, in 0.1 °C (R556). -/
  others : List Int := [0, 0, 0, 0]
  /-- Sensors that read 110 °C or more at the last sample (R557). -/
  hot : List Nat := []
  /-- Every clock but the reference and VDD_AON clocks is gated; THERMTRIP_N is low (R557). -/
  tripped : Bool := false
  /-- The trip record on VDD_AON: the sensor (R557). -/
  tripRecord : Option Nat := none
  /-- Consecutive samples of each rail outside its range, and inside it (R563). -/
  railBad : List Nat := [0, 0, 0, 0, 0, 0, 0, 0]
  railGood : List Nat := [0, 0, 0, 0, 0, 0, 0, 0]
  /-- VOUT_COMMAND last sent, in mV (R550). -/
  vout : Nat := 750
  /-- The JTAG instruction in force; IDCODE after reset (R568; IEEE 1149.1). -/
  jtag : JtagOp := .idcode
  deriving DecidableEq, Repr

end Sys2Proof.Machine
end

