-- ==== Sys2Proof/Machine/PartsNet.lean ====
section
/-! DEFINITION. The state of the forty-eight device system and its causeway (spec/15_system.md) and of the Ethernet
ports (16_ethernet.md), and what leaves the device. A field's default is its reset value. Role, manager node, term,
membership and epoch of a device are entries of 0x2900. -/

namespace Sys2Proof.Machine

/-- What marks a datagram sent: the VLAN ID and PCP of its 802.1Q tag (R433, R438), and, where the spec states them, its DSCP and its hop
limit (R443). -/
structure TxMark where
  vlan : Nat
  pcp : Nat
  dscp : Option Nat := none
  hopLimit : Option Nat := none
  deriving DecidableEq, Repr

/-- What left the device: the model's own trace of its outputs. -/
inductive Out where
  /-- A UDP datagram on an Ethernet port: its marks, destination address and port, source port, payload. -/
  | udp (port : EthNo) (mark : TxMark) (dst : Bytes) (dport sport : Nat) (payload : Bytes)
  /-- A frame of the control class on an Ethernet port, or a PFC frame: its EtherType, or IP protocol + 0x10000, and its body. -/
  | frame (port : EthNo) (kind : Nat) (body : Bytes)
  /-- A message on a control port: CAN identifier and data. -/
  | can (port : CanNo) (id : Nat) (data : Bytes)
  /-- The JTAG identification register, captured (R568). -/
  | jtag (idcode : Nat)
  /-- VOUT_COMMAND sent to the VDD_CORE regulator: its PMBus address and the setpoint in mV (R550). -/
  | pmbus (address mv : Nat)
  /-- A core told of a channel's completion or fault: isle, 0xFF for the device engine (R327, R332). -/
  | notice (isle channel : Nat)
  deriving DecidableEq, Repr

/-! ### Causeway -/

/-- A causeway frame that waits: its type, its payload, and the frame of a split stream it belongs to. -/
structure Unsent where
  type : Nat
  payload : Bytes
  deriving DecidableEq, Repr

/-- A frame sent and not acknowledged: its sequence, its bytes, its last sending and how often it was sent again
(R414). -/
structure SentFrame where
  seq : Nat
  bytes : Bytes
  sentAt : Nat
  again : Nat
  fast : Bool
  deriving DecidableEq, Repr

/-- The sending side of a reliable channel to a node (R412 to R414). -/
structure TxFlow where
  dest : Nat
  chan : Nat
  unacked : List SentFrame := []
  waiting : List Unsent := []
  /-- The first sequence beyond the window; none before the first ACK. -/
  limit : Option Nat := none
  failed : Bool := false
  /-- Its next frame waits for credit; the wait has been counted. -/
  blocked : Bool := false
  /-- FLOW_RESET is sent until an ACK answers it, from the boundary after the failure (R414). -/
  resetDue : Bool := false
  resetAt : Option Nat := none
  deriving DecidableEq, Repr

/-- The receiving side of a space: key, source and channel (R411 to R413); `ack` is the space of ACKs. -/
structure RxSpace where
  key : Nat
  src : Nat
  chan : Nat
  ack : Bool
  /-- Highest sequence accepted. -/
  top : Nat := 0
  /-- next_expected, and the sequences held beyond it. -/
  next : Nat := 0
  held : List Nat := []
  /-- Last ACK sent, and whether one is due at once. -/
  ackedAt : Nat := 0
  deriving DecidableEq, Repr

/-- A receive buffer of a downstream channel: where it lies in Ethernet buffer space, its slot and its data (R417). -/
structure DataBuffer where
  addr : Nat
  slot : SlotNo
  len : Nat
  /-- The frame it holds: source, channel and sequence. -/
  src : Nat
  chan : Nat
  seq : Nat
  deriving DecidableEq, Repr

/-- A relayed request that has not been answered (R418), and what has come of its answer. -/
structure RelayOpen where
  transaction : Nat
  member : Nat
  sentAt : Nat
  request : Bytes
  got : Bytes := []
  deriving DecidableEq, Repr

/-! ### The manager's view of its members -/

/-- A DIGEST report (R427). -/
structure DigestReport where
  tick : Nat
  epoch : Nat
  depleted : Bool
  ready : Bool
  freeSlots : Nat
  freeLoad : Nat
  device : Bytes
  system : Bytes
  pendDevice : Bytes
  pendSystem : Bytes
  full : Bytes
  deriving DecidableEq, Repr

/-- What the manager keeps of a member: its last reports, newest first; whether it has joined, and in which tick; its
configuration mirror, values in force and pending, and whether the image has arrived; the claim the manager holds on it and
when it was renewed last; whether a placement write failed; the events copied from it (R404, R405, R406, R428, R476, R525). -/
structure MemberState where
  node : Nat
  reports : List DigestReport := []
  joined : Bool := false
  since : Nat := 0
  mirror : List (Nat × OdVal) := []
  pending : List (Nat × OdVal) := []
  hashes : List Bytes := []
  known : Bool := false
  claim : Option Nat := none
  renewAt : Nat := 0
  failed : Bool := false
  events : Nat := 0
  deriving DecidableEq, Repr

/-- Where a record of the stream table runs (R420). -/
structure Placement where
  stream : Nat
  part : Nat
  node : Nat
  slot : Nat
  deriving DecidableEq, Repr

/-- The system (R393 to R428). -/
structure SystemState where
  /-- The node number in force. -/
  node : Nat := 0
  /-- Start in the manager role: the tick at which listening ends, and whether a beacon was heard (R395). -/
  listenUntil : Option Nat := none
  heard : Bool := false
  /-- The device yields at its next boundary (R397). -/
  yieldDue : Bool := false
  /-- The node the last counted beacon named as standby. -/
  standby : Nat := 0xFF
  /-- A beacon was counted for the last boundary; consecutive boundaries without one (R401). -/
  counted : Bool := false
  expired : Bool := false
  uncounted : Nat := 0
  heldRaised : Bool := false
  /-- The ticks whose beacons were sent, whose digest was sent, and whose digests were compared last. -/
  beaconTick : Option Nat := none
  digestTick : Option Nat := none
  compareTick : Option Nat := none
  /-- The manager's own depleted state at the last comparison (R421). -/
  ownDepleted : Bool := false
  /-- Consecutive counted beacons beyond 1,000 ns and within; 0x7006 stands raised. -/
  farRun : Nat := 0
  nearRun : Nat := 0
  alignRaised : Bool := false
  /-- A beacon named this epoch tick; one carried it confirmed (R423, R424). -/
  namedEpoch : Option Nat := none
  confirmed : Option Nat := none
  /-- JOIN has been sent and not answered. -/
  joinSent : Bool := false
  members : List MemberState := []
  placements : List Placement := []
  /-- The epoch tick the streams were placed for last. -/
  placedFor : Option Nat := none
  /-- Sessions by key, and the keys whose session was opened since this start (R410). -/
  sessions : List (Nat × Nat) := []
  opened : List Nat := []
  /-- Next counter by key, destination, channel and space. -/
  counters : List (Nat × Nat) := []
  flows : List TxFlow := []
  spaces : List RxSpace := []
  buffers : List DataBuffer := []
  relays : List RelayOpen := []
  /-- Relayed requests of which parts have come: transaction and bytes. -/
  relayIn : List (Nat × Bytes) := []
  nextTransaction : Nat := 0
  deriving DecidableEq, Repr

/-! ### Ethernet -/

/-- An Ethernet port (R431 to R441); its settings, link state and counters are entries of 0x2A01 + p. -/
structure PortState where
  neighbours : List (Bytes × Bytes) := []
  /-- PFC sent: the data buffer stands above its lower threshold since a pause was sent; when it was sent last. -/
  pausing : Bool := false
  pausedAt : Nat := 0
  /-- PFC received: since when, and until when, the data class is held. -/
  heldSince : Option Nat := none
  heldUntil : Nat := 0
  /-- The watchdog discards DATA frames until the pause ends (R441). -/
  discarding : Bool := false
  /-- DATA frames queued behind the pause: destination address and UDP payload. -/
  queue : List (Bytes × Bytes) := []
  /-- DATA bytes received and not yet moved out of the data receive buffer. -/
  dataFill : Nat := 0
  /-- Queued frames dropped when the link dropped (R431; no entry shows the count). -/
  dropped : Nat := 0
  deriving DecidableEq, Repr

/-- The PTP clock (R450, R451): the selected master's port identity and the quality it announces, the UTC offset announced (R539),
the last Sync, device time in ns at a reference cycle, and the delay measurement in progress. -/
structure PtpState where
  master : Option Bytes := none
  quality : Bytes := []
  utcOffset : Int := 0
  lastSync : Option Nat := none
  /-- Sequence of a two-step Sync waiting for its Follow_Up, and its receive time. -/
  waiting : Option (Nat × Int) := none
  /-- Sequence of the Delay_Req sent and its send time; the last offset, before delay, and the path delay. -/
  delayReq : Option (Nat × Int) := none
  raw : Int := 0
  delay : Int := 0
  ns : Int := 0
  nsAt : Nat := 0
  deriving DecidableEq, Repr

/-- The Ethernet unit. -/
structure EthState where
  ports : Vector PortState 4 := Vector.replicate 4 {}
  ptp : PtpState := {}
  deriving DecidableEq, Repr

end Sys2Proof.Machine
end

