-- ==== Sys2Proof/Machine/State.lean ====
section
/-! DEFINITION. The state of the block, its faults and refusals, and the state after reset. -/

namespace Sys2Proof.Machine

/-- Why a command ends in a fault. -/
inductive Fault where
  /-- Raised by no command: every meaning is total and ends in a next state, whatever its operands (DESIGN CHOICE, log entry 1). The name
  is kept for a command whose operands no sender can give; safe, because nothing stops. -/
  | malformedCommand
  deriving DecidableEq, Repr

/-- Why a command has no meaning. -/
inductive Refusal where
  /-- Raised by an arm of Dispatch.lean whose command has no meaning yet; safe. -/
  | notModelled (mnemonic : String)
  deriving DecidableEq, Repr

/-- The state of the block. `now` counts reference cycles of 10 ns from reset release; `free` counts the draws of free
values; `out` lists what left the device, oldest first; `pending` is the queue of commands, first in first out. -/
structure State where
  now : Nat := 0
  tick : TickState := {}
  slots : Vector Slot 48 := Vector.replicate 48 {}
  isles : Vector IsleState 16 := Vector.replicate 16 {}
  counters : Vector TileCounter 64 := Vector.replicate 64 {}
  devDma : EngineState := {}
  windows : Vector (Vector Window 64) 16 := Vector.replicate 16 (Vector.replicate 64 {})
  mem : MemState := {}
  ev : EventState := {}
  od : OdState := {}
  can : Vector CanPort 2 := Vector.replicate 2 {}
  /-- Loaded plan images (R121, R159). -/
  plans : List PlanImage := []
  avail : AvailState := {}
  owners : Vector OwnerState 16 := (Vector.replicate 16 {}).set 0 { phase := .active, memKey := 1 }
  /-- One more than the last counter accepted under the device provisioning key; 0 before the first (R531). -/
  provCounter : Nat := 0
  sys : SystemState := {}
  eth : EthState := {}
  fw : FirmwareState := {}
  ledger : LedgerState := {}
  power : PowerState := {}
  /-- What left the device, oldest first (the model's own trace). -/
  out : List Out := []
  free : Nat := 0
  /-- The commands that wait, first in, first out. -/
  pending : List Instr := []
  deriving DecidableEq, Repr

/-- The machine right after reset, every strap low: every field at its reset value, the entries whose value depends on another
at what they then hold (the first interval's nominal end, DEDUCED, log entry 46; the number of a device that is its own manager, R394), and
the producer heartbeats armed (R464). -/
def State.reset : State :=
  { od := { vals := [(0x240006, .num 900), (0x290006, .num 0)] }
    can := Vector.replicate 2 { produceAt := some 20000000 } }

end Sys2Proof.Machine
end

