-- ==== Sys2Proof/Machine/Ops.lean ====
section
/-! DEFINITION. The named operations the meanings share: keyed stores, memory cells, updates of one component, entries
of the object dictionary, and raising a code (R521 to R528). -/

namespace Sys2Proof.Machine

/-- What a meaning answers. -/
abbrev Answer := Host.Outcome State Fault Refusal

/-! ### Keyed stores: ascending keys, no entry equal to what an unlisted key reads as -/

/-- The value at a key; `d` where it is unlisted. -/
def kvGet {α : Type} (d : α) (k : Nat) : List (Nat × α) → α
  | [] => d
  | e :: es => if e.1 = k then e.2 else kvGet d k es

/-- The store with `v` at `k`. -/
def kvPut {α : Type} (k : Nat) (v : α) : List (Nat × α) → List (Nat × α)
  | [] => [(k, v)]
  | e :: es => if e.1 < k then e :: kvPut k v es else if e.1 = k then (k, v) :: es else (k, v) :: e :: es

/-- The store without an entry at `k`. -/
def kvDel {α : Type} (k : Nat) (m : List (Nat × α)) : List (Nat × α) := m.filter fun e => e.1 != k

/-- A write: the value an unlisted key reads as removes the entry. -/
def kvSet {α : Type} [DecidableEq α] (d : α) (k : Nat) (v : α) (m : List (Nat × α)) : List (Nat × α) :=
  if v = d then kvDel k m else kvPut k v m

/-- A list in ascending order, equal elements in the order given. -/
def putAsc {α : Type} (le : α → α → Bool) (x : α) : List α → List α
  | [] => [x]
  | y :: ys => if le x y then x :: y :: ys else y :: putAsc le x ys
def ascending {α : Type} (le : α → α → Bool) (l : List α) : List α := l.foldr (putAsc le) []

/-- The canonical form of a store of bytes. -/
abbrev Memory.wf (m : List Host.Cell) : Prop := m.Pairwise (·.1 < ·.1) ∧ ∀ c ∈ m, c.2 ≠ 0

/-- `n` bytes from address `a`; unlisted bytes read 0. -/
def cellsRead (m : List Host.Cell) (a : Nat) : Nat → Bytes
  | 0 => []
  | n + 1 => kvGet 0 a m :: cellsRead m (a + 1) n

/-- The memory with bytes written from address `a`. -/
def cellsWrite (m : List Host.Cell) (a : Nat) : Bytes → List Host.Cell
  | [] => m
  | b :: bs => cellsWrite (kvSet 0 a b m) (a + 1) bs

/-! ### External memory (R374, R375) -/

/-- A byte of external memory read under key identity `k`: its plaintext where its block was written under `k`, else
an unrelated value. -/
def MemState.byteFor (m : MemState) (k a : Nat) : Byte :=
  let own := kvGet 0 (a / 16) m.keys
  if own = k ∧ own ≠ 0 then kvGet 0 a m.cells else Config.garbledByte k a own

/-- Bytes read under a key identity. -/
def MemState.read (m : MemState) (k a n : Nat) : Bytes := (List.range n).map fun i => m.byteFor k (a + i)

/-- One 16-byte block brought under a key identity: what it read as under that key stays. -/
def MemState.rekey (m : MemState) (k b : Nat) : MemState :=
  if kvGet 0 b m.keys = k then m
  else { m with cells := cellsWrite m.cells (16 * b) (m.read k (16 * b) 16), keys := kvSet 0 b k m.keys }

/-- The cache without the lines of a range of lines, filled or in flight (R378). -/
def MemState.invalidate (m : MemState) (lo hi : Nat) : MemState :=
  let keep (l : Nat) : Bool := l < lo || hi < l
  { m with
    cache := (m.cache.map fun c => { c with lines := c.lines.filter keep }).filter (·.lines != [])
    fills := m.fills.filter keep }

/-- Bytes written under a key identity (R369, R374); cached lines it touches are invalidated (R378). An atom written whole
has valid check bits again (R370). -/
def MemState.write (m : MemState) (k a : Nat) (bs : Bytes) : MemState :=
  if bs = [] then m
  else
    let n := bs.length
    let blocks := (List.range ((a + n - 1) / 16 - a / 16 + 1)).map fun (i : Nat) => a / 16 + i
    let m := blocks.foldl (fun m b => MemState.rekey m k b) m
    let m := m.invalidate (a / 128) ((a + n - 1) / 128)
    { m with
      cells := cellsWrite m.cells a bs
      upsets := m.upsets.filter fun u => !(a ≤ 32 * u.1 && 32 * u.1 + 32 ≤ a + n) }

/-! ### Updates of one component -/

/-- The state with isle `k` changed. -/
def State.modIsle (s : State) (k : IsleNo) (f : IsleState → IsleState) : State :=
  { s with isles := s.isles.set k (f s.isles[k]) }

/-- The state with a context changed. -/
def State.modCtx (s : State) (k : IsleNo) (c : CtxNo) (f : Context → Context) : State :=
  s.modIsle k fun i => { i with ctx := i.ctx.set c (f i.ctx[c]) }

/-- A context. -/
def State.ctx (s : State) (k : IsleNo) (c : CtxNo) : Context := s.isles[k].ctx[c]

/-- The state with a slot changed. -/
def State.modSlot (s : State) (n : SlotNo) (f : Slot → Slot) : State :=
  { s with slots := s.slots.set n (f s.slots[n]) }

/-- The state with a tile counter changed. -/
def State.modCounter (s : State) (n : CounterNo) (f : TileCounter → TileCounter) : State :=
  { s with counters := s.counters.set n (f s.counters[n]) }

/-- A word stored: data, owner tag, valid check bits (R271, R273). -/
def Scratchpad.put (p : Scratchpad) (word : Nat) (bs : Bytes) (tag : Nat) : Scratchpad :=
  { p with
    cells := cellsWrite p.cells (32 * word) bs
    tags := kvSet 0 word tag p.tags
    upsets := kvDel word p.upsets }

/-- The state with an isle's scratchpad changed. -/
def State.modSp (s : State) (k : IsleNo) (f : Scratchpad → Scratchpad) : State := s.modIsle k fun i => { i with sp := f i.sp }

/-- The state with an isle's counters changed. -/
def State.modCnt (s : State) (k : IsleNo) (f : IsleCounters → IsleCounters) : State :=
  s.modIsle k fun i => { i with cnt := f i.cnt }

/-- The state with the tick sequencer changed. -/
def State.modTick (s : State) (f : TickState → TickState) : State := { s with tick := f s.tick }

/-- The state with the memory controller changed. -/
def State.modMem (s : State) (f : MemState → MemState) : State := { s with mem := f s.mem }

/-- The state with a CAN port changed. -/
def State.modCan (s : State) (p : CanNo) (f : CanPort → CanPort) : State :=
  { s with can := s.can.set p (f s.can[p]) }

/-- The state with an owner changed. -/
def State.modOwner (s : State) (o : OwnerNo) (f : OwnerState → OwnerState) : State :=
  { s with owners := s.owners.set o (f s.owners[o]) }

/-- Bytes of external memory as owner `o` reads them, and the state after owner `o` writes some. -/
def State.extRead (s : State) (o : OwnerNo) (a n : Nat) : Bytes := s.mem.read s.owners[o].memKey a n
def State.extWrite (s : State) (o : OwnerNo) (a : Nat) (bs : Bytes) : State :=
  s.modMem fun m => m.write s.owners[o].memKey a bs

/-- An amount added to an owner's share. -/
def addShare (o n : Nat) (m : List (Nat × Nat)) : List (Nat × Nat) := kvSet 0 o (kvGet 0 o m + n) m

/-- Whether a context's op holds its units: it runs (R181). -/
def Context.holdsUnits (x : Context) : Bool := (x.phase == .running || x.phase == .releasing) && !x.suspended

/-- An isle after `d` reference cycles: its wait counter rises by its cycles while any context is waiting (R211), and
the unit-cycles of running ops are charged to their owners (R538). -/
def IsleState.waited (i : IsleState) (d : Nat) : IsleState :=
  let cycles := d * i.clock / 100
  let runs := i.ctx.toList.filter (·.holdsUnits)
  let held := (runs.map (·.unitsHeld)).sum
  { i with
    cnt := if i.ctx.toList.any fun x => x.phase == .waiting then
        { i.cnt with waitCycles := i.cnt.waitCycles + BitVec.ofNat 64 cycles } else i.cnt
    unitTime := runs.foldl (fun m x => addShare x.owner (x.unitsHeld * cycles) m) i.unitTime
    idleTime := i.idleTime + (11 - held) * cycles }

/-- The clock moved on to an instant that is not in the past (DESIGN CHOICE, log entry 2). -/
def State.at_ (s : State) (t : Nat) : State :=
  if s.now < t then { s with now := t, isles := s.isles.map (·.waited (t - s.now)) } else s

/-- A fresh draw of a free value: its number, and the state with the counter advanced. -/
def State.draw (s : State) : Nat × State := (s.free, { s with free := s.free + 1 })

/-- Something leaves the device. -/
def State.emit (s : State) (o : Out) : State := { s with out := s.out ++ [o] }

/-- The usable capacity of external memory (R367). -/
def State.memTop (s : State) : Nat := if s.power.straps.memsz then 0x780000000 else 0x3C0000000

/-- The state with the ledger, the power state, the system or firmware changed. -/
def State.modLedger (s : State) (f : LedgerState → LedgerState) : State := { s with ledger := f s.ledger }
def State.modPower (s : State) (f : PowerState → PowerState) : State := { s with power := f s.power }
def State.modSys (s : State) (f : SystemState → SystemState) : State := { s with sys := f s.sys }
def State.modFw (s : State) (f : FirmwareState → FirmwareState) : State := { s with fw := f s.fw }

/-- An owner's counters increased; nothing while the ledger is frozen (R538, R545). -/
def State.charge (s : State) (o : OwnerNo) (ops bytes : Nat) : State :=
  if s.ledger.frozen then s
  else s.modLedger fun l =>
    let up (t : Totals) : Totals := { t with ops := t.ops + ops, bytes := t.bytes + bytes }
    { l with
      interval := l.interval.set o (up l.interval[o])
      cumulative := l.cumulative.set o (up l.cumulative[o])
      moved := if bytes = 0 then l.moved else addShare o bytes l.moved }

/-- Samples of the front or a formatter processed for an owner (R538). -/
def State.chargeSamples (s : State) (o : OwnerNo) (n : Nat) : State :=
  if s.ledger.frozen then s else s.modLedger fun l => { l with samples := addShare o n l.samples }

/-- What a command answers on a device that runs: after a thermal trip every clock is gated and nothing happens until
reset (R557). -/
def live (s t : State) : Answer := .next (if s.power.tripped then s else t)

/-- Fold a state change over a list. -/
def State.each {α : Type} (s : State) (xs : List α) (f : State → α → State) : State := xs.foldl f s

/-- All isle numbers, all slots, all counters, ascending. -/
def allIsles : List IsleNo := List.finRange 16
def allSlots : List SlotNo := List.finRange 48
def allCounters : List CounterNo := List.finRange 64
def allCtx : List CtxNo := List.finRange 4
def allOwners : List OwnerNo := List.finRange 16

/-! ### Entries of the object dictionary -/

/-- The value of an entry in force. -/
def State.entry (s : State) (i sub : Nat) : OdVal := kvGet (odDefault i sub) (odKey i sub) s.od.vals

/-- The number an entry holds; 0 for a byte string. -/
def OdVal.int : OdVal → Int
  | .num v => v
  | .raw _ => 0

/-- The bytes an entry holds; none for a number. -/
def OdVal.bytes : OdVal → Bytes
  | .num _ => []
  | .raw b => b

/-- The number of an entry in force. -/
def State.num (s : State) (i sub : Nat) : Int := (s.entry i sub).int

/-- The number of an entry in force, as a natural. -/
def State.nat (s : State) (i sub : Nat) : Nat := (s.num i sub).toNat

/-- The state with an entry in force set. -/
def State.setEntry (s : State) (i sub : Nat) (v : OdVal) : State :=
  { s with od := { s.od with vals := kvSet (odDefault i sub) (odKey i sub) v s.od.vals } }

/-- The state with the number of an entry set. -/
def State.setNum (s : State) (i sub : Nat) (v : Int) : State := s.setEntry i sub (.num v)

/-- A wrapping 32-bit counter entry increased by `n`. -/
def State.bumpBy (s : State) (i sub n : Nat) : State := s.setNum i sub ((s.nat i sub + n) % 2 ^ 32 : Nat)

/-- A wrapping 32-bit counter entry one higher. -/
def State.bump (s : State) (i sub : Nat) : State := s.bumpBy i sub 1

/-- The index of a slot's block (R477). -/
def slotIndex (n : SlotNo) : Nat := 0x3000 + n

/-- A number of a slot's block. -/
def State.slotNat (s : State) (n : SlotNo) (sub : Nat) : Nat := s.nat (slotIndex n) sub

/-- The owner of a slot (0x30ss:F0). -/
def State.slotOwner (s : State) (n : SlotNo) : OwnerNo := Fin.ofNat 16 (s.slotNat n 0xF0)

/-! ### Raising a code -/

/-- The severity of a code: 0 info, 1 warning, 2 error, 3 critical (R528); unlisted codes count as errors. -/
def severityOf (c : Nat) : Nat :=
  if c ∈ [0x1005, 0x1009, 0x100A, 0x2006, 0x200B, 0x3A05, 0x3E06, 0x3E09, 0x3F05, 0x3F07, 0x3F08, 0x4001, 0x5022, 0x6001,
      0x7009, 0x700B, 0x700C, 0x7011, 0x7021, 0x7027, 0x8005, 0x8006, 0x900A, 0x900B, 0x900D, 0x9012,
      0xA001, 0xA003, 0xA004, 0xA006, 0xB001, 0xB002, 0xC002] then 0
  else if c ∈ [0x1001, 0x1003, 0x1006, 0x1007, 0x2004, 0x2005, 0x2007, 0x2008, 0x200A, 0x2010, 0x2011, 0x2012, 0x2013,
      0x2014, 0x3A02, 0x3A03, 0x3D02, 0x3D03, 0x3D04, 0x3D06, 0x3E08, 0x3F02, 0x3F0B, 0x4003, 0x4009, 0x5021, 0x6003,
      0x7002, 0x7003, 0x7004, 0x7005, 0x7006, 0x700D, 0x700F, 0x7022, 0x7024, 0x7026, 0x8001, 0x8002, 0x8008, 0x8009,
      0x800A, 0x800B, 0x9006, 0x9008, 0x9010, 0x9011, 0xA005, 0xB003, 0xC004, 0xC005] then 1
  else if c ∈ [0x1008, 0x3F01, 0x3F03, 0x3F06, 0x3F0A, 0x6007, 0x7001, 0x7012, 0x900E, 0x900F, 0xA007, 0xC001, 0xC006,
      0xC007, 0xC008] then 3
  else 2

/-- The emergency error code of R523. -/
def emcyCode (c : Nat) : Nat :=
  if c ∈ [0xC001, 0xC003, 0xC007] then 0x3000
  else if c ∈ [0xC004, 0xC005, 0xC006, 0xC008] then 0x4200
  else if c = 0x8007 then 0x8140
  else if c = 0x8008 then 0x8120
  else if c = 0x800A then 0x8130
  else 0xFF00 + c / 256

/-- The 24 bytes of an event record (R521). -/
def EventRecord.bytes (r : EventRecord) : Bytes :=
  toLe 4 r.number ++ toLe 2 r.code ++ [byte (r.severity + (if r.forwarded then 4 else 0)), byte r.node, byte r.slot,
    byte r.isle] ++ toLe 6 r.tick ++ toLe 4 r.detail ++ zeros 4

/-- Whether a port can send EMCY: enabled, and pre-operational or operational (R523). -/
def CanPort.canEmcy (p : CanPort) : Bool := p.enabled && (p.nmt == .preOperational || p.nmt == .operational)

/-- The error register as its conditions stand (R524). -/
def State.errorRegister (s : State) : Nat :=
  let phases := allIsles.map fun k => s.isles[k].health.phase
  let b (i : Nat) (p : Bool) : Nat := if p then 2 ^ i else 0
  let portBad := (List.range 4).any fun p => s.nat (0x2A01 + p) 4 != 0 && s.nat (0x2A01 + p) 9 == 0
  b 0 (s.avail.depleted || s.nat 0x2000 8 == 0 || s.nat 0x2000 8 == 2 || phases.contains .fencing)
    + b 2 (s.nat 0x2700 2 == 2 || s.nat 0x2700 0x30 != 0)
    + b 3 (s.nat 0x2700 3 == 1 || allIsles.any fun k => s.isles[k].health.cut != 0 || s.isles[k].health.cutShared != 0)
    + b 4 (s.can.toList.any (·.status != .active) || portBad)
    + b 7 (phases.contains .fenced)

/-- An EMCY queued on each port that can send one; the number of messages dropped on full queues (R523). -/
def State.queueEmcy (s : State) (m : Emcy) : State × Nat :=
  (List.finRange 2).foldl
    (fun (p : State × Nat) port =>
      let c := p.1.can[port]
      if !c.canEmcy then p
      else if c.emcy.length < 32 then (p.1.modCan port fun c => { c with emcy := c.emcy ++ [m] }, p.2)
      else (p.1.bump 0x2600 7, p.2 + 1))
    (s, 0)

/-- One record written to the log, its EMCY queued (R521 to R523); the number of EMCY dropped. -/
def State.record (s : State) (r : EventRecord) : State × Nat :=
  let num := (s.ev.written + 1) % 2 ^ 32
  let r := { r with number := num }
  let log := s.ev.log ++ [r]
  let s := { s with ev := { s.ev with log := log.drop (log.length - 64), written := num } }
  let s := s.setNum 0x2600 8 r.code
  if s.nat 0x2600 2 ≤ r.severity then s.queueEmcy ⟨emcyCode r.code, s.errorRegister, r.bytes⟩ else (s, 0)

/-- Whether a code was raised already in this tick for `q`, and the state with that marked. -/
def State.firstThisTick (s : State) (code q : Nat) : Bool := !s.ev.onceTick.contains (code, q)

/-- The mark that a once-per-tick code was raised. -/
def State.markTick (s : State) (code q : Nat) : State :=
  { s with ev := { s.ev with onceTick := (code, q) :: s.ev.onceTick } }

/-- A record, and 0x800B once per tick when an EMCY was dropped for it (R523). -/
def State.log (s : State) (r : EventRecord) : State :=
  match s.record r with
  | (s, 0) => s
  | (s, _ + 1) =>
    if s.firstThisTick 0x800B 0xFF then
      ((s.markTick 0x800B 0xFF).record ⟨0, 0x800B, 1, false, r.node, 0xFF, 0xFF, r.tick, 0⟩).1
    else s

/-- What a raised code concerns: slot and isle, 0xFF for none, and the record's detail (R521). -/
structure Concern where
  slot : Nat := 0xFF
  isle : Nat := 0xFF
  detail : Nat := 0
  deriving DecidableEq, Repr

/-- The node a record names: the device's own number, 0xFF while it is alone (R521). -/
def State.selfNode (s : State) : Nat := if s.nat 0x2900 5 = 0 then 0xFF else s.sys.node

/-- A code raised (R521). -/
def State.raise (s : State) (code : Nat) (c : Concern := {}) : State :=
  s.log ⟨0, code, severityOf code, false, s.selfNode, c.slot, c.isle, s.tick.number, c.detail⟩

/-- A code raised at most once per tick for `q`. -/
def State.raiseOnce (s : State) (code q : Nat) (c : Concern := {}) : State :=
  if s.firstThisTick code q then (s.markTick code q).raise code c else s

/-- A code raised at most once for a frame that keeps its own marks. -/
def Frame.marks (f : Frame) (code : Nat) : Bool := f.once.contains code

/-- After a change of a condition of the error register: when a bit has fallen, an EMCY of code 0 is queued (R524). -/
def State.settleError (s : State) : State :=
  let now := s.errorRegister
  let fell := (List.range 8).any fun i => s.ev.errorReg.testBit i && !now.testBit i
  let s := { s with ev := { s.ev with errorReg := now } }
  if fell ∧ s.nat 0x2600 2 ≤ 3 then (s.queueEmcy ⟨0, now, zeros 24⟩).1 else s

/-! ### Windows (R337) -/

/-- The check of an access of owner `o` from `lo` to `hi`; `isle` is none outside scratchpad space (R337). -/
def State.windowCheck (s : State) (o : OwnerNo) (space : Nat) (isle : Option IsleNo) (lo hi : Nat) (rd wr : Bool) :
    Option Nat :=
  let mine := s.windows[o].toList.filter fun w =>
    w.space == space && (isle.isNone || w.everyIsle || some w.isle == isle)
  let may := mine.filter fun w => (!rd || w.read) && (!wr || w.write)
  if may.any fun w => w.base ≤ lo && hi ≤ w.limit then none
  else if may.any fun w => w.base ≤ lo && lo ≤ w.limit then some 0x5011
  else if mine.any fun w => w.base ≤ lo && lo ≤ w.limit then some 0x5012
  else some 0x5010

/-- A write into external memory by ingest, a formatter or analysis for a slot: refused outside the windows of the slot's owner
(R83, R337), else written and counted in the ledger (R538). Whether it was written, and the state. -/
def State.ringWrite (s : State) (k : SlotNo) (a : Nat) (bs : Bytes) : Bool × State :=
  if bs = [] then (true, s)
  else
    let o := s.slotOwner k
    match s.windowCheck o 1 none a (a + bs.length - 1) false true with
    | some c => (false, s.raise c { slot := k })
    | none => (true, (s.extWrite o a bs).charge o 0 bs.length)

/-! ### Frame numbers and status bits -/

/-- R11: frame `a` is later than frame `b`. -/
def laterFrame (a b : Nat) : Bool :=
  let d := (a + 2 ^ 32 - b % 2 ^ 32) % 2 ^ 32
  1 ≤ d && d < 2 ^ 31

/-- A status word with bit `i` set (R93, R169). -/
def setBit (w : Word32) (i : Nat) : Word32 := w ||| (1#32 <<< i)

/-- A status word with bit `i` set when `b`. -/
def setBitIf (w : Word32) (i : Nat) (b : Bool) : Word32 := if b then setBit w i else w

/-- The frame of a number in flight on a slot. -/
def Slot.frameOf (sl : Slot) (n : Nat) : Option Frame := sl.frames.find? (·.number == n)

/-- The tick period P in force. -/
def State.period (s : State) : Nat := s.nat 0x2100 1

/-- The borrow deadline of a frame that borrows at boundary `b` (R54). -/
def State.deadline (s : State) (b : Nat) : Nat := b + s.period / 4

/-- The frame of a slot that borrows (R54). -/
def Slot.borrower (sl : Slot) : Option Frame := sl.frames.find? (·.borrow.isSome)

/-- The slot with its frame of number `n` changed. -/
def Slot.modFrame (sl : Slot) (n : Nat) (f : Frame → Frame) : Slot :=
  { sl with frames := sl.frames.map fun x => if x.number == n then f x else x }

/-- The state with a frame in flight changed. -/
def State.modFrame (s : State) (k : SlotNo) (n : Nat) (f : Frame → Frame) : State := s.modSlot k (·.modFrame n f)

/-- A code raised at most once for a frame. -/
def State.raiseFrame (s : State) (k : SlotNo) (n code : Nat) : State :=
  match s.slots[k].frameOf n with
  | none => s
  | some f =>
    if f.marks code then s
    else (s.modFrame k n fun f => { f with once := code :: f.once }).raise code { slot := k, detail := n }

end Sys2Proof.Machine
end

