-- ==== Sys2Proof/Machine/Claims.lean ====
section
/-! DEFINITION. Tile counters and task contexts: what claims, retirements and stop requests do to them
(spec/07_isle.md R180 to R188, spec/11_tiling_and_streaming.md R297 to R308). -/

namespace Sys2Proof.Machine

/-! ### Visit order (R305) -/

/-- The `i`-th tile of the square block of side 2^b at (r0, c0), within an R x C grid, in ascending Morton order. -/
def mortonIth (rows cols : Nat) : Nat → Nat → Nat → Nat → Nat × Nat
  | 0, r0, c0, _ => (r0, c0)
  | b + 1, r0, c0, i =>
    let h := 2 ^ b
    let cnt r c := min h (rows - r) * min h (cols - c)
    let n0 := cnt r0 c0
    let n1 := cnt r0 (c0 + h)
    let n2 := cnt (r0 + h) c0
    if i < n0 then mortonIth rows cols b r0 c0 i
    else if i < n0 + n1 then mortonIth rows cols b r0 (c0 + h) (i - n0)
    else if i < n0 + n1 + n2 then mortonIth rows cols b (r0 + h) c0 (i - n0 - n1)
    else mortonIth rows cols b (r0 + h) (c0 + h) (i - n0 - n1 - n2)

/-- The tile (row, column) of index `i` under an order code (R305). -/
def tileOf (order rows cols i : Nat) : Nat × Nat :=
  match order with
  | 0 => (i / cols, i % cols)
  | 1 => (i % rows, i / rows)
  | 2 => (i / cols, if i / cols % 2 = 0 then i % cols else cols - 1 - i % cols)
  | _ => mortonIth rows cols 13 0 0 i

/-- The grid's tiles: N = C x R (R298). -/
def TileCounter.total (t : TileCounter) : Nat := t.gridCols * t.gridRows

/-- Complete: exhausted or closed, and every index handed out has its done report (R299). -/
def TileCounter.complete (t : TileCounter) : Bool :=
  (t.phase == .exhausted || t.phase == .closed) && t.done == t.handed.length

/-- An open counter with nothing left to hand out is exhausted (R299). -/
def TileCounter.settle (t : TileCounter) : TileCounter :=
  if t.phase = .open_ ∧ t.next = t.total ∧ t.requeued = [] then { t with phase := .exhausted } else t

/-- Command open on an idle or armed counter, whether the grid exceeds the limit (R299). -/
def TileCounter.opened (t : TileCounter) : TileCounter × Bool :=
  if t.limit < t.total then ({ t with phase := .closed }, true)
  else (TileCounter.settle { t with phase := .open_, next := 0, done := 0, handed := [], requeued := [] }, false)

/-- Command close (R299). -/
def TileCounter.close (t : TileCounter) : TileCounter :=
  if t.phase = .armed ∨ t.phase = .open_ ∨ t.phase = .exhausted then { t with phase := .closed, requeued := [] } else t

/-- The index an open counter hands out next: the lowest requeued, else the next in visit order (R300, R304). -/
def TileCounter.hand (t : TileCounter) (k : IsleNo) (c : CtxNo) : Option (Nat × TileCounter) :=
  if t.phase ≠ .open_ then none
  else match t.requeued with
    | i :: rest =>
      let handed := t.handed.map fun (h : Handed) => if h.index = i then ⟨i, k, c, false⟩ else h
      some (i, TileCounter.settle { t with requeued := rest, handed := handed })
    | [] =>
      if t.next < t.total then
        some (t.next, TileCounter.settle { t with next := t.next + 1, handed := t.handed ++ [⟨t.next, k, c, false⟩] })
      else none

/-- A done report of an index by the context that holds it (R302): it counts once for each handing out, and never beyond the number of
indices handed out. -/
def TileCounter.report (t : TileCounter) (i : Nat) (k : IsleNo) (c : CtxNo) : TileCounter :=
  if t.done < t.handed.length ∧ (t.handed.any fun h => h.index == i && h.isle == k && h.ctx == c && !h.reported) then
    { t with
      done := t.done + 1
      handed := t.handed.map fun h => if h.index = i ∧ h.isle = k ∧ h.ctx = c then { h with reported := true } else h }
  else t

/-- Insertion into an ascending list without repeats. -/
def insertAsc (n : Nat) : List Nat → List Nat
  | [] => [n]
  | m :: ms => if n < m then n :: m :: ms else if n = m then m :: ms else m :: insertAsc n ms

/-- Command requeue (R304): `none` where it is refused. -/
def TileCounter.requeue (t : TileCounter) (i : Nat) : Option TileCounter :=
  if (t.phase = .open_ ∨ t.phase = .exhausted) ∧ t.requeueOk ∧ (t.handed.any fun h => h.index == i && !h.reported)
      ∧ ¬ t.requeued.contains i ∧ t.requeued.length < 64 then
    some { t with requeued := insertAsc i t.requeued, phase := .open_ }
  else none

/-! ### The head op of a context -/

/-- The op at the head of a context's queue. -/
def Context.head (x : Context) : Option QueuedOp := x.queue[x.pos]?

/-- Byte `i` of a tile op, as a number. -/
def opByte (op : Bytes) (i : Nat) : Nat := (op.getD i 0).toNat

/-- op_id of a tile op (R189). -/
def opId (op : Bytes) : Nat := leAt op 4 2

/-- Counter, destination register and block length of a CLAIM (R203). -/
def claimCounter (op : Bytes) : CounterNo := Fin.ofNat 64 (opByte op 8)
def claimDest (op : Bytes) : Fin 4 := Fin.ofNat 4 (opByte op 9)
def claimLen (op : Bytes) : Nat := opByte op 10

/-- The phase of an enabled context that has no op in progress: ready when an op is at its head (R182). -/
def Context.rest (x : Context) : Context :=
  { x with
    phase := if x.enable ∧ x.pos < x.queue.length then .ready else .idle
    cause := .none
    suspended := false
    fenceGoal := none
    signalled := false
    fetched := false
    counted := false
    checked := false
    made := 0
    due := []
    sending := false
    unsent := []
    ranFor := 0 }

/-- What a stopped context becomes when its op has ended: idle, queue and block empty (R185 step 4). -/
def Context.emptied (x : Context) : Context :=
  { x with
    queue := []
    pos := 0
    block := none
    stopping := false
    phase := .idle
    cause := .none
    suspended := false
    fenceGoal := none
    signalled := false
    fetched := false
    counted := false
    checked := false
    made := 0
    due := []
    sending := false
    unsent := []
    ranFor := 0 }

/-- The context after its head op has retired (R180, R188, R185 step 4). -/
def Context.retired (x : Context) : Context :=
  if x.stopping then x.emptied
  else
    match x.block with
    | some _ => Context.rest { x with pos := x.pos + 1 }
    | none => Context.rest { x with queue := x.queue.drop (x.pos + 1), pos := 0 }

/-- The context suspended with a wait cause (R183); one that is to stop goes on in release form (R185). -/
def Context.waitFor (x : Context) (w : WaitCause) (now : Nat) : Context :=
  { x with
    phase := if x.stopping then .releasing else .waiting
    cause := if x.stopping then .none else w
    suspended := true
    ranFor := if x.phase = .running then x.ranFor + (now - x.runSince) else x.ranFor
    waitSince := if x.phase = .waiting then x.waitSince else now }

/-- Whether a context is waiting (R183). -/
def Context.waits (x : Context) : Bool := x.phase == .waiting

/-- The index register `i` written modulo 2^20. -/
def Context.setIx (x : Context) (i : Fin 4) (v : Nat) : Context := { x with ix := x.ix.set i (BitVec.ofNat 20 v) }

/-- Index register `i` one further on, the one a claim writes the tile row to (R300). -/
def nextIx (i : Fin 4) : Fin 4 := i + 1

/-- A claim answered (R188, R300): with an index, the registers are written and the block opens; without one, the
block is skipped. -/
def Context.claimed (x : Context) (op : Bytes) (t : TileCounter) (ans : Option Nat) : Context :=
  let d := claimDest op
  match ans with
  | some i =>
    let rc := tileOf t.order t.gridRows t.gridCols i
    let y := (x.setIx d rc.2).setIx (nextIx d) rc.1
    if claimLen op = 0 then Context.rest { y with queue := y.queue.drop 1, pos := 0 }
    else
      Context.rest { y with
        block := some
          { counter := claimCounter op
            index := i
            lastRow := rc.1 + 1 = t.gridRows
            lastCol := rc.2 + 1 = t.gridCols
            len := claimLen op
            rowEdge := t.rowEdge
            colEdge := t.colEdge
            resized := t.resized
            onSkerry := t.onSkerry }
        pos := 1 }
  | none =>
    let y := x.setIx d 0xFFFFF
    Context.rest { y with queue := y.queue.drop (max 1 (claimLen op)), pos := 0, block := none }

/-! ### Claims (R300, R301) -/

/-- What a counter answers to a claim. -/
inductive ClaimAnswer where
  | index (i : Nat)
  | exhausted
  | waits
  | fault (code : Nat)
  deriving DecidableEq, Repr

/-- A claim on a counter by a context of an owner (R300, R301; DEDUCED, log entry 6 for the order of its checks). -/
def TileCounter.claim (t : TileCounter) (k : IsleNo) (c : CtxNo) (o : OwnerNo) : ClaimAnswer × TileCounter :=
  if t.phase = .idle then (.fault 0x3204, t)
  else if t.owner ≠ o then (.fault 0x3201, t)
  else if !t.isleMask.getLsbD k then (.exhausted, t)
  else if t.phase = .armed then
    (.waits, if t.claims.contains (k, c) then t else { t with claims := t.claims ++ [(k, c)] })
  else match t.hand k c with
    | some (i, t') => (.index i, t')
    | none => (.exhausted, t)

/-- The waiting claims of a counter that has opened or closed, answered in ascending isle and context (R300, R301). They reached the
counter under the isle_mask of then; a later one does not touch them (R298). -/
def State.answerClaims (s : State) (n : CounterNo) : State :=
  let waiting := s.counters[n].claims
  let s := s.modCounter n fun t => { t with claims := [] }
  let order := allIsles.flatMap fun k => (allCtx.filter fun c => waiting.contains (k, c)).map fun c => (k, c)
  s.each order fun s kc =>
    let x := s.ctx kc.1 kc.2
    match x.head with
    | none => s
    | some op =>
      let t := s.counters[n]
      match t.hand kc.1 kc.2 with
      | some (i, t') => (s.modCounter n fun _ => t').modCtx kc.1 kc.2 (·.claimed op.bytes t (some i))
      | none => s.modCtx kc.1 kc.2 (·.claimed op.bytes t none)

/-- A counter closed, its waiting claims answered exhausted (R299, R301). -/
def State.closeCounter (s : State) (n : CounterNo) : State := (s.modCounter n (·.close)).answerClaims n

/-! ### Stop requests (R185) -/

/-- A stop request: an op that runs goes on; one that is suspended resumes in release form; a claim that is pending returns
exhausted, a fence or a wait ends at once; a context with no op in progress empties its queue (R185). -/
def Context.stop (x : Context) : Context :=
  match x.phase with
  | .faulted => x
  | .running | .releasing => { x with stopping := true }
  | .waiting =>
    match x.cause with
    | .claim | .queue => (x.setIx (claimDest ((x.head.map (·.bytes)).getD [])) 0xFFFFF).emptied
    | .wait => x.emptied
    | _ =>
      if x.fenceGoal.isSome then x.emptied
      else { x with stopping := true, phase := .releasing, cause := .none }
  | _ => if x.suspended then { x with stopping := true, phase := .releasing, cause := .none } else x.emptied

/-- A claim a context had waiting is withdrawn. -/
def State.withdraw (s : State) (k : IsleNo) (c : CtxNo) : State :=
  s.each allCounters fun s n =>
    if s.counters[n].claims.contains (k, c) then
      s.modCounter n fun t => { t with claims := t.claims.filter (· != (k, c)) }
    else s

/-- Words among messages. -/
def wordCount (l : List StraitItem) : Nat := l.countP fun i => match i.msg with | .word _ => true | _ => false

/-- A stop request to a context (R185): a claim it had waiting is withdrawn, and the words of a fence's signal that had no credit are
dropped and counted. -/
def State.stopCtx (s : State) (k : IsleNo) (c : CtxNo) : State :=
  let x := s.ctx k c
  let lost := if x.phase = .waiting ∧ x.fenceGoal.isSome then wordCount x.unsent else 0
  (((s.modCtx k c (·.stop)).withdraw k c)).modCnt k fun n => { n with releaseDrops := n.releaseDrops + BitVec.ofNat 64 lost }

/-- Stop requests to every context whose work satisfies `p`. -/
def State.stopWhere (s : State) (p : IsleNo → Context → Bool) : State :=
  s.each allIsles fun s k => s.each allCtx fun s c => if p k (s.ctx k c) then s.stopCtx k c else s

/-- Whether a context or channel serves a frame. -/
def servesFrame (v : Serves) (slot : SlotNo) (number : Nat) : Bool :=
  match v with
  | .frame sl n _ => sl == slot && n == number
  | _ => false

/-- Whether it serves a step of a frame. -/
def servesStep (v : Serves) (slot : SlotNo) (number step : Nat) : Bool := v == .frame slot number step

/-- Whether it serves adaptation of a slot's descriptor. -/
def servesAdapt (v : Serves) (slot : SlotNo) (desc : Nat) : Bool := v == .adapt slot desc

/-- The layer the latched programme gives a counter. -/
def State.layerOf (s : State) (n : CounterNo) : Option LayerPlan :=
  match s.tick.programme with
  | some p => p.layers.find? (·.counter == n)
  | none => none

/-- The counters that count the layers of a frame. -/
def State.frameCounters (s : State) (k : SlotNo) (n : Nat) : List CounterNo :=
  allCounters.filter fun c => (s.counters[c]).serves == some (k, n)

/-- A layer with 8 or fewer input or output channels runs on the skerry, every other on the arrays (R129). -/
def skerryLayer (l : LayerPlan) : Bool := l.inChannels ≤ 8 || l.outChannels ≤ 8

/-- The counter fields a layer's plan gives, over a run-time grid (R277, R316). -/
def counterOfLayer (l : LayerPlan) (mask : BitVec 16) (cols rows : Nat) : TileCounter :=
  { gridCols := cols
    gridRows := rows
    order := l.order
    limit := l.limit
    owner := l.owner
    requeueOk := l.requeueOk
    isleMask := mask
    predecessor := l.predecessor.getD 0
    rowEdge := BitVec.ofNat 32 l.rowEdge
    colEdge := BitVec.ofNat 32 l.colEdge
    onSkerry := some (skerryLayer l) }

/-- The isles whose bits may stand in a mask: those that are available (R510 step 1). -/
def State.availableMask (s : State) : BitVec 16 :=
  allIsles.foldl (fun m k => if s.isles[k].health.phase = .available then m ||| (1#16 <<< k.val) else m) 0

/-- The isles that may claim a layer's tiles now: those of its mask that are available and await no reload of a row that
holds its weights or tables (R510 step 1, R518). -/
def State.layerMask (s : State) (l : LayerPlan) : BitVec 16 :=
  let awaits (k : IsleNo) : Bool :=
    s.isles[k].health.reloads.any fun r => l.weightRows.any fun w => w.1 ≤ r.1 && r.1 ≤ w.2
  allIsles.foldl (fun m k => if awaits k then m &&& ~~~(1#16 <<< k.val) else m) (BitVec.ofNat 16 l.isleMask &&& s.availableMask)

end Sys2Proof.Machine
end

