-- ==== Sys2Proof/Machine/MoverCore.lean ====
section
/-! DEFINITION. The channels of the DMA engines as other steps act on them: access, clearing, aborting
(spec/12_movers_and_regions.md R319, R331). -/

namespace Sys2Proof.Machine

/-- The engine's state. -/
def State.engine (s : State) : Engine → EngineState
  | .isle k => s.isles[k].dma
  | .device => s.devDma

/-- The state with an engine changed. -/
def State.modEngine (s : State) (e : Engine) (f : EngineState → EngineState) : State :=
  match e with
  | .isle k => s.modIsle k fun i => { i with dma := f i.dma }
  | .device => { s with devDma := f s.devDma }

/-- A channel. -/
def State.chan (s : State) (e : Engine) (c : ChanNo) : Channel := (s.engine e).chans[c]

/-- The state with a channel changed. -/
def State.modChan (s : State) (e : Engine) (c : ChanNo) (f : Channel → Channel) : State :=
  s.modEngine e fun g => { g with chans := g.chans.set c (f g.chans[c]) }

/-- The isle number a record of the engine names. -/
def engineIsle : Engine → Nat
  | .isle k => k
  | .device => 0xFF

/-- The channels an engine has (R318). -/
def engineChans : Engine → List ChanNo
  | .isle _ => (List.finRange 16).take 8
  | .device => List.finRange 16

/-- All engines. -/
def allEngines : List Engine := allIsles.map Engine.isle ++ [.device]

/-- A channel with both descriptor sets cleared, idle (R331, R332). -/
def Channel.cleared (x : Channel) : Channel :=
  { x with
    phase := .idle
    aborting := false
    shadow := zeros 64
    shadowValid := false
    active := zeros 64
    row := 0
    plane := 0
    byteIn := 0
    begun := false
    reading := [] }

/-- Abort of a channel (R331): one with reads in flight pauses first, any other is idle at once. -/
def Channel.abort (x : Channel) : Channel :=
  match x.phase with
  | .faulted => x
  | .running => { x with phase := .pausing, aborting := true }
  | .pausing => { x with aborting := true }
  | _ => x.cleared

/-- Whether a channel holds a transfer to abort. -/
def Channel.holds (x : Channel) : Bool := (x.phase != .idle && x.phase != .faulted) || x.shadowValid

/-- A channel aborted, and 0x5022 raised. -/
def State.abortChan (s : State) (e : Engine) (c : ChanNo) : State :=
  (s.modChan e c (·.abort)).raise 0x5022 { isle := engineIsle e }

/-- Every channel that holds a transfer and satisfies `p` aborted. -/
def State.abortWhere (s : State) (p : Engine → Channel → Bool) : State :=
  s.each allEngines fun s e =>
    s.each (engineChans e) fun s c => if (s.chan e c).holds && p e (s.chan e c) then s.abortChan e c else s

/-- A channel of abandoned work: what has not started is cleared, a shadow among it; a transfer that has started completes, and a faulted
channel stays faulted (R331, R332). -/
def Channel.dropped (x : Channel) : Channel :=
  if x.phase = .faulted then x
  else if x.begun then { x with shadow := zeros 64, shadowValid := false }
  else x.cleared

/-- Transfers of abandoned work that have not started are cleared (R331). -/
def State.dropUnstarted (s : State) (p : Channel → Bool) : State :=
  s.each allEngines fun s e =>
    s.each (engineChans e) fun s c =>
      let x := s.chan e c
      if p x && x.holds then s.modChan e c (·.dropped) else s

end Sys2Proof.Machine
end

