-- ==== Sys2Proof/Machine/Plans.lean ====
section
/-! DEFINITION. Stage plans: the chain and stage descriptors and their checks (spec/05_neural_stages.md R121 to R131,
R138), analysis plans (spec/06_outputs_and_analysis.md R159) and adaptation descriptors (spec/13_adaptation.md R340 to
R342). -/

namespace Sys2Proof.Machine

/-- Byte `i` of a structure, as a number. -/
def byteAt (b : Bytes) (i : Nat) : Nat := (b.getD i 0).toNat

/-- Field [hi:lo] of byte `i`. -/
def fieldAt (b : Bytes) (i lo n : Nat) : Nat := bitsOf (byteAt b i) lo n

/-- The first failing check of a list. -/
def firstFailure : List (Bool × Nat) → Option Nat
  | [] => none
  | (bad, code) :: rest => if bad then some code else firstFailure rest

/-! ### The chain descriptor (R122) and stage descriptors (R123) -/

/-- Stage descriptor `i` of a plan. -/
def stageDesc (body : Bytes) (i : Nat) : Bytes := slice body (64 + 64 * i) 64

/-- The stage descriptors the checks of R124 visit: every whole 64-byte block after the chain descriptor that the plan's bytes hold, also
where their number differs from descriptor_count, which order 5 then reports (DESIGN CHOICE, log entry 125). -/
def stageDescs (body : Bytes) : List Bytes := (List.range ((body.length - 64) / 64)).map (stageDesc body)

/-- The descriptor indices of a level, in chain order. -/
def levelList (body : Bytes) (level : Nat) : List Nat :=
  (List.range (byteAt body (12 + level))).map fun i => byteAt body (16 + 16 * level + i)

/-- Stripe height h (R122). -/
def stripeHeight (body : Bytes) : Nat := 16 * 2 ^ fieldAt body 1 0 2

def stKind (d : Bytes) : Nat := byteAt d 1
def stPad (d : Bytes) : Nat := fieldAt d 2 0 3
def stHaloTop (d : Bytes) : Nat := byteAt d 4
def stHaloBottom (d : Bytes) : Nat := byteAt d 5
def stInChannels (d : Bytes) : Nat := byteAt d 6
def stOutChannels (d : Bytes) : Nat := byteAt d 7
def stInType (d : Bytes) : Nat := fieldAt d 8 0 4
def stOutType (d : Bytes) : Nat := fieldAt d 8 4 4
def stInExp (d : Bytes) : Int := leIntAt d 9 1
def stOutExp (d : Bytes) : Int := leIntAt d 10 1
def stTapL (d : Bytes) : Bool := bitOf (byteAt d 11) 0
def stTapP (d : Bytes) : Bool := bitOf (byteAt d 11) 1
def stSubstitute (d : Bytes) : Bool := bitOf (byteAt d 12) 0
def stGapLimit (d : Bytes) : Nat := byteAt d 13
def stStateChannels (d : Bytes) : Nat := byteAt d 14
def stStateType (d : Bytes) : Nat := fieldAt d 15 0 4
def stDecimation (d : Bytes) : Nat := fieldAt d 15 4 2
def stStateBase (d : Bytes) : Nat := leAt d 16 8
def stStateHalf (d : Bytes) : Nat := leAt d 24 4
def stOps (d : Bytes) : Nat := leAt d 28 4
def stProgLength (d : Bytes) : Nat := leAt d 36 4
def stLayers (d : Bytes) : Nat := leAt d 40 4
def stBuffers (d : Bytes) : Nat := byteAt d 44
def stRecurrent (d : Bytes) : Bool := stKind d == 3

/-- T and B of R130 for stripe height `h`. -/
def stripesAbove (d : Bytes) (h : Nat) : Nat := ceilDiv (stHaloTop d) h
def stripesBelow (d : Bytes) (h : Nat) : Nat := ceilDiv (stHaloBottom d) h

/-- Reserved fields of the chain descriptor and of a stage descriptor (order 2 of R124). -/
def chainReserved (b : Bytes) : Bool :=
  fieldAt b 0 0 4 != 0 || fieldAt b 1 2 6 != 0 || fieldAt b 3 3 5 != 0 || !allZero (slice b 9 3) || byteAt b 15 != 0
def stageReserved (d : Bytes) : Bool :=
  fieldAt d 0 0 4 != 0 || fieldAt d 2 3 5 != 0 || byteAt d 3 != 0 || fieldAt d 11 2 6 != 0 || fieldAt d 12 1 7 != 0
    || fieldAt d 15 6 2 != 0 || !allZero (slice d 45 19)

/-- A count outside `lo .. hi`. -/
def outside (v lo hi : Nat) : Bool := v < lo || hi < v

/-- Order 3 of R124 on the chain descriptor. -/
def chainEncoding (b : Bytes) : Bool :=
  fieldAt b 1 0 2 == 3 || outside (byteAt b 2) 1 32 || outside (fieldAt b 3 0 3) 0 4
    || !([1, 2, 4].contains (byteAt b 8))
    || (List.range 3).any fun l =>
        outside (byteAt b (12 + l)) 1 16 || !allZero ((slice b (16 + 16 * l) 16).drop (byteAt b (12 + l)))

/-- Order 3 of R124 on a stage descriptor. warm_substitute is for recurrent stages only: a 1 elsewhere counts as outside its range
(DESIGN CHOICE, log entry 126). -/
def stageEncoding (d : Bytes) : Bool :=
  let r := stRecurrent d
  outside (stKind d) 1 3 || outside (stPad d) 0 3 || outside (stHaloTop d) 0 32 || outside (stHaloBottom d) 0 32
    || outside (stInChannels d) 1 64 || outside (stOutChannels d) 1 64 || outside (stInType d) 0 2
    || outside (stOutType d) 0 2 || stInExp d < -32 || 31 < stInExp d || stOutExp d < -32 || 31 < stOutExp d
    || (!r && stSubstitute d)
    || (if r then outside (stGapLimit d) 1 8 else stGapLimit d != 0)
    || (if r then outside (stStateChannels d) 1 64 else stStateChannels d != 0)
    || (if r then outside (stStateType d) 1 2 else stStateType d != 0)
    || stDecimation d == 3
    || (if r then stStateBase d % 4096 != 0 else stStateBase d != 0)
    || stStateHalf d % 4096 != 0 || stProgLength d % 64 != 0 || outside (stLayers d) 1 4096
    || outside (stBuffers d) 2 8

/-- The value of an RW-E entry as the last write left it: pending, for this epoch or the one after, else in force (R14, R64, R124 order
4). -/
def State.comingVal (s : State) (i sub : Nat) : OdVal :=
  kvGet (kvGet (s.entry i sub) (odKey i sub) s.od.pendE) (odKey i sub) s.od.pendLate

/-- The number it holds. -/
def State.coming (s : State) (i sub : Nat) : Int := (s.comingVal i sub).int

/-- Consecutive pairs of a list. -/
def pairs {α : Type} (xs : List α) : List (α × α) := xs.zip (xs.drop 1)

/-- Order 6 of R124: a level breaks a rule of R125. -/
def levelBreaks (body : Bytes) (level : Nat) : Bool :=
  let ds := (levelList body level).map (stageDesc body)
  let per := byteAt body 8
  let opsOf l := (((levelList body l).map (stageDesc body)).map stOps).sum
  let head := ds.headD []
  let last := ds.getLastD []
  (if level = 0 then
      stInChannels head != 1 || stInType head != 0 || stInExp head != 0 || (per != 1 && stKind head != 1)
        || ds.tail.any (stKind · == 1)
    else
      ds.any (stKind · == 1) || stInChannels head != (if per = 1 then 1 else 3) || stInType head != 0 || stInExp head != 0)
    || (pairs ds).any (fun p =>
        stInChannels p.2 != stOutChannels p.1 || stInType p.2 != stOutType p.1 || stInExp p.2 != stOutExp p.1)
    || ds.countP stTapL != 1 || ds.countP stTapP != 1 || !stTapP last
    || ds.any (fun d => (stTapL d || stTapP d) && (stOutChannels d != 3 || stOutType d != 0 || stOutExp d != 0))
    || (level = 1 && opsOf 0 < opsOf 1) || (level = 2 && opsOf 1 < opsOf 2)

/-- The U16 rule over every descriptor of the plan (R125). -/
def u16Breaks (body : Bytes) : Bool :=
  (stageDescs body).any fun d => (stOutType d == 0) != (stTapL d || stTapP d)

/-- Order 7 of R124: a producer's buffers are below T + B + 2 of its consumer (R130). -/
def buffersBreak (body : Bytes) : Bool :=
  let h := stripeHeight body
  (List.range 3).any fun l =>
    (pairs ((levelList body l).map (stageDesc body))).any fun p =>
      stBuffers p.1 < stripesAbove p.2 h + stripesBelow p.2 h + 2

/-- Bytes a half of a stage's state needs (R138). -/
def stateNeeds (d : Bytes) (w h : Nat) : Nat :=
  let k := 2 ^ stDecimation d
  let bits := if stStateType d = 2 then 8 else 16
  4096 + stStateChannels d * ceilDiv h k * (ceilDiv (ceilDiv (ceilDiv w k * bits) 8) 64 * 64)

/-- Whether one enabled external window of an owner holds `lo .. hi`. -/
def State.inWindow (s : State) (o : OwnerNo) (lo hi : Nat) : Bool :=
  s.windows[o].toList.any fun w => w.space == 1 && w.base ≤ lo && hi ≤ w.limit

/-- Order 8 of R124. -/
def stateAreaBreaks (s : State) (o : OwnerNo) (body : Bytes) : Bool :=
  (stageDescs body).any fun d =>
    stRecurrent d &&
      (stStateHalf d < stateNeeds d (leAt body 4 2) (leAt body 6 2)
        || !s.inWindow o (stStateBase d) (stStateBase d + 2 * stStateHalf d - 1))

/-- The byte range of a stage's two state halves. -/
def stateArea (d : Bytes) : Nat × Nat := (stStateBase d, stStateBase d + 2 * stStateHalf d)

/-- Whether two half-open ranges meet. -/
def rangesMeet (a b : Nat × Nat) : Bool := a.1 < b.2 && b.1 < a.2

/-- Order 9 of R124. -/
def stateAreasMeet (body : Bytes) : Bool :=
  (List.range 3).any fun l =>
    let is := ((levelList body l).dedup).filter fun i => stRecurrent (stageDesc body i)
    is.any fun i => is.any fun j => i < j && rangesMeet (stateArea (stageDesc body i)) (stateArea (stageDesc body j))

/-- The checks of R124 on a plan for a slot: the code of the first that fails. -/
def State.planCheck (s : State) (k : SlotNo) (body : Bytes) : Option Nat :=
  let ds := stageDescs body
  let i := slotIndex k
  let o := Fin.ofNat 16 (s.coming i 0xF0).toNat
  firstFailure
    [(fieldAt body 0 4 4 != 1 || ds.any (fieldAt · 0 4 4 != 1), 0x3E01),
     (chainReserved body || ds.any stageReserved, 0x3E02),
     (chainEncoding body || ds.any stageEncoding, 0x3E03),
     ((leAt body 4 2 : Int) != s.coming i 3 || (leAt body 6 2 : Int) != s.coming i 4
        || (byteAt body 8 : Int) != s.coming i 8, 0x3E05),
     (body.length != 64 + 64 * byteAt body 2
        || (List.range 3).any fun l => (levelList body l).any (byteAt body 2 ≤ ·), 0x3E04),
     ((List.range 3).any (levelBreaks body) || u16Breaks body, 0x3E04),
     (buffersBreak body, 0x3E04),
     (stateAreaBreaks s o body, 0x3E04),
     (stateAreasMeet body, 0x3E04)]

/-! ### Adaptation descriptors (R341, R342) -/

def adStage (d : Bytes) : Nat := byteAt d 1
def adObjective (d : Bytes) : Nat := fieldAt d 2 0 2
def adMasterShift (d : Bytes) : Nat := fieldAt d 3 0 4
def adBatch (d : Bytes) : Nat := byteAt d 6
def adWeights (d : Bytes) : Nat := leAt d 8 4
def adCycles (d : Bytes) : Nat := leAt d 12 4
def adStateBase (d : Bytes) : Nat := leAt d 16 8
def adStateHalf (d : Bytes) : Nat := leAt d 24 4
def adSampleBase (d : Bytes) : Nat := leAt d 28 8
def adSampleBytes (d : Bytes) : Nat := leAt d 36 4
def adSamples (d : Bytes) : Nat := leAt d 40 2

/-- The state area and the sample ring of a descriptor. -/
def adState (d : Bytes) : Nat × Nat := (adStateBase d, adStateBase d + 2 * adStateHalf d)
def adRing (d : Bytes) : Nat × Nat := (adSampleBase d, adSampleBase d + adSamples d * adSampleBytes d)

/-- Whether an adaptation descriptor breaks R341, R340 or R342; `others` are the other state areas of the plan, which neither its own state
nor its sample ring may meet; its ring may not meet its own state either. -/
def adaptBreaks (s : State) (o : OwnerNo) (img : PlanImage) (others : List (Nat × Nat)) (d : Bytes) : Bool :=
  let body := img.body
  let st := stageDesc body (adStage d)
  fieldAt d 0 4 4 != 1
    || fieldAt d 0 0 4 != 0 || fieldAt d 2 2 6 != 0 || fieldAt d 3 4 4 != 0 || fieldAt d 4 3 5 != 0
    || fieldAt d 5 4 4 != 0 || byteAt d 7 != 0 || !allZero (slice d 42 2) || !allZero (slice d 56 8)
    || outside (adStage d) 0 31 || outside (adObjective d) 1 2 || outside (adMasterShift d) 0 8
    || outside (fieldAt d 4 0 3) 1 7 || outside (fieldAt d 5 0 4) 1 12 || outside (adBatch d) 1 64
    || adWeights d % 32 != 0 || outside (adWeights d) 32 1048576
    || adStateBase d % 4096 != 0 || adStateHalf d % 4096 != 0 || adSampleBase d % 4096 != 0
    || adSampleBytes d % 4096 != 0 || outside (adSamples d) 2 256 || leAt d 48 4 % 64 != 0
    || byteAt body 2 ≤ adStage d || stKind st == 1 || !(levelList body 0).contains (adStage d)
    || adStateHalf d < 4096 + 192 * (adWeights d / 32)
    || img.streamed.contains (adStage d)
    || [adState d, adRing d].any (fun a => !s.inWindow o a.1 (a.2 - 1) || others.any (rangesMeet a))
    || rangesMeet (adRing d) (adState d)

/-- The check of a plan's adaptation descriptors (R342): at most two, for different stages. -/
def State.adaptCheck (s : State) (k : SlotNo) (img : PlanImage) : Option Nat :=
  let o := Fin.ofNat 16 (s.coming (slotIndex k) 0xF0).toNat
  let stateAreas := ((stageDescs img.body).filter stRecurrent).map stateArea
  let bad (i : Nat) (d : Bytes) : Bool :=
    adaptBreaks s o img (stateAreas ++ ((img.adapt.take i) ++ img.adapt.drop (i + 1)).map adState) d
      || (img.adapt.take i).any fun e => adStage e == adStage d
  if 2 < img.adapt.length || ((List.range img.adapt.length).any fun i => bad i (img.adapt.getD i [])) then some 0x3A01
  else none

/-- Where the programme of an adaptable stage that reads a weight set lies in the image (R341, R343). -/
def adaptProgram (img : PlanImage) (d set : Nat) : Nat :=
  let b := img.adapt.getD d []
  if set = 1 then leAt b 52 4 else leAt (stageDesc img.body (adStage b)) 32 4

/-! ### Loaded plans -/

/-- The loaded stage plan of an identifier. -/
def State.planOf (s : State) (id : Nat) : Option PlanImage := s.plans.find? fun p => p.id == id && !p.analysis

/-- The loaded analysis plan of an identifier. -/
def State.analysisOf (s : State) (id : Nat) : Option PlanImage := s.plans.find? fun p => p.id == id && p.analysis

/-- The stage plan in force of a slot (0x30ss:30). -/
def State.slotPlan (s : State) (k : SlotNo) : Option PlanImage := s.planOf (s.slotNat k 0x30)

/-- The analysis plan in force of a slot (0x30ss:49). -/
def State.slotAnalysis (s : State) (k : SlotNo) : Option PlanImage := s.analysisOf (s.slotNat k 0x49)

/-- The plans in force: those that enabled slots name. -/
def State.plansInForce (s : State) : List PlanImage :=
  (allSlots.filter fun k => s.slotNat k 1 == 1 || s.slotNat k 0x70 == 2).flatMap fun k =>
    (s.slotPlan k).toList ++ (s.slotAnalysis k).toList

/-- ISLE_WAIT_LIMIT as the scheduler core sets it: above the longest layer of the plans in force, and otherwise left at its reset value
(R184, R211, R301; DESIGN CHOICE, log entry 140). -/
def State.setWaitLimits (s : State) : State :=
  let longest := (s.plansInForce.map (·.longestLayer)).foldl max 0
  let limit := min 10000000 (max 1000000 (longest + 1))
  { s with isles := s.isles.map fun (i : IsleState) => { i with waitLimit := limit } }

/-- The plan images with one added, replacing the image of its identifier and kind. -/
def addPlan (ps : List PlanImage) (p : PlanImage) : List PlanImage :=
  p :: ps.filter fun q => !(q.id == p.id && q.analysis == p.analysis)

/-- Stripes of a frame of height `hh` at stripe height `h` (R130). -/
def stripeCount (hh h : Nat) : Nat := ceilDiv hh h

/-- The stages of a level, as descriptor indices and descriptors. -/
def levelStages (body : Bytes) (level : Nat) : List (Nat × Bytes) :=
  (levelList body level).map fun i => (i, stageDesc body i)

/-! ### Stripe buffers (R128) -/

/-- Bytes of an element of a tensor type: 0 U16, 1 INT16, 2 INT8. -/
def tensorBytes (type : Nat) : Nat := if type = 2 then 1 else 2

/-- The elements of a line in whole words, unused bits at its end zero. -/
def lineBytes (type : Nat) (l : List Int) : Bytes :=
  let b := l.flatMap fun v => toLe (tensorBytes type) (unsigned (8 * tensorBytes type) v)
  b ++ zeros (roundUp b.length 32 - b.length)

/-- An element from its bytes. -/
def tensorElem (type : Nat) (b : Bytes) : Int := if type = 0 then leNat b else signed (8 * b.length) (leNat b)

/-- A stripe put into its buffer: channel by channel, line by line. -/
def StripeData.pack (stripe type : Nat) (xs : List (List (List Int))) : StripeData :=
  { stripe := stripe
    type := type
    channels := xs.length
    lines := (xs.headD []).length
    width := ((xs.headD []).headD []).length
    bytes := xs.flatMap fun c => c.flatMap (lineBytes type) }

/-- Element `x` of a line of a channel. -/
def StripeData.elem (d : StripeData) (c y x : Nat) : Int :=
  let n := tensorBytes d.type
  tensorElem d.type (slice d.bytes ((c * d.lines + y) * roundUp (d.width * n) 32 + x * n) n)

/-- A line of a channel, and all of them. -/
def StripeData.line (d : StripeData) (c y : Nat) : List Int := (List.range d.width).map (d.elem c y)
def StripeData.samples (d : StripeData) : List (List (List Int)) :=
  (List.range d.channels).map fun c => (List.range d.lines).map (d.line c)

/-- Stripe lag K of a level (R131). -/
def stripeLag (body : Bytes) (level : Nat) : Nat :=
  ((levelStages body level).map fun d => stripesBelow d.2 (stripeHeight body)).sum

/-- Front stripe buffers of a level: T + B + 2 of its first stage (R135). -/
def frontBuffers (body : Bytes) (level : Nat) : Nat :=
  match levelStages body level with
  | [] => 0
  | d :: _ => stripesAbove d.2 (stripeHeight body) + stripesBelow d.2 (stripeHeight body) + 2

/-! ### Analysis descriptors (R159) -/

def anDetect (b : Bytes) : Bool := bitOf (byteAt b 1) 0
def anSegment (b : Bytes) : Bool := bitOf (byteAt b 1) 1
def anHeads (b : Bytes) : Nat := byteAt b 2
def anClassesM1 (b : Bytes) : Nat := byteAt b 3
def anHeadStride (b : Bytes) (h : Nat) : Nat := fieldAt b (4 + h) 0 4
def anHeadExp (b : Bytes) (h : Nat) : Int := signed 4 (fieldAt b (4 + h) 4 4)
def anSegChannels (b : Bytes) : Nat := byteAt b 12 + 1
def anSegWidth (b : Bytes) : Nat := leAt b 14 2
def anSegHeight (b : Bytes) : Nat := leAt b 16 2
def anWidth (b : Bytes) : Nat := leAt b 18 2
def anHeight (b : Bytes) : Nat := leAt b 20 2

/-- Reserved fields of the analysis descriptor. -/
def analysisReserved (b : Bytes) : Bool :=
  fieldAt b 0 0 4 != 0 || fieldAt b 1 2 6 != 0 || byteAt b 13 != 0 || fieldAt b 22 2 6 != 0 || !allZero (slice b 40 24)

/-- Encodings and ranges of the analysis descriptor. -/
def analysisEncoding (b : Bytes) : Bool :=
  let seg := anSegment b
  (if anDetect b then outside (anHeads b) 1 8 else anHeads b != 0)
    || ((List.range 8).any fun h => 8 ≤ anHeadStride b h || anHeadExp b h < -2)
    || (if seg then outside (anSegWidth b) 1 8192 else anSegWidth b != 0)
    || (if seg then outside (anSegHeight b) 1 8192 else anSegHeight b != 0)
    || leAt b 32 4 % 64 != 0 || outside (leAt b 36 4) 1 4096

/-- The checks of R159 on an analysis plan of slot `k` with source slot `src`, against the values that would be in
force after the next epoch. -/
def State.analysisCheck (s : State) (k src : SlotNo) (b : Bytes) : Option Nat :=
  let i := slotIndex src
  let chained (x y : SlotNo) : Bool := s.coming (slotIndex x) 0x49 != 0 && s.coming (slotIndex x) 0x4A != (y : Nat)
  firstFailure
    [(fieldAt b 0 4 4 != 1, 0x3E01), (analysisReserved b, 0x3E02), (analysisEncoding b || b.length != 64, 0x3E03),
     ((anWidth b : Int) != s.coming i 3 || (anHeight b : Int) != s.coming i 4
        || (fieldAt b 22 0 1 : Int) != s.coming i 0x46 || (fieldAt b 22 1 1 : Int) != s.coming i 0x48
        || (byteAt b 23 : Int) != s.coming i 0x47, 0x3E05),
     (s.coming i 0x45 != 2, 0x3E05),
     (s.coming i 0xF0 != s.coming (slotIndex k) 0xF0, 0x3E04),
     (src != k && (chained src src
        || allSlots.any fun x => x != k && s.coming (slotIndex x) 0x49 != 0 && s.coming (slotIndex x) 0x4A == (k : Nat)),
      0x3E04)]

end Sys2Proof.Machine
end

