-- ==== Sys2Proof/Machine/AdaptCore.lean ====
section
/-! DEFINITION. What adaptation does inside other steps: the choice of halves, resets, abandonment and sample pairs
(spec/13_adaptation.md R343 to R348, R361). -/

namespace Sys2Proof.Machine

/-- Whether a half qualifies as read half: valid and of the stage's generation (R345). -/
def AdaptStage.qualifies (a : AdaptStage) (h : AdaptHeader) : Bool := h.valid && h.generation == a.generation

/-- The read half of an adaptable stage: false for half 0 (R345). -/
def AdaptStage.readHalf (a : AdaptStage) : Option Bool :=
  match a.qualifies a.half0, a.qualifies a.half1 with
  | true, false => some false
  | false, true => some true
  | true, true =>
    if laterFrame a.half0.stepCount a.half1.stepCount then some false
    else if laterFrame a.half1.stepCount a.half0.stepCount then some true
    else none
  | false, false => none

/-- The header of the read half. -/
def AdaptStage.readHeader (a : AdaptStage) : Option AdaptHeader :=
  a.readHalf.map fun b => if b then a.half1 else a.half0

/-- Two halves qualify and neither is later: the stage is reset at the next frame (R345). -/
def AdaptStage.tied (a : AdaptStage) : Bool :=
  a.qualifies a.half0 && a.qualifies a.half1 && a.readHalf.isNone

/-- The weight set a frame that begins now uses (R343); set 0 where there is no read half. -/
def AdaptStage.set (a : AdaptStage) : Nat := (a.readHeader.map (·.deployedSet)).getD 0

/-- The stage after an adaptation reset (R346). -/
def AdaptStage.reset (a : AdaptStage) (tick : Nat) : AdaptStage :=
  let g := (a.generation + 1) % 2 ^ 32
  { a with
    generation := g
    half0 := { valid := true, generation := g, commitTick := tick }
    half1 := { a.half1 with valid := false }
    running := none
    badLosses := 0
    resetPending := false }

/-- The slot with the adaptation of descriptor `d` changed. -/
def Slot.modAdapt (sl : Slot) (d : Nat) (f : AdaptStage → AdaptStage) : Slot :=
  { sl with adapt := sl.adapt.map fun a => if a.desc == d then f a else a }

/-- A running step abandoned (R361): its contexts stop, its channels abort, and it is counted with its reason. -/
def State.abandonStep (s : State) (k : SlotNo) (d reason : Nat) : State :=
  match s.slots[k].adapt.find? (·.desc == d) with
  | none => s
  | some a =>
    match a.running with
    | none => s
    | some _ =>
      let s := s.modSlot k (·.modAdapt d fun a => { a with running := none })
      let s := s.stopWhere fun _ x => servesAdapt x.serves k d
      let s := s.abortWhere fun _ x => servesAdapt x.serves k d
      let s := (s.bump (slotIndex k) 0x68).setNum (slotIndex k) 0x69 reason
      s.raiseOnce 0x3A02 k { slot := k }

/-- Every running step that satisfies `p` abandoned with a reason. -/
def State.abandonWhere (s : State) (reason : Nat) (p : SlotNo → AdaptStep → Bool) : State :=
  s.each allSlots fun s k =>
    s.each s.slots[k].adapt fun s a =>
      match a.running with
      | some st => if p k st then s.abandonStep k a.desc reason else s
      | none => s

/-- The 64 bytes of a header of adaptation state (R344). -/
def AdaptHeader.bytes (h : AdaptHeader) (k : SlotNo) (stage : Nat) : Bytes :=
  [0x10, byte ((if h.valid then 1 else 0) + 2 * h.deployedSet), byte k, byte stage] ++ toLe 4 h.generation
    ++ toLe 4 h.stepCount ++ toLe 6 h.commitTick ++ zeros 2 ++ toLe 4 (unsigned 32 h.loss)
    ++ [byte (unsigned 8 h.lossExp), 0] ++ toLe 4 (unsigned 32 h.baseline) ++ [byte (unsigned 8 h.baselineExp)] ++ zeros 33

/-- The adaptation descriptor `d` of a slot's plan in force. -/
def State.adaptDesc (s : State) (k : SlotNo) (d : Nat) : Bytes := (((s.slotPlan k).map (·.adapt)).getD []).getD d []

/-- The headers of a stage's two halves written to external memory. -/
def State.writeAdaptHeaders (s : State) (k : SlotNo) (d : Nat) : State :=
  match s.slots[k].adapt.find? (·.desc == d) with
  | none => s
  | some a =>
    let b := s.adaptDesc k d
    let s := s.extWrite (s.slotOwner k) (adStateBase b) (a.half0.bytes k (adStage b))
    s.extWrite (s.slotOwner k) (adStateBase b + adStateHalf b) (a.half1.bytes k (adStage b))

/-- The entry of deployed sets (0x30ss:6C) brought up to date. -/
def State.noteSets (s : State) (k : SlotNo) : State :=
  s.setNum (slotIndex k) 0x6C ((s.slots[k].adapt.map fun a => a.set * 2 ^ a.desc).sum : Nat)

/-- What the plan's image holds for adaptation descriptor `d` of a slot. -/
def State.adaptImage (s : State) (k : SlotNo) (d : Nat) : Option AdaptImage := ((s.slotPlan k).map (·.sets)).bind (·[d]?)

/-- The masters a reset writes: each plan weight × 2^master_shift, exact (R346). -/
def resetMasters (b : Bytes) (m : AdaptImage) : Bytes :=
  m.weights.flatMap fun w => toLe 2 (unsigned 16 (w.toInt * (2 ^ adMasterShift b : Nat)))

/-- The group records a reset writes: no gradients and moments, their exponents −128, and Linry's c and ea (R346, R352). -/
def resetRecords (m : AdaptImage) : Bytes := m.rates.flatMap fun r => zeros 96 ++ [0x80, 0x80, 0x80, r.1, r.2] ++ zeros 27

/-- Both weight sets of a stage written into an isle: 32 weights to a word, in the order of the masters (DESIGN CHOICE, log entry 141). -/
def State.loadSets (s : State) (k : SlotNo) (isle : IsleNo) (m : AdaptImage) (ws : Bytes) : State :=
  let put (first : Nat) (p : Scratchpad) : Scratchpad :=
    (List.range (ws.length / 32)).foldl (fun p i => p.put (first + i) (slice ws (32 * i) 32) (s.slotOwner k)) p
  s.modSp isle fun p => put m.set1 (put m.set0 p)

/-- Both sets of a descriptor loaded from the plan into every isle that holds the stage and is in service (R343, R346 step 4, R356). -/
def State.loadPlanSets (s : State) (k : SlotNo) (d : Nat) : State :=
  match s.adaptImage k d with
  | none => s
  | some m =>
    s.each (m.isles.filter fun i => s.isles[i].health.phase != .fenced) fun s i => s.loadSets k i m m.weights

/-- Steps 2 to 4 of a reset: half 0 holds the plan's masters and empty moments, half 1 is not valid, both sets are the plan's (R344,
R346). -/
def State.writeReset (s : State) (k : SlotNo) (d : Nat) : State :=
  let b := s.adaptDesc k d
  let s := match s.adaptImage k d with
    | some m =>
      let s := s.extWrite (s.slotOwner k) (adStateBase b + 4096) (resetRecords m)
      s.extWrite (s.slotOwner k) (adStateBase b + 4096 + 128 * (adWeights b / 32)) (resetMasters b m)
    | none => s
  ((s.writeAdaptHeaders k d).noteSets k).loadPlanSets k d

/-- The resets that are due at a frame start of the slot: pending ones and tied halves (R345, R346). -/
def State.adaptResets (s : State) (k : SlotNo) : State :=
  s.each s.slots[k].adapt fun s a =>
    if a.resetPending || a.tied then
      let s := s.abandonStep k a.desc 4
      let s := (s.modSlot k (·.modAdapt a.desc (·.reset s.tick.number))).writeReset k a.desc
      s.raise 0x3A05 { slot := k }
    else s

/-- The status bits a usable pair must not carry (R348). -/
def pairMask : Word32 := 0x007F8FFF#32

/-- A frame's outcome noted in the slot's sample pairs (R348). -/
def SamplePair.note (p : SamplePair) (f : Frame) : SamplePair :=
  let ok := f.status &&& pairMask == 0#32 && f.outcome == some .done
  if p.frame = f.number then { p with firstOk := ok, generation := f.generation, plan := f.plan }
  else if (p.frame + 1) % 2 ^ 32 = f.number then
    { p with
      usable := p.first && p.second && p.firstOk && ok && p.generation == f.generation && p.plan == f.plan }
  else p

/-- The slot's pairs after a frame reached its outcome: pairs that can no longer become usable are dropped. -/
def Slot.notePairs (sl : Slot) (f : Frame) : Slot :=
  { sl with
    adapt := sl.adapt.map fun a =>
      { a with
        pairs := (a.pairs.map (·.note f)).filter fun p =>
          p.usable || p.frame == f.number && p.firstOk || laterFrame p.frame f.number } }

end Sys2Proof.Machine
end

