-- ==== Sys2Proof/Machine/Codec.lean ====
section
/-! DEFINITION. The bounded-error codec (spec/14_memory_codec_encryption.md R380 to R384). -/

namespace Sys2Proof.Machine

/-- A sample type of R380: its width b, its slot size S, whether it is signed. -/
structure BecType where
  code : Nat
  bits : Nat
  slot : Nat
  isSigned : Bool
  deriving DecidableEq, Repr

/-- The type of a code 0 to 6 (R380). -/
def becType : Nat → BecType
  | 0 => ⟨0, 8, 96, false⟩
  | 1 => ⟨1, 8, 96, true⟩
  | 2 => ⟨2, 10, 96, false⟩
  | 3 => ⟨3, 12, 128, false⟩
  | 4 => ⟨4, 14, 128, false⟩
  | 5 => ⟨5, 16, 160, false⟩
  | _ => ⟨6, 16, 160, true⟩

/-- The raw size of a block of 64 samples in bytes (R380). -/
def BecType.raw (t : BecType) : Nat := 64 * t.bits / 8

/-- The bound e of a code 1 to 6 (R380). -/
def becBound : Nat → Nat
  | 1 => 0 | 2 => 1 | 3 => 2 | 4 => 4 | 5 => 8 | _ => 16

/-- The type a frame ring of a sample width uses (R388). -/
def becOfWidth (w : Nat) : BecType :=
  becType (if w ≤ 8 then 0 else if w ≤ 10 then 2 else if w ≤ 12 then 3 else if w ≤ 14 then 4 else 5)

/-- A sample as the coder sees it, and back (R380). -/
def BecType.enter (t : BecType) (x : Int) : Nat := (if t.isSigned then x + (2 ^ (t.bits - 1) : Nat) else x).toNat
def BecType.leave (t : BecType) (x : Nat) : Int := if t.isSigned then (x : Int) - (2 ^ (t.bits - 1) : Nat) else x

/-- The least of a list; 0 of the empty list. -/
def minOf (xs : List Nat) : Nat := xs.foldl min (xs.headD 0)

/-- The least w with every value below 2^w. -/
def widthFor (qs : List Nat) : Nat :=
  let m := qs.foldl max 0
  if m = 0 then 0 else Nat.log2 m + 1

/-- Values of `w` bits each, the first at the least significant place. -/
def packNat (w : Nat) : List Nat → Nat
  | [] => 0
  | q :: qs => q % 2 ^ w + 2 ^ w * packNat w qs

/-- Whole atoms a block of `n` samples with width `w` occupies (R383). -/
def BecType.atoms (t : BecType) (n w : Nat) : Nat := ceilDiv (4 + ceilDiv (t.bits + n * w) 8) 32

/-- The atoms of a coded block, zero after its last value (R381, R382). -/
def becEncode (t : BecType) (bound : Nat) (xs : List Int) : Bytes :=
  let e := becBound bound
  let us := xs.map t.enter
  let base := minOf us
  let qs := us.map fun u => (u - base + e) / (2 * e + 1)
  let w := widthFor qs
  let n := xs.length
  [byte (16 + 2 * bound), byte w, byte (n - 1), byte t.code]
    ++ toLe (32 * t.atoms n w - 4) (base + 2 ^ t.bits * packNat w qs)

/-- Reserved bits of a block header (R382). -/
def becReserved (b : Bytes) : Bool :=
  bitOf (byteAt b 0) 0 || fieldAt b 1 5 3 != 0 || fieldAt b 2 6 2 != 0 || fieldAt b 3 3 5 != 0

/-- Whether a block is malformed to a reader of `n` samples of a type under a bound code (R384). Bound code 0, which R382 reserves and R384
does not name, counts as malformed (DESIGN CHOICE, log entry 143). -/
def becMalformed (t : BecType) (bound n : Nat) (b : Bytes) : Bool :=
  fieldAt b 0 4 4 != 1 || becReserved b || fieldAt b 3 0 3 != t.code || fieldAt b 2 0 6 + 1 != n
    || t.bits < fieldAt b 1 0 5 || bound < fieldAt b 0 1 3 || fieldAt b 0 1 3 == 0

/-- Atoms not moved for a coded block of `len` bytes, against the raw block of its `n` samples (R390; DEDUCED, log entry 18). -/
def BecType.saved (t : BecType) (n len : Nat) : Nat := ceilDiv (ceilDiv (n * t.bits) 8) 32 - len / 32

/-- The samples of a block that is not malformed (R381). -/
def becDecode (t : BecType) (n : Nat) (b : Bytes) : List Int :=
  let e := becBound (fieldAt b 0 1 3)
  let w := fieldAt b 1 0 5
  let v := leNat (b.drop 4)
  let base := bitsOf v 0 t.bits
  (List.range n).map fun i => t.leave (min (base + bitsOf v (t.bits + i * w) w * (2 * e + 1)) (2 ^ t.bits - 1))

end Sys2Proof.Machine
end

