-- ==== Sys2Proof/Machine/Frames.lean ====
section
/-! DEFINITION. The life of a frame: the choices fixed at its start, its outcome, its output entry, and the commit of
its slot's shadows (spec/02_tick.md R47 to R57, spec/05_neural_stages.md R138 to R147, R571,
spec/06_outputs_and_analysis.md R168 to R171, spec/11_tiling_and_streaming.md R316). -/

namespace Sys2Proof.Machine

/-! ### Commit of RW-F values (R15, R116, R117) -/

/-- The default front image of R118. -/
def defaultImage : Bytes :=
  [1, 2, 0, 0, 2, 2, 0xAA, 0] ++ toLe 4 0xFFFFF ++ toLe 4 0x400 ++ zeros 4
    ++ toLe 2 0x1000 ++ toLe 2 0x1000 ++ toLe 2 0x1000 ++ zeros 2
    ++ toLe 4 0xE00 ++ toLe 4 0xE00 ++ toLe 4 0xE00 ++ [8, 8, 8, 0] ++ toLe 4 0x94 ++ toLe 4 0xE4E4E4E4 ++ zeros 12
    ++ zeros 192 ++ (List.range 4096).flatMap (fun i => toLe 4 (256 * i)) ++ zeros 16384
    ++ (List.range 4356).flatMap fun _ => toLe 2 0x1000

/-- The image an entry or a slot holds: nothing stands for the default of R118. -/
def imageOf (b : Bytes) : Bytes := if b = [] then defaultImage else b

/-- The image in force of a slot. -/
def State.frontImage (s : State) (k : SlotNo) : Bytes := imageOf s.slots[k].front

/-- demosaic_select of an image (byte 2, R118). -/
def imgDemosaic (img : Bytes) : Nat := fieldAt img 2 0 2

/-- Pending values of one index moved into force; the store of pending values without them. -/
def State.commitIndex (s : State) (i : Nat) : State :=
  let mine := s.od.pendF.filter fun e => e.1 / 256 == i
  let s := { s with od := { s.od with pendF := s.od.pendF.filter fun e => e.1 / 256 != i } }
  s.each mine fun s e => s.setEntry (e.1 / 256) (e.1 % 256) e.2

/-- The shadows of a slot committed (R116, R117). -/
def State.commitSlot (s : State) (k : SlotNo) : State :=
  let s := s.commitIndex (slotIndex k)
  match s.slots[k].frontShadow with
  | none => s
  | some img =>
    let changed := img != s.frontImage k
    let s := s.modSlot k fun sl =>
      { sl with
        front := img
        frontShadow := none
        defectsCounted := sl.defectsCounted && !changed
        commitNew := sl.commitNew || changed }
    if changed then s.bump (slotIndex k) 0x2C else s

/-- A frame begins: the first under a commit that changed a front field is recorded (R117). -/
def State.noteFirstUse (s : State) (k : SlotNo) (n : Nat) : State :=
  if s.slots[k].commitNew then (s.modSlot k fun sl => { sl with commitNew := false }).setNum (slotIndex k) 0x2D n else s

/-! ### Temporal state (R138 to R144) -/

/-- The halves kept for a stage descriptor. -/
def Slot.halvesOf (sl : Slot) (d : Nat) : StateHalves := (sl.halves.find? (·.desc == d)).getD { desc := d }

/-- The slot with the halves of a stage descriptor replaced. -/
def Slot.setHalves (sl : Slot) (h : StateHalves) : Slot :=
  { sl with halves := h :: sl.halves.filter (·.desc != h.desc) }

/-- The header of one half. -/
def StateHalves.half (h : StateHalves) (one : Bool) : StateHeader := if one then h.half1 else h.half0

/-- One half's header replaced. -/
def StateHalves.setHalf (h : StateHalves) (one : Bool) (x : StateHeader) : StateHalves :=
  if one then { h with half1 := x } else { h with half0 := x }

/-- The choice of halves for a frame `f` under a generation (R140). -/
def chooseHalf (h : StateHalves) (gen f gapLimit : Nat) : HalfChoice :=
  let ok (x : StateHeader) : Bool := x.valid && x.generation == gen
  let read : Option Bool :=
    match ok h.half0, ok h.half1 with
    | true, false => some false
    | false, true => some true
    | true, true =>
      if laterFrame h.half0.writerFrame h.half1.writerFrame then some false
      else if laterFrame h.half1.writerFrame h.half0.writerFrame then some true
      else none
    | false, false => none
  match read with
  | some r =>
    let gap := (f + 2 ^ 32 - (h.half r).writerFrame % 2 ^ 32) % 2 ^ 32
    ⟨h.desc, some r, 1 ≤ gap && gap ≤ gapLimit, !r⟩
  | none => ⟨h.desc, none, false, gen % 2 == 1⟩

/-- The recurrent stages of a level: descriptor index and gap limit. -/
def recurrentOf (body : Bytes) (level : Nat) : List (Nat × Nat) :=
  ((levelStages body level).filter fun d => stRecurrent d.2).map fun d => (d.1, stGapLimit d.2)

/-- The choices of a frame for every recurrent stage of its level. -/
def Slot.choices (sl : Slot) (body : Bytes) (level gen f : Nat) : List HalfChoice :=
  (recurrentOf body level).map fun r => chooseHalf (sl.halvesOf r.1) gen f r.2

/-- The generation of a slot's state (0x30ss:34) and its warming frames remaining (0x30ss:33). -/
def State.generation (s : State) (k : SlotNo) : Nat := s.slotNat k 0x34
def State.warmingLeft (s : State) (k : SlotNo) : Nat := s.slotNat k 0x33

/-- Invalidation of a slot's state under the lowest of the reasons that take effect (R142). -/
def State.invalidate (s : State) (k : SlotNo) (reason : Nat) : State :=
  let i := slotIndex k
  let s := ((s.bump i 0x34).setNum i 0x33 2).setNum i 0x35 reason
  ((s.bump i 0x36).modSlot k fun sl => { sl with reasons := [] }).raise 0x3E06 { slot := k }

/-- A reason that takes effect at the slot's next frame start (R142). -/
def State.addReason (s : State) (k : SlotNo) (r : Nat) : State :=
  s.modSlot k fun sl => { sl with reasons := insertAsc r sl.reasons }

/-! ### The level of a frame (R146, R512) -/

/-- Whether every isle that may claim the mosaic net's tiles awaits a weight reload (R512). -/
def State.mosaicReloading (s : State) (k : SlotNo) : Bool :=
  match s.tick.programme with
  | none => false
  | some p =>
    let ms := p.layers.filter fun l => l.slot == k && l.mosaic
    let isles : List IsleNo := allIsles.filter fun (i : IsleNo) => ms.any fun l => l.isleMask.testBit i.val
    !isles.isEmpty && isles.all fun i => !s.isles[i].health.reloads.isEmpty

/-- Whether an isle is fencing. -/
def State.someFencing (s : State) : Bool := allIsles.any fun k => s.isles[k].health.phase == .fencing

/-- The mosaic net is unavailable for a frame of the slot that begins now (R512). -/
def State.mosaicGone (s : State) (k : SlotNo) : Bool :=
  (s.someFencing && s.num 0x2300 6 == 1) || s.mosaicReloading k

/-- The level the slot's next frame runs (R146). -/
def State.nextLevel (s : State) (k : SlotNo) : Nat :=
  if s.slots[k].shed then 2
  else if imgDemosaic s.slots[k].front = 1 ∨ s.mosaicGone k then 1
  else 0

/-! ### Output entries (R170, R171) -/

/-- Line bytes and lines of the image sections of a frame, by section kind 1 to 4; 0 lines where the format is off
(R157, R158). -/
def State.sectionShape (s : State) (k : SlotNo) (w h kind : Nat) : Nat × Nat :=
  let st n := roundUp n 64
  match kind with
  | 1 => match s.slotNat k 0x40 with
    | 1 => (st (4 * w), h) | 2 => (st (4 * ceilDiv w 2), h) | _ => (0, 0)
  | 2 => match s.slotNat k 0x43 with
    | 1 => (st w, h) | 2 => (st (2 * w), h) | _ => (0, 0)
  | 3 => match s.slotNat k 0x43 with
    | 1 => (st (2 * ceilDiv w 2), ceilDiv h 2) | 2 => (st (4 * ceilDiv w 2), ceilDiv h 2) | _ => (0, 0)
  | 4 => match s.slotNat k 0x45 with
    | 1 => (st (2 * w), 3 * h)
    | 2 => if s.slotNat k 0x48 = 0 then (st w, 3 * h) else (st (3 * w), h)
    | _ => (0, 0)
  | _ => (0, 0)

/-- Bytes of a section of a frame of `w` x `h`; 0 when absent (R170; DEDUCED, log entry 9 for the segmentation map's lines). -/
def State.sectionSize (s : State) (k : SlotNo) (w h kind : Nat) : Nat :=
  let an := ((s.slotAnalysis k).map (·.body)).getD []
  if kind = 5 then (if anDetect an then 16 * s.slotNat k 0x4D else 0)
  else if kind = 6 then (if anSegment an then roundUp (anSegWidth an) 64 * anSegHeight an else 0)
  else (s.sectionShape k w h kind).1 * (s.sectionShape k w h kind).2

/-- Offsets of the six sections at successive 4 KiB boundaries, 0 when absent, and the entry's size (R170). -/
def layoutSections (sizes : List Nat) : List Nat × Nat :=
  sizes.foldl (fun (p : List Nat × Nat) n => if n = 0 then (p.1 ++ [0], p.2) else (p.1 ++ [p.2], p.2 + roundUp n 4096))
    ([], 4096)

/-- The size of a slot's output entry (0x30ss:5C). -/
def State.outEntrySize (s : State) (k : SlotNo) : Nat :=
  (layoutSections ((List.range 6).map fun i => s.sectionSize k (s.slotNat k 3) (s.slotNat k 4) (i + 1))).2

/-- Whether a slot has any output or analysis enabled (R170). -/
def State.hasOutput (s : State) (k : SlotNo) : Bool :=
  s.slotNat k 0x40 != 0 || s.slotNat k 0x43 != 0 || s.slotNat k 0x45 != 0 || s.slotNat k 0x49 != 0

/-- The values a frame that begins now takes with it. -/
def State.knobs (s : State) (k : SlotNo) : FrameKnobs :=
  { alpha := s.slotNat k 0x41, score := s.slotNat k 0x4B, iou := s.slotNat k 0x4C, mode := s.slotNat k 0x4E }

/-- Whether the last pixel of a frame's map has been written (R160). -/
def mapDone (an : Bytes) (f : Frame) : Bool := anSegment an && anSegWidth an * anSegHeight an ≤ f.mapPixels

/-- Which sections a done frame's entry holds: bit masks over display, coding, machine vision, detections,
segmentation (R170 byte 3). -/
def State.presentBits (s : State) (k : SlotNo) (f : Frame) : Nat :=
  if f.outcome ≠ some .done ∨ f.status.getLsbD 7 then 0
  else
    let an := f.analysis == .done
    let body := ((s.slotAnalysis k).map (·.body)).getD []
    (if s.slotNat k 0x40 ≠ 0 then 1 else 0) + (if s.slotNat k 0x43 ≠ 0 then 2 else 0)
      + (if s.slotNat k 0x45 ≠ 0 then 4 else 0) + (if an && f.detectDone then 8 else 0)
      + (if an && mapDone body f then 16 else 0)

/-- Sizes of the six sections of a frame as it stands, 0 when absent. -/
def State.presentSizes (s : State) (k : SlotNo) (f : Frame) : List Nat :=
  let present := s.presentBits k f
  [0, 1, 1, 2, 3, 4].zip (List.range 6) |>.map fun p =>
    if present.testBit p.1 then s.sectionSize k f.width f.height (p.2 + 1) else 0

/-- The 64-byte output header of a frame (R170); tensor_exp is 0x30ss:47 whatever the machine-vision format (R158, R170). -/
def State.outHeader (s : State) (k : SlotNo) (f : Frame) : Bytes :=
  let present := s.presentBits k f
  let bit i := present.testBit i
  let an := ((s.slotAnalysis k).map (·.body)).getD []
  [0x10, byte (if f.outcome = some .done then 2 else 3), byte k, byte present] ++ toLe 4 f.number
    ++ toLe 4 f.status.toNat ++ toLe 6 f.outcomeTick ++ toLe 2 f.faultCode ++ toLe 8 f.captureTime
    ++ toLe 2 f.width ++ toLe 2 f.height ++ toLe 2 (if bit 4 then anSegWidth an else 0)
    ++ toLe 2 (if bit 4 then anSegHeight an else 0) ++ toLe 2 (if bit 3 then f.detections.length else 0)
    ++ [byte (s.slotNat k 0x47),
        byte (s.slotNat k 0x40 + 4 * s.slotNat k 0x43 + 16 * s.slotNat k 0x45 + 64 * s.slotNat k 0x44
          + 128 * s.slotNat k 0x42)]
    ++ (layoutSections (s.presentSizes k f)).1.flatMap (toLe 4)

/-- What is to be sent of a frame whose header stands in entry `i` (R172). -/
def State.resultJob (s : State) (k : SlotNo) (f : Frame) (i : Nat) : ResultJob :=
  let sizes := s.presentSizes k f
  let all := (List.range 6).zip ((layoutSections sizes).1.zip sizes)
  ⟨i, f.number, (all.filter fun p => p.2.2 != 0).map fun p => (p.1 + 1, p.2.1, p.2.2)⟩

/-- The ring entries of a slot's output ring; M of them (0x30ss:4F). -/
def State.outRing (s : State) (k : SlotNo) : List OutEntry :=
  let m := s.slotNat k 0x4F
  let r := s.slots[k].outRing
  (r ++ List.replicate (m - r.length) ({} : OutEntry)).take m

/-- The next entry in ring order that is not pinned (R171). -/
def nextUnpinned (r : List OutEntry) (start : Nat) : Option Nat :=
  ((List.range r.length).map fun i => (start + i) % r.length).find? fun i =>
    match r[i]? with
    | some e => e.pins.isEmpty
    | none => false

/-- A list with its item `i` changed. -/
def modAt {α : Type} (xs : List α) (i : Nat) (f : α → α) : List α :=
  (List.range xs.length).zip xs |>.map fun p => if p.1 = i then f p.2 else p.2

/-- The address of an entry of a slot's output ring (R170). -/
def State.outBase (s : State) (k : SlotNo) (i : Nat) : Nat := s.slotNat k 0x50 + i * s.outEntrySize k

/-- The frame's output entry taken, in ring order, with state 1 in its header (R171); `none` when every entry is pinned. -/
def State.takeOut (s : State) (k : SlotNo) (f : Frame) : Option (Nat × State) :=
  match f.outEntry with
  | some i => some (i, s)
  | none =>
    let r := s.outRing k
    match nextUnpinned r s.slots[k].outNext with
    | none => none
    | some i =>
      let r' := modAt r i fun _ => { phase := .writing, frame := f.number }
      let s := s.modSlot k fun sl => { sl with outRing := r', outNext := (i + 1) % r.length }
      let s := (s.ringWrite k (s.outBase k i + 1) [1]).2
      some (i, s.modFrame k f.number fun f => { f with outEntry := some i })

/-- The entry of a frame that reaches outcome `o` with `code`: where every entry is pinned the frame ends failed with 0x3D01 (R171). -/
def State.claimOut (s : State) (k : SlotNo) (f : Frame) (o : FrameOutcome) (code : Nat) : Frame × FrameOutcome × Nat × State :=
  if !s.hasOutput k then (f, o, code, s)
  else match s.takeOut k f with
    | some (i, s) => ({ f with outEntry := some i }, o, code, s)
    | none => if o = .failed then (f, o, code, s) else (f, .failed, 0x3D01, s.raise 0x3D01 { slot := k, detail := f.number })

/-- The frame's header written into its entry, complete or void (R171). -/
def State.writeHeader (s : State) (k : SlotNo) (f : Frame) : State :=
  match s.takeOut k f with
  | none => s
  | some (i, s) =>
    let phase := if f.outcome == some .done then OutPhase.complete else .void
    let s := s.modSlot k fun sl =>
      { sl with
        outRing := modAt sl.outRing i fun e => { e with phase := phase, frame := f.number }
        finished := sl.finished.map fun g => if g.number = f.number then { g with outEntry := some i } else g }
    let s := s.modSlot k fun sl =>
      { sl with result := { sl.result with jobs := (sl.result.jobs.filter (·.entry != i)) ++ [s.resultJob k f i] } }
    (s.ringWrite k (s.outBase k i) (s.outHeader k f)).2

/-! ### The frame ring's level (R519) -/

/-- Entries filling or closed. -/
def ringLevel (es : List RingEntry) : Nat := es.countP fun e => e.phase == .filling || e.phase == .closed

/-- The watermark of a slot's ring brought up to date after an entry changed state (R519). -/
def State.noteRing (s : State) (k : SlotNo) : State :=
  let lv := ringLevel s.slots[k].entries
  let m := s.slots[k].mark
  let thr := s.nat 0x2600 0x10
  let crossed := thr != 0 && m.level < thr && thr ≤ lv
  let s := s.modSlot k fun sl =>
    { sl with
      mark := { level := lv, highWater := max m.highWater lv, notice := m.notice || crossed,
                crossings := if crossed then min 65535 (m.crossings + 1) else m.crossings } }
  if crossed && !m.notice then s.raise 0x2014 { slot := k } else s

/-! ### The entries of a frame ring in external memory (R83, R85, R388) -/

/-- Bits per pixel of a packing code (R76). -/
def packingBits (code : Nat) : Nat :=
  if code = 1 then 8 else if code = 2 then 10 else if code = 3 then 12 else if code = 4 then 14 else 16

/-- Line stride of a plane: raw, or in slots of coded blocks (R83, R388). -/
def RingEntry.stride (e : RingEntry) : Nat :=
  if e.codec = 0 then roundUp (ceilDiv (e.width * packingBits e.packing) 8) 64
  else roundUp (ceilDiv e.width 64 * (becOfWidth e.sampleWidth).slot) 64

/-- Offset of exposure plane `p` in an entry, and the entry's size (R83). -/
def RingEntry.planeAt (e : RingEntry) (p : Nat) : Nat :=
  roundUp (64 + 16 * e.height * e.planes) 4096 + p * roundUp (e.height * e.stride) 4096
def RingEntry.size (e : RingEntry) : Nat := e.planeAt e.planes

/-- An entry of the slot's ring with the settings in force, its place not yet given. -/
def State.freshEntry (s : State) (k : SlotNo) : RingEntry :=
  { width := s.slotNat k 3
    height := s.slotNat k 4
    packing := s.slotNat k 5
    cfaPeriod := s.slotNat k 8
    planes := s.slotNat k 7
    sampleWidth := s.slotNat k 6
    codec := s.slotNat k 0x1C }

/-- The geometry of an entry. -/
def RingEntry.geometry (e : RingEntry) : Geometry := ⟨e.width, e.height, e.packing, e.sampleWidth, e.planes, e.cfaPeriod⟩

/-- The geometry of a slot in force (R64). -/
def State.geometry (s : State) (k : SlotNo) : Geometry :=
  ⟨s.slotNat k 3, s.slotNat k 4, s.slotNat k 5, s.slotNat k 6, s.slotNat k 7, s.slotNat k 8⟩

/-- The address of entry `i` of a slot's ring (R83). -/
def State.ringAt (s : State) (k : SlotNo) (i : Nat) : Nat := s.slotNat k 0x0A + i * (s.freshEntry k).size

/-- The code of an entry's state (R85). -/
def EntryPhase.code : EntryPhase → Nat
  | .free => 0 | .filling => 1 | .closed => 2 | .processing => 3

/-- The 64-byte header of a ring entry (R85). -/
def RingEntry.header (e : RingEntry) (k : SlotNo) : Bytes :=
  [1, byte k, byte e.phase.code, byte e.closeReason] ++ toLe 4 e.frame ++ toLe 4 e.status.toNat ++ toLe 2 e.srcWidth
    ++ toLe 2 e.srcHeight ++ toLe 2 e.width ++ toLe 2 e.height
    ++ [byte e.packing, byte e.exposures, byte e.cfaPeriod, 0] ++ toLe 8 e.firstSeq ++ toLe 8 e.lastSeq
    ++ toLe 8 e.captureTime ++ toLe 6 e.closeTick ++ zeros 2 ++ toLe 4 e.datagrams ++ toLe 4 e.cellsRepaired

/-- The state with a ring entry of a slot changed: its header is written where the entry lies, and the watermark is brought up to
date. -/
def State.modEntry (s : State) (k : SlotNo) (i : Nat) (f : RingEntry → RingEntry) : State :=
  let s := (s.modSlot k fun sl => { sl with entries := modAt sl.entries i f }).noteRing k
  match s.slots[k].entries[i]? with
  | some e => if k = 0 then s else (s.ringWrite k e.base (e.header k)).2
  | none => s

/-- An entry that is freed: its header keeps the other fields (R85). -/
def RingEntry.freed (e : RingEntry) : RingEntry := { e with phase := .free, cells := [] }

/-! ### Outcomes -/

/-- Bits [17:16] of the status word for an outcome (R169). -/
def withOutcome (w : Word32) (o : FrameOutcome) : Word32 :=
  (w &&& 0xFFFCFFFF#32) ||| (match o with | .done => 0#32 | .late => 0x10000#32 | .failed => 0x20000#32)

/-- The 64-byte state header of a half (R139). -/
def StateHeader.bytes (h : StateHeader) (k : SlotNo) (desc : Nat) : Bytes :=
  [0x10, if h.valid then 1 else 0, byte k, byte desc] ++ toLe 4 h.generation ++ toLe 4 h.writerFrame ++ toLe 6 h.writerTick
    ++ zeros 46

/-- A half's header kept, and written where the plan places it (R138). -/
def State.setHalf (s : State) (k : SlotNo) (body : Bytes) (desc : Nat) (one : Bool) (h : StateHeader) : State :=
  let s := s.modSlot k fun sl => sl.setHalves ((sl.halvesOf desc).setHalf one h)
  let d := stageDesc body desc
  s.extWrite (s.slotOwner k) (stStateBase d + if one then stStateHalf d else 0) (h.bytes k desc)

/-- The plan's bytes of a frame. -/
def State.bodyOf (s : State) (f : Frame) : Bytes := ((s.planOf f.plan).map (·.body)).getD []

/-- Whether a frame in flight began before an invalidation: under an earlier generation, or before a sync reset that its slot's next
frame start carries out (R142 reason 2, R144). -/
def State.staleFrame (s : State) (k : SlotNo) (f : Frame) : Bool :=
  f.generation != s.generation k || s.slots[k].reasons.contains 2

/-- The state commit of a done frame (R141, R143, R144). -/
def State.commitState (s : State) (k : SlotNo) (f : Frame) : State :=
  if f.halves = [] ∨ f.status.getLsbD 7 then s
  else
    let hdr : StateHeader :=
      { valid := true, generation := f.generation, writerFrame := f.number, writerTick := s.tick.number }
    let s := s.each f.halves fun s h => s.setHalf k (s.bodyOf f) h.desc h.write hdr
    if !s.staleFrame k f then s
    else (s.bump (slotIndex k) 0x38).raise 0x3E09 { slot := k, detail := f.number }

/-- Warming frames remaining after a done frame (R143). -/
def State.countWarming (s : State) (k : SlotNo) (f : Frame) : State :=
  if f.warming ∧ !s.staleFrame k f ∧ ¬ f.status.getLsbD 7 then
    s.setNum (slotIndex k) 0x33 (s.warmingLeft k - 1 : Nat)
  else s

/-- The counts of an outcome: 0x30ss:55, 57, 58, 5A, F1, F2 and 0x2100:0E. -/
def State.countOutcome (s : State) (k : SlotNo) (f : Frame) : State :=
  let i := slotIndex k
  let s := (s.setNum i 0x55 f.status.toNat).setNum i 0xF2 f.number
  match f.outcome with
  | some .done => (s.bump i 0xF1).setNum i 0x5A (if f.detectDone then f.detections.length else 0)
  | some .late => (s.bump i 0x57).bump 0x2100 0x0E
  | some .failed => s.bump i 0x58
  | none => s

/-- What a frame's outcome does to the slot's own records: it leaves the frames in flight, its pairs are judged, its
ring entry is freed, and its analysis no longer pins the entry it read. -/
def State.retireFrame (s : State) (k : SlotNo) (f : Frame) : State :=
  let s := s.modSlot k fun sl =>
    { (sl.notePairs f) with
      frames := sl.frames.filter (·.number != f.number)
      finished := (f :: sl.finished).take 2 }
  let s := if f.analysis = .running ∨ f.analysis = .done then
      s.each allSlots fun s j => s.modSlot j fun sl =>
        { sl with outRing := sl.outRing.map fun e => { e with pins := e.pins.filter (· != (k.val, f.number)) } }
    else s
  match f.entry with
  | some i => s.modEntry k i (·.freed)
  | none => s

/-- The 32-byte head of a DATA payload (R416): stripe, segment, flags (0 last segment, 1 last stripe, 2 abandon), offset. -/
def State.dataHead (s : State) (k : SlotNo) (f : Frame) (stripe segment flags offset : Nat) : Bytes :=
  toBe 4 f.number ++ toBe 6 f.tick ++ toBe 2 stripe ++ toBe 2 segment ++ [byte (s.slotNat k 0x74), byte flags]
    ++ toBe 4 offset ++ toBe 4 (f.status &&& 0x001FFFFF#32).toNat ++ toBe 8 f.captureTime

/-- The sending flow of a node and channel. -/
def State.flow (s : State) (dest chan : Nat) : TxFlow :=
  (s.sys.flows.find? fun f => f.dest == dest && f.chan == chan).getD { dest := dest, chan := chan }

/-- The state with a sending flow replaced. -/
def State.setFlow (s : State) (f : TxFlow) : State :=
  s.modSys fun y => { y with flows := f :: y.flows.filter fun g => !(g.dest == f.dest && g.chan == f.chan) }

/-- A frame of a reliable channel waits to be sent (R414). -/
def State.enqueue (s : State) (dest chan : Nat) (u : Unsent) : State :=
  let f := s.flow dest chan
  s.setFlow { f with waiting := f.waiting ++ [u] }

/-- The upstream part of a split stream tells its peer that a frame ended late or failed (R416). -/
def State.abandonCut (s : State) (k : SlotNo) (f : Frame) : State :=
  if s.slotNat k 0x70 = 1 ∧ f.outcome ≠ some .done then
    s.enqueue (s.slotNat k 0x71) (s.slotNat k 0x72) ⟨1, s.dataHead k f 0 0 4 0⟩
  else s

/-- Whether an older frame of the slot has no outcome yet. -/
def Slot.olderRuns (sl : Slot) (n : Nat) : Bool := sl.frames.any fun g => laterFrame n g.number

/-- The reports of ended frames that no older frame holds back, in increasing frame number (R34). -/
def State.flushReports (s : State) (k : SlotNo) : State :=
  let sl := s.slots[k]
  let ready := ascending (fun (f g : Frame) => !laterFrame f.number g.number) (sl.reports.filter fun f => !sl.olderRuns f.number)
  let s := s.modSlot k fun sl => { sl with reports := sl.reports.filter fun f => sl.olderRuns f.number }
  s.each ready fun s f => s.writeHeader k f

/-- A frame with an outcome is reported in its place: its header is written, and its results are to be sent, once no older frame of the
slot is without an outcome (R34, R171). -/
def State.reportFrame (s : State) (k : SlotNo) (f : Frame) : State :=
  if s.hasOutput k then (s.modSlot k fun sl => { sl with reports := sl.reports ++ [f] }).flushReports k else s.flushReports k

/-- A frame in flight reaches an outcome: its work stops and its counters close unless it is done, its state commits,
its status is final, its header is written, its counts rise (R54, R55, R141, R171, R207). -/
def State.endFrame (s : State) (k : SlotNo) (n : Nat) (o : FrameOutcome) (code : Nat) : State :=
  match s.slots[k].frameOf n with
  | none => s
  | some f =>
    let s := if o = .done then s else
      ((s.frameCounters k n).foldl State.closeCounter s).stopWhere fun _ x => servesFrame x.serves k n
    let s := s.dropUnstarted fun x => servesFrame x.serves k n
    let (f, o, code, s) := s.claimOut k f o code
    let f := { f with
      outcome := some o
      status := withOutcome f.status o
      faultCode := code
      outcomeTick := s.tick.number }
    let s := s.modFrame k n fun _ => f
    let s := if o = .done then (s.commitState k f).countWarming k f else s
    let s := match f.borrow with
      | some (b, _) => s.setNum 0x2100 0x0F (max (s.num 0x2100 0x0F) ((s.now - b : Nat) : Int))
      | none => s
    (((s.countOutcome k f).retireFrame k f).reportFrame k f).abandonCut k f

/-- A frame of a slot's ring that ends without being processed: its header is written, it is counted, its entry is free. -/
def State.endEntry (s : State) (k : SlotNo) (i : Nat) (o : FrameOutcome) (code : Nat) (overtaken : Bool) : State :=
  match s.slots[k].entries[i]? with
  | none => s
  | some e =>
    let f : Frame :=
      { number := e.frame
        tick := s.tick.number
        width := e.width
        height := e.height
        captureTime := e.captureTime
        plan := s.slotNat k 0x30 }
    let (f, o, code, s) := s.claimOut k f o code
    let f : Frame :=
      { f with
        status := withOutcome (setBitIf e.status 21 overtaken) o
        outcome := some o
        faultCode := code
        outcomeTick := s.tick.number }
    let s := if overtaken then s.raise 0x100B { slot := k, detail := e.frame } else s
    let s := s.countOutcome k f
    let s := s.modSlot k fun sl => { (sl.notePairs f) with finished := (f :: sl.finished).take 2 }
    (s.modEntry k i (·.freed)).reportFrame k f

/-- A closed frame that ends late, overtaken or not (R48, R57, R90); a zero-size frame cannot be late (R35). -/
def State.lateEntry (s : State) (k : SlotNo) (i : Nat) (overtaken : Bool) : State :=
  if (s.slots[k].entries.getD i {}).status.getLsbD 7 then s.endEntry k i .done 0 false
  else s.endEntry k i .late 0 overtaken

/-- The frames of a slot's ring that have not started, closed or filling, oldest first. -/
def Slot.waitingEntries (sl : Slot) : List Nat :=
  ascending (fun i j => !laterFrame (sl.entries.getD i {}).frame (sl.entries.getD j {}).frame)
    ((List.range sl.entries.length).filter fun i =>
      (sl.entries.getD i {}).phase == .closed || (sl.entries.getD i {}).phase == .filling)

/-- The slot marked shape-mismatch with a code (R126, R316). -/
def State.markShape (s : State) (k : SlotNo) (code : Nat) : State := s.modSlot k fun sl => { sl with shape := some code }

/-- A frame fails under R316: the slot is marked and the frame carries the flag. -/
def State.failShape (s : State) (k : SlotNo) (n code : Nat) : State :=
  ((s.markShape k code).modFrame k n fun f => { f with status := setBit f.status 22 }).endFrame k n .failed code

/-! ### Run-time grids (R316) -/

/-- The grid of a layer for a frame: the planned grid when the frame's geometry is the plan's; none where the frame is
zero-size; else what the layer's programme needs. -/
def runtimeGrid (l : LayerPlan) (img : PlanImage) (f : Frame) : Nat × Nat :=
  if f.status.getLsbD 7 then (0, 0)
  else if f.width = leAt img.body 4 2 ∧ f.height = leAt img.body 6 2 then (l.cols, l.rows)
  else Config.runtimeGrid img.id l.step l.layer f.width f.height (f.cut.map fun c => (c.stripe, c.bytes.length))

/-- The counter a layer of a frame gets (R316). -/
def State.layerCounter (s : State) (k : SlotNo) (f : Frame) (img : PlanImage) (l : LayerPlan) : TileCounter :=
  let g := runtimeGrid l img f
  { counterOfLayer l (s.layerMask l) g.1 g.2 with serves := some (k, f.number), resized := g != (l.cols, l.rows) }

/-- One layer's counter written with its run-time grid, and opened or armed on its predecessor; the frame fails when
the grid exceeds the limit (R299, R316). -/
def State.openLayer (s : State) (k : SlotNo) (n : Nat) (img : PlanImage) (l : LayerPlan) : State :=
  match s.slots[k].frameOf n with
  | none => s
  | some f =>
    let t := s.layerCounter k f img l
    match l.predecessor with
    | some _ => s.modCounter l.counter fun _ => { t with phase := .armed }
    | none =>
      match t.opened with
      | (t', false) => s.modCounter l.counter fun _ => t'
      | (t', true) => ((s.modCounter l.counter fun _ => t').raise 0x3203 { slot := k, detail := n }).failShape k n 0x3203

/-- The stages' layers of a frame opened at its start. -/
def State.openGrids (s : State) (k : SlotNo) (n : Nat) : State :=
  match s.tick.programme, s.slotPlan k with
  | some p, some img => s.each (p.layers.filter (·.slot == k)) fun s l => s.openLayer k n img l
  | _, _ => s

/-- A counter idle again with the grid, limit, owner, isle mask, edge masks and order it had (R277 step 2). -/
def TileCounter.renewed (t : TileCounter) : TileCounter :=
  { t with next := 0, done := 0, phase := .idle, handed := [], requeued := [], claims := [] }

/-- The counters of a step of a frame renewed for its re-run (R277): closed, reset, written again as they were, armed or opened. -/
def State.renewStep (s : State) (k : SlotNo) (n step : Nat) : State :=
  match s.tick.programme with
  | some p =>
    s.each (p.layers.filter fun l =>
        l.slot == k && l.step == step && (s.counters[l.counter]).serves == some (k, n)) fun s l =>
      let s := s.closeCounter l.counter
      s.modCounter l.counter fun u =>
        let t := u.renewed
        match l.predecessor with
        | some q => if s.counters[q].complete then t.opened.1 else { t with phase := .armed }
        | none => t.opened.1
  | none => s

/-- A step of a frame placed at the head of the programme to run again from its first op (R276 steps 2 and 3); what its post-processors
took from the first run is taken again. -/
def State.rerunStep (s : State) (k : SlotNo) (n step : Nat) : State :=
  let s := s.stopWhere fun _ x => servesStep x.serves k n step
  (s.renewStep k n step).modFrame k n fun f =>
    let f := { f with rerunPending := insertAsc step f.rerunPending }
    if f.postStep = some step then
      { f with cands := [], detections := [], detectDone := false, mapPixels := 0, mapOps := [] }
    else f

/-! ### Frame start -/

/-- Whether a slot's plan in force fits a geometry (R126). -/
def planFits (img : PlanImage) (w h per : Nat) : Bool :=
  leAt img.body 4 2 == w && leAt img.body 6 2 == h && byteAt img.body 8 == per

/-- The mark of R126 and R316 as it stands when a frame begins: that of R316 is cleared under a replacement plan, that of R126 under a
plan that matches the geometry. -/
def State.settleShape (s : State) (k : SlotNo) : State :=
  match s.slots[k].shape, s.slotPlan k with
  | some c, some img =>
    let fits := planFits img (s.slotNat k 3) (s.slotNat k 4) (s.slotNat k 8)
    if (if c = 0x3E05 then fits else s.slots[k].planChanged) then s.modSlot k fun sl => { sl with shape := none } else s
  | _, _ => s

/-- What the level of a frame that runs brings: it is compared with the last one (R110, R146, R147). -/
def State.fixLevel (s : State) (k : SlotNo) (n lv : Nat) : State :=
  let i := slotIndex k
  let gone := lv != 0 && s.mosaicGone k && imgDemosaic s.slots[k].front != 1
  let before := s.slots[k].fellBack
  let fell := if lv = 0 then false else before || gone
  let s := if before != fell then s.raise 0x2013 { slot := k } else s
  let changed : Bool := s.slots[k].lastLevel.any fun (l : Nat) => l != lv
  let s := s.modSlot k fun sl => { sl with lastLevel := some lv, fellBack := fell }
  let s := if changed then ((s.bump i 0x3E).raise 0x3E08 { slot := k, detail := n }).addReason k 5 else s
  let s := if lv = 0 then s else s.bump i 0x2B
  s.setNum i 0x32 lv

/-- The invalidation that takes effect at this frame's start, if any, under the lowest of its reasons (R142). -/
def State.settleState (s : State) (k : SlotNo) (body : Bytes) (lv n : Nat) : State :=
  let lost := s.warmingLeft k == 0 && (s.slots[k].choices body lv (s.generation k) n).any fun h => !h.usable
  match if lost then insertAsc 6 s.slots[k].reasons else s.slots[k].reasons with
  | r :: _ => s.invalidate k r
  | [] => s

/-- Whether an isle has not returned from a fence (R517). -/
def State.fencedOff (s : State) (k : IsleNo) : Bool :=
  s.isles[k].health.phase == .fenced || s.isles[k].health.phase == .testing

/-- Whether argmax is unavailable to a slot: its plan ends in argmax, and neither isle 0 nor isle 8 has returned from its fence (R168). -/
def State.argmaxGone (s : State) (k : SlotNo) : Bool :=
  match s.slotAnalysis k with
  | some an => anSegment an.body && s.fencedOff 0 && s.fencedOff 8
  | none => false

/-- Argmax looked at when a frame begins; 0x3D04 at the first frame without it (R168). -/
def State.settleArgmax (s : State) (k : SlotNo) (n : Nat) : State :=
  let gone := s.argmaxGone k
  let first := gone && !s.slots[k].argmaxGone
  let s := s.modSlot k fun sl => { sl with argmaxGone := gone }
  let s := if gone then s.modFrame k n fun f => { f with status := setBit f.status 23 } else s
  if first then s.raise 0x3D04 { slot := k, detail := n } else s

/-- Argmax looked at when the second of the two isles is fenced: a frame in flight whose map is not complete goes without it (R168). -/
def State.loseArgmax (s : State) (k : SlotNo) : State :=
  let an := ((s.slotAnalysis k).map (·.body)).getD []
  s.each (s.slots[k].frames.filter fun f => s.argmaxGone k && !f.unopened && !mapDone an f && f.status.getLsbD 23 == false) fun s f =>
    s.settleArgmax k f.number

/-- The headers of the write halves of a frame that begins, marked not valid (R141). -/
def State.openHalves (s : State) (k : SlotNo) (body : Bytes) (hs : List HalfChoice) : State :=
  s.each hs fun s h =>
    s.setHalf k body h.desc h.write { (s.slots[k].halvesOf h.desc).half h.write with valid := false }

/-- A frame with a plan begins to run: level, state, sets and grids are fixed (R140, R143, R146, R316, R343). -/
def State.runFrame (s : State) (k : SlotNo) (f : Frame) (img : PlanImage) : State :=
  let n := f.number
  let lv := f.level
  let s := ((s.adaptResets k).fixLevel k n lv).settleState k img.body lv n
  let gen := s.generation k
  let warming := s.warmingLeft k != 0
  let hs := s.slots[k].choices img.body lv gen n
  let flagged := warming && !hs.isEmpty
  let s := if flagged then s.bump (slotIndex k) 0x37 else s
  let st := setBitIf (setBitIf (setBitIf f.status 18 flagged) 19 (1 ≤ lv)) 20 (lv == 2)
  let f := { f with
    generation := gen
    warming := warming
    status := st
    halves := hs
    sets := s.slots[k].adapt.map fun a =>
      { desc := a.desc, set := a.set, program := adaptProgram img a.desc a.set, generation := a.generation, steps := a.readHeader.elim 0 (·.stepCount) }
    stages := (levelList img.body lv).map fun _ => {}
    plan := img.id }
  let s := s.modSlot k fun sl => { sl with frames := sl.frames ++ [f], planChanged := false }
  let s := (s.openHalves k img.body hs).settleArgmax k n
  s.openGrids k n

/-- A frame of a slot starts, at the level fixed for it: without a plan it fails at its start (R571); on a slot marked shape-mismatch it
fails with the mark's code (R126, R316); a zero-size frame is done at once, its counters opened empty (R35, R255); any other runs.
R35 calls every zero-size frame done, R126, R316 and R571 fail every frame: a zero-size frame of a slot without a plan or with a mark
fails (DESIGN CHOICE, log entry 127). -/
def State.startFrame (s : State) (k : SlotNo) (f : Frame) : State :=
  let s := s.settleShape k
  let put (s : State) (f : Frame) : State := s.modSlot k fun sl => { sl with frames := sl.frames ++ [f] }
  match s.slotPlan k with
  | none =>
    let s := if s.slots[k].planNone then s
      else (s.modSlot k fun sl => { sl with planNone := true }).raise 0x3E0A { slot := k, detail := f.number }
    (put s f).endFrame k f.number .failed 0x3E0A
  | some img =>
    let s := s.modSlot k fun sl => { sl with planNone := false }
    match s.slots[k].shape with
    | some c =>
      let s := match s.slots[k].reasons with
        | r :: _ => s.invalidate k r
        | [] => s
      (put s { f with status := setBit f.status 22 }).endFrame k f.number .failed c
    | none =>
      if f.status.getLsbD 7 then ((put s { f with plan := img.id }).openGrids k f.number).endFrame k f.number .done 0
      else s.runFrame k f img

/-! ### Taking a frame from the ring (R47, R48) -/

/-- The newest closed entry that belongs to the tick that ended at `cutoff`, and the older closed ones, oldest first (R34, R48). -/
def takeable (es : List RingEntry) (cutoff : Nat) : Option Nat × List Nat :=
  let closed := (List.range es.length).filter fun i =>
    match es[i]? with
    | some e => e.phase == .closed && e.closeAt ≤ cutoff
    | none => false
  let num i := (es.getD i {}).frame
  let newest := closed.foldl (fun (b : Option Nat) i =>
    match b with
    | none => some i
    | some j => if laterFrame (num i) (num j) then some i else some j) none
  (newest, ascending (fun i j => !laterFrame (num i) (num j)) (closed.filter fun i => some i != newest))

/-- A memory-path slot takes its frame at a boundary or when its borrowing frame ends: older frames are overtaken, the
slot commits, the newest frame begins (R48, R54, R116). -/
def State.takeFrame (s : State) (k : SlotNo) (cutoff : Nat) : State :=
  let t := takeable s.slots[k].entries cutoff
  let s := s.each t.2 fun s i => s.lateEntry k i true
  match t.1 with
  | none => s
  | some i =>
    let e := s.slots[k].entries.getD i {}
    let s := (s.commitSlot k).noteFirstUse k e.frame
    let s := s.modEntry k i fun e => { e with phase := .processing }
    let s := if e.restart then s.addReason k 9 else s
    s.startFrame k
      { number := e.frame
        level := s.nextLevel k
        front := s.slots[k].front
        knobs := s.knobs k
        tick := s.tick.number
        width := e.width
        height := e.height
        status := e.status
        captureTime := e.captureTime
        entry := some i
        geo := e.geometry }

/-- Whether a slot takes frames: in service, its owner active, ingest enabled or the downstream part of a split stream (R468,
R529, R571). -/
def State.takesFrames (s : State) (k : SlotNo) : Bool :=
  s.nat 0x2000 8 == 1 && (s.slotNat k 1 == 1 || s.slotNat k 0x70 == 2) && s.owners[s.slotOwner k].phase == .active

/-! ### The downstream part of a split stream (R416, R417) -/

/-- The bytes that `n` coded blocks at most spell, block by block (R381, R383). -/
def becBytes (type : Nat) (t : BecType) : Nat → Bytes → Bytes
  | 0, _ => []
  | n + 1, b =>
    if b = [] then []
    else
      let m := fieldAt b 2 0 6 + 1
      let size := 32 * t.atoms m (fieldAt b 1 0 5)
      (becDecode t m (b.take size)).flatMap (fun v => toLe (tensorBytes type) (unsigned (8 * tensorBytes type) v))
        ++ becBytes type t n (b.drop size)

/-- The sample type the coded blocks of a tensor use. -/
def tensorBec (type : Nat) : BecType := becType (if type = 0 then 5 else if type = 1 then 6 else 1)

/-- A DATA payload noted in its frame; `d` is the descriptor of the first stage of the frame's level. Its stripe has come whole with its last
segment and all before it, and stands in the first stage's input. -/
def Frame.takeSegment (f : Frame) (body d b : Bytes) : Frame :=
  let stripe := beAt b 10 2
  let type := stInType d
  let data := b.drop 32
  let bytes := if fieldAt b 14 0 3 = 0 then data else becBytes type (tensorBec type) data.length data
  let cut := ⟨stripe, beAt b 12 2, bitOf (byteAt b 15) 0, bytes⟩ :: f.cut
  let mine := ascending (fun (x y : CutSegment) => x.segment ≤ y.segment) (cut.filter (·.stripe == stripe))
  let whole := mine.any fun c => c.last && (List.range (c.segment + 1)).all fun g => mine.any (·.segment == g)
  let f := { f with cut := cut, status := f.status ||| (BitVec.ofNat 32 (beAt b 20 4) &&& 0x001CFFFF#32) }
  if whole && !f.frontDone.contains stripe then
    { f with
      frontDone := insertAsc stripe f.frontDone
      frontHeld := f.frontHeld ++
        [{ stripe := stripe
           type := type
           channels := stInChannels d
           lines := min (stripeHeight body) (f.height - stripeHeight body * stripe)
           width := f.width
           bytes := mine.flatMap (·.bytes) }] }
  else f

/-- The first stage of the level a slot's frame runs. -/
def State.firstStage (s : State) (k : SlotNo) (level : Nat) : Bytes × Bytes :=
  let body := ((s.slotPlan k).map (·.body)).getD []
  (body, ((levelStages body level).headD (0, [])).2)

/-- Whether a DATA payload names the tick before the running one, whose borrow deadline has not passed: its frame begins as a borrowing
frame (R54, R417). -/
def State.cutBorrows (s : State) (b : Bytes) : Bool :=
  (beAt b 4 6 + 1) % 2 ^ 48 == s.tick.number && s.now ≤ s.deadline s.tick.boundary

/-- Whether a DATA payload names the running tick, or one that may still borrow. -/
def State.cutInTime (s : State) (b : Bytes) : Bool := beAt b 4 6 == s.tick.number || s.cutBorrows b

/-- The downstream frame of a DATA payload starts, in the tick it names: its status is the upstream's (R417). In a tick that starts no
frame work it ends late at once, unless it borrows from one that did (R57). -/
def State.beginCut (s : State) (k : SlotNo) (b : Bytes) : State :=
  let n := beAt b 0 4
  let lv := s.nextLevel k
  let p := s.firstStage k lv
  let f : Frame :=
    { number := n
      level := lv
      front := s.slots[k].front
      knobs := s.knobs k
      tick := beAt b 4 6
      borrow := if s.cutBorrows b then some (s.tick.boundary, s.deadline s.tick.boundary) else none
      width := s.slotNat k 3
      height := s.slotNat k 4
      status := BitVec.ofNat 32 (beAt b 20 4) &&& 0x001CFFFF#32
      captureTime := beAt b 24 8
      geo := s.geometry k }
  if (if s.cutBorrows b then 18 else 17) ≤ s.tick.coasted then
    (s.modSlot k fun sl => { sl with frames := sl.frames ++ [f] }).endFrame k n .late 0
  else (s.noteFirstUse k n).startFrame k (if bitOf (byteAt b 15) 2 then f else f.takeSegment p.1 p.2 b)

/-- A further DATA payload of a downstream frame in flight. -/
def State.takeSegment (s : State) (k : SlotNo) (b : Bytes) : State :=
  s.modFrame k (beAt b 0 4) fun f =>
    let p := s.firstStage k f.level
    f.takeSegment p.1 p.2 b

/-- The outcome and fault code a DATA payload with abandon set brings: the upstream outcome, its fault code not told. -/
def State.abandonOutcome (s : State) (b : Bytes) : FrameOutcome × Nat × State :=
  if beAt b 20 4 / 65536 % 4 = 1 then (.late, 0, s)
  else
    let (d, s) := s.draw
    (.failed, unsigned 16 (Config.unstated d), s)

/-- The downstream frame that waited for a borrowing frame to end starts, and takes what has come of it (R54). -/
def State.startWaiting (s : State) (k : SlotNo) : State :=
  match s.slots[k].cutWait with
  | [] => s
  | b :: bs =>
    let s := (s.modSlot k fun sl => { sl with cutWait := [] }).beginCut k b
    s.each (b :: bs) fun s c =>
      if (s.slots[k].frameOf (beAt c 0 4)).isNone then s
      else if bitOf (byteAt c 15) 2 then
        match s.abandonOutcome c with
        | (o, code, s) => s.endFrame k (beAt c 0 4) o code
      else if c = b then s
      else s.takeSegment k c

/-- What follows the outcome of a borrowing frame: the slot commits its shadows and starts its next frame, in the same reference cycle
(R54), unless the tick starts no frame work (R57). Slot 0 commits when CAM_FV rises (R56, R116). -/
def State.afterBorrow (s : State) (k : SlotNo) : State :=
  if k = 0 ∨ 17 ≤ s.tick.coasted then s
  else
    let s := s.commitSlot k
    if s.slotNat k 0x70 = 2 then s.startWaiting k
    else if s.takesFrames k ∧ s.slots[k].frames.isEmpty then s.takeFrame k s.tick.boundary
    else s

/-- A frame reaches an outcome; when it was borrowing, the slot goes on (R54). -/
def State.finishFrame (s : State) (k : SlotNo) (n : Nat) (o : FrameOutcome) (code : Nat) : State :=
  match s.slots[k].frameOf n with
  | none => s
  | some f =>
    let s := s.endFrame k n o code
    match f.borrow with
    | some _ => s.afterBorrow k
    | none => s

/-- A fault of the work a context or channel does: the frame it serves ends failed (R207, R332), an adaptation step is
abandoned under reason 3 (R361). -/
def State.failServed (s : State) (v : Serves) (code : Nat) : State :=
  match v with
  | .nothing => s
  | .frame k n _ => s.finishFrame k n .failed code
  | .adapt k d => s.abandonStep k d 3

/-- What a record about work of isle `k` names: slot, isle and frame number. -/
def concernOf (v : Serves) (k : IsleNo) : Concern :=
  match v with
  | .frame n f _ => { slot := n, isle := k, detail := f }
  | .adapt n _ => { slot := n, isle := k }
  | .nothing => { isle := k }

/-- What a record about a context's work names. -/
def State.workConcern (s : State) (k : IsleNo) (c : CtxNo) : Concern := concernOf (s.ctx k c).serves k

/-- A context becomes faulted by an op: its first code and op_id are recorded, it issues nothing further and sends nothing more, and the
frame the op served ends failed (R184, R207). -/
def State.haltOp (s : State) (k : IsleNo) (c : CtxNo) (code : Nat) (v : Serves) (op : Nat) : State :=
  let s := s.modCtx k c fun x =>
    { x with
      phase := .faulted
      cause := .none
      enable := false
      stopping := false
      suspended := false
      unsent := []
      due := []
      sending := false
      faultCode := if x.faultCode = 0 then code else x.faultCode
      faultOp := if x.faultCode = 0 then op else x.faultOp }
  (s.withdraw k c).failServed v code

/-- A context becomes faulted by its head op. -/
def State.haltCtx (s : State) (k : IsleNo) (c : CtxNo) (code : Nat) : State :=
  s.haltOp k c code (s.ctx k c).serves (opId (((s.ctx k c).head.map (·.bytes)).getD []))

/-- The codes of R315 that an op or a transfer can meet. -/
def overrunCodes : List Nat := [0x3105, 0x3107, 0x3108, 0x4007, 0x5011]

/-- Whether some layer of a step of a frame runs a grid other than its planned one. -/
def State.stepResized (s : State) (k : SlotNo) (n step : Nat) : Bool :=
  match s.tick.programme with
  | none => false
  | some p =>
    p.layers.any fun l => l.slot == k && l.step == step && (s.counters[l.counter]).serves == some (k, n)
      && (s.counters[l.counter]).resized

/-- A fault of R315 in a layer whose run-time grid differs from its planned one: the slot is marked and the frame carries the flag
(R316). The layer of an op is that of the block it stands in; an op outside a block, and a transfer, belong to every layer of their
step (DEDUCED, log entry 128). -/
def State.noteOverrun (s : State) (v : Serves) (block : Option TileBlock) (code : Nat) : State :=
  match v with
  | .frame k n step =>
    if overrunCodes.contains code && (block.elim (s.stepResized k n step) (·.resized)) then
      (s.markShape k code).modFrame k n fun f => { f with status := setBit f.status 22 }
    else s
  | _ => s

/-- A code raised that faults a context (R207, R316). -/
def State.faultCtx (s : State) (k : IsleNo) (c : CtxNo) (code : Nat) : State :=
  ((s.raise code (s.workConcern k c)).noteOverrun (s.ctx k c).serves (s.ctx k c).block code).haltCtx k c code

end Sys2Proof.Machine
end

