-- ==== Sys2Proof/Machine/Od.lean ====
section
/-! DEFINITION. Writing an entry of the object dictionary: the checks of R459 in their order, the rules of R24 and R477 that
an entry's value must keep, and the default effect of R14 (spec/17_object_dictionary.md). -/

namespace Sys2Proof.Machine

/-! ### Values and their bytes (R460) -/

/-- Bytes of a numeric type, and whether it is signed; none for strings. -/
def OdType.number : OdType → Option (Nat × Bool)
  | .bool => some (1, false) | .u8 => some (1, false) | .u16 => some (2, false) | .u32 => some (4, false)
  | .u48 => some (6, false) | .u64 => some (8, false) | .i8 => some (1, true) | .i16 => some (2, true)
  | .i32 => some (4, true) | .str => none | .octets _ _ _ => none | .domain _ _ _ => none

/-- Whether a string of a length fits a type (order 5 of R459). -/
def OdType.lengthOk (t : OdType) (n : Nat) : Bool :=
  match t with
  | .octets lo hi step => lo ≤ n && n ≤ hi && (n - lo) % step == 0
  | .domain lo hi step => lo ≤ n && n ≤ hi && (n - lo) % step == 0
  | .str => true
  | t => (t.number.map (·.1)) == some n

/-- The value bytes spell under a type; none where the length does not match. -/
def OdType.decode (t : OdType) (bs : Bytes) : Option OdVal :=
  if !t.lengthOk bs.length then none
  else match t.number with
    | some (n, true) => some (.num (signed (8 * n) (leNat bs)))
    | some (_, false) => some (.num (leNat bs))
    | none => some (.raw bs)

/-- The bytes of a value under a type. -/
def OdType.encode (t : OdType) (v : OdVal) : Bytes :=
  match t.number, v with
  | some (n, _), .num x => toLe n (unsigned (8 * n) x)
  | none, .raw b => b
  | some (n, _), .raw b => slice b 0 n
  | none, .num _ => []

/-- Whether a number lies in a range; a BOOLEAN is 0 or 1. -/
def OdRow.inRange (r : OdRow) (v : OdVal) : Bool :=
  match v with
  | .raw _ => true
  | .num x =>
    (r.type != .bool || x == 0 || x == 1) &&
      match r.range with
      | .any => true
      | .span lo hi => lo ≤ x && x ≤ hi
      | .oneOf vs => vs.contains x

/-! ### The value as it would stand after the next epoch -/

/-- The bytes of an entry as it would be after the next epoch. -/
def State.comingRaw (s : State) (i sub : Nat) : Bytes := (s.comingVal i sub).bytes

/-- An entry as it would be after the next epoch, once `v` is pending for `(i, sub)`. -/
def State.withPending (s : State) (i sub : Nat) (v : OdVal) : State :=
  { s with od := { s.od with pendE := kvPut (odKey i sub) v s.od.pendE, pendLate := kvDel (odKey i sub) s.od.pendLate } }

/-! ### Entry rules (order 7 of R459) -/

/-- The pixel group of a packing code (R76), or of a lane mode of slot 0 (R66). -/
def pixelGroup (slot0 : Bool) (code : Nat) : Nat :=
  if slot0 then (if code = 3 then 1 else 2)
  else if code = 2 ∨ code = 4 then 4 else if code = 3 then 2 else 1

/-- R64 and the encodings of packing and lane mode, on the values that would be in force. -/
def State.geometryOk (s : State) (k : SlotNo) : Bool :=
  let i := slotIndex k
  let w := s.coming i 3
  let mode := (s.coming i 5).toNat
  w % s.coming i 8 == 0 && w % (pixelGroup (k == 0) mode : Nat) == 0
    && (if k = 0 then mode ≤ 3 else 1 ≤ mode && mode ≤ 5)

/-- Whether a stream number of an enabled slot is used by another enabled slot (R94, R175); slot 0 has no stream ID of its own. -/
def State.streamClash (s : State) (k : SlotNo) (sub : Nat) : Bool :=
  s.coming (slotIndex k) 1 == 1 && !(k == 0 && sub == 2) &&
    allSlots.any fun j => j != k && !(j == 0 && sub == 2) && s.coming (slotIndex j) 1 == 1 && s.coming (slotIndex j) sub == s.coming (slotIndex k) sub

/-- R477: a slot without an owner takes no ingest, analysis or split part. -/
def State.ownerlessUse (s : State) (k : SlotNo) (sub : Nat) (v : Int) : Bool :=
  (sub == 1 || sub == 0x49 || sub == 0x70) && v != 0 && s.coming (slotIndex k) 0xF0 == 0

/-- The rules of a slot's entries, `s` holding the new value as pending. -/
def State.slotRule (s : State) (k : SlotNo) (sub : Nat) (v : Int) : Bool :=
  let i := slotIndex k
  if s.ownerlessUse k sub v then false
  else if sub = 1 then !s.streamClash k 2 && !s.streamClash k 0x53
  else if sub = 2 then !s.streamClash k 2
  else if sub = 0x53 then !s.streamClash k 0x53
  else if sub = 3 ∨ sub = 5 ∨ sub = 8 then s.geometryOk k
  else if sub = 0x0A ∨ sub = 0x50 then v % 4096 == 0
  else if sub = 0x40 ∨ sub = 0x42 then !(s.coming i 0x42 == 1 && s.coming i 0x40 != 0)
  else if sub = 0x51 then v % 2 == 0 && v < 128
  else if sub = 0x70 then !(k == 0 && v == 2)
  else if sub = 0x72 then (if s.coming i 0x70 = 0 then v == 0 else 2 ≤ v)
  else if sub = 0xF0 then s.coming i 1 != 1
  else true

/-- The schedule of R541: at most 16 entries of 4 bytes, a mask without bit 7, a start minute that is a multiple of the
interval, a band of 0 to 7. -/
def scheduleOk (len : Nat) (b : Bytes) : Bool :=
  (chunks 4 b).all fun e => byteAt e 0 < 128 && leAt e 1 2 % len == 0 && leAt e 1 2 < 1440 && byteAt e 3 < 8

/-- The length of a record of the stream table: 16 bytes and its image (R419). -/
def tableRecords : Nat → Bytes → Option (List Bytes)
  | 0, _ => none
  | n + 1, b =>
    if b = [] then some []
    else
      let len := 16 + beAt b 14 2
      if b.length < len then none else (tableRecords n (b.drop len)).map (slice b 0 len :: ·)

/-- The records of a stream table. -/
def streamTable (b : Bytes) : Option (List Bytes) := tableRecords (b.length + 1) b

def recPart (r : Bytes) : Nat := fieldAt r 2 5 2
def recKey (r : Bytes) : Nat := beAt r 4 2
def recOwner (r : Bytes) : OwnerNo := Fin.ofNat 16 (fieldAt r 2 0 4)
def recEligible (r : Bytes) : Nat := beAt r 6 6
def recLoad (r : Bytes) : Nat := beAt r 12 2

/-- Whether a record keeps its ranges and reserved fields (R419). -/
def recordOk (r : Bytes) : Bool :=
  byteAt r 0 == 0x10 && fieldAt r 2 0 4 != 0 && recPart r != 3 && !bitOf (byteAt r 2) 7
    && (byteAt r 3 == 0xFF || byteAt r 3 < 48) && beAt r 14 2 ≤ 16384

/-- A stream table that R419 accepts: every key once, or twice for the two parts of a split stream. -/
def tableOk (b : Bytes) : Bool :=
  match streamTable b with
  | none => false
  | some rs =>
    rs.all fun r => recordOk r &&
      match rs.filter fun q => recKey q == recKey r with
      | [_] => true
      | [p, q] => (recPart p == 1 && recPart q == 2) || (recPart p == 2 && recPart q == 1)
      | _ => false

/-- The rule of a destination table entry (R443). -/
def destinationOk (b : Bytes) : Bool :=
  let egress := byteAt b 18
  (egress < 4 || egress == 0xFF) && byteAt b 19 < 8 && byteAt b 20 < 64 && allZero (slice b 22 2)
    && (allZero (slice b 0 16) || (beAt b 16 2 != 0 && byteAt b 21 != 0))

/-- The node-ID a port's entry names; 0 stands for the default, 1 + 0x2900:01 (R465). -/
def State.canNodeId (s : State) (base : Nat) : Int :=
  if s.num 0x2002 (base + 2) = 0 then 1 + s.num 0x2900 1 else s.num 0x2002 (base + 2)

/-- Which control port carries a request: the relay's requests act on port A's values (R464). -/
def reqPort : Requester → Option CanNo
  | .portA => some 0
  | .portB => some 1
  | .relay => none

/-- The CAN FD rates of the codes in kbit/s: nominal, and data (R454). -/
def canNominal (c : Nat) : Nat := [250, 500, 1000].getD c 0
def canData (c : Nat) : Nat := [1000, 2000, 4000, 5000, 8000].getD c 0

/-- The rules of the entries outside the slot blocks, `s` holding the new value as pending where the entry is RW-E. -/
def State.deviceRule (s : State) (w : Write) (i sub : Nat) (v : OdVal) : Bool :=
  let x := v.int
  let b := v.bytes
  if i = 0x1014 then x / 0x40000000 % 2 == 0
  else if i = 0x1017 then x == 0 || 10 ≤ x
  else if i = 0x2002 ∧ sub % 16 = 2 then s.num 0x2002 (sub + 3) != x
  else if i = 0x2002 ∧ sub % 16 = 5 then s.canNodeId (sub - 5) != x
  else if i = 0x2002 ∧ sub % 16 = 3 then canNominal x.toNat ≤ canData (s.nat 0x2002 (sub + 1))
  else if i = 0x2002 ∧ sub % 16 = 4 then canNominal (s.nat 0x2002 (sub - 1)) ≤ canData x.toNat
  else if i = 0x2400 ∧ sub = 1 then 0 < x && 1440 % x == 0 && scheduleOk x.toNat (s.comingRaw 0x2400 3)
  else if i = 0x2400 ∧ sub = 3 then scheduleOk (s.coming 0x2400 1).toNat b
  else if i = 0x2700 ∧ (sub = 4 ∨ sub = 0x0B) then s.coming 0x2700 4 < s.coming 0x2700 0x0B
  else if i = 0x2800 ∧ sub = 8 then b.all fun y => y == 0 || y == 1
  else if i = 0x2900 ∧ sub = 3 then b.all (fun y => y.toNat < 48) && b.dedup.length == b.length
  else if i = 0x2903 then s.nat 0x2900 5 ≤ 1 && tableOk b
  else if i = 0x2A00 ∧ (sub = 4 ∨ sub = 5) then s.coming 0x2A00 4 != s.coming 0x2A00 5
  else if 0x2A01 ≤ i ∧ i ≤ 0x2A04 ∧ (sub = 2 ∨ sub = 4) then
    !(s.coming i 4 / 4 % 2 == 1 && s.coming i 2 < 8320)
  else if i = 0x2A08 then byteAt b 16 < 16
  else if i = 0x2A10 then destinationOk b
  else true

/-- Whether a requester's write disables the port that carries it while the other is disabled, now or by its entry (R465; DEDUCED, log
entry 145). -/
def State.lastPort (s : State) (q : Requester) (sub : Nat) : Bool :=
  (q == .portA && sub == 1 && (s.num 0x2002 0x11 == 0 || !s.can[(1 : CanNo)].enabled))
    || (q == .portB && sub == 0x11 && (s.num 0x2002 1 == 0 || !s.can[(0 : CanNo)].enabled))

/-- Whether a value keeps its range and the rules of its entry. -/
def State.entryRule (s : State) (w : Write) (r : OdRow) (i sub : Nat) (v : OdVal) : Bool :=
  let s' := if r.acc = .rwe then s.withPending i sub v else s
  r.inRange v &&
    (if i = 0x2002 ∧ sub % 16 = 1 ∧ v.int = 0 then !s.lastPort w.req sub
     else if isSlotIndex i ∧ sub = 0xF0 ∧ v.int = s.coming i sub then true
     else if isSlotIndex i then s'.slotRule (Fin.ofNat 48 (i - 0x3000)) sub v.int else s'.deviceRule w i sub v)

/-! ### Admission (R459, R466, R470) -/

/-- The answer to a request: the code it is aborted with, or the value to write. -/
inductive Admission where
  | refused (code : Nat)
  | ok (v : OdVal)
  deriving DecidableEq, Repr

/-- The number of a requester among the three. -/
def reqNo : Requester → Fin 3
  | .portA => 0
  | .portB => 1
  | .relay => 2

/-- A requester's record, and the state with it changed. -/
def State.requester (s : State) (q : Requester) : RequesterState := s.od.reqs[reqNo q]
def State.modReq (s : State) (q : Requester) (f : RequesterState → RequesterState) : State :=
  { s with od := { s.od with reqs := s.od.reqs.set (reqNo q) (f s.od.reqs[reqNo q]) } }

/-- The answer to a requester's write (R459): 0, or its abort code. -/
def State.answerTo (s : State) (q : Requester) (code : Nat) : State := s.modReq q fun r => { r with answer := code }

/-- The domains a requester holds, as a mask (R469). -/
def State.heldMask (s : State) (q : Requester) : Nat :=
  ((List.finRange 8).map fun d => if s.od.holders[d] = some q then 2 ^ d.val else 0).sum

/-- Every domain of a requester freed; its token becomes invalid (R473, R474). -/
def State.freeDomains (s : State) (q : Requester) : State :=
  { s with
    od := { s.od with
      holders := s.od.holders.map fun h => if h = some q then none else h
      reqs := s.od.reqs.set (reqNo q) { s.od.reqs[reqNo q] with token := 0, leaseEnd := 0 } } }

/-- A requester's lease runs out (R474). -/
def State.expireLease (s : State) (q : Requester) : State :=
  ((s.freeDomains q).bump 0x2010 0x0A).raise 0x8001

/-- The requesters in the order of R475. -/
def allRequesters : List Requester := [.portA, .portB, .relay]

/-- The leases that have run out before a reference cycle, expired. -/
def State.expireBefore (s : State) (t : Nat) : State :=
  s.each allRequesters fun s q => if s.heldMask q != 0 && (s.requester q).leaseEnd < t then s.expireLease q else s

/-- Whether the writer holds what the entry needs now: its domain, or all eight (R463, R470). -/
def State.holdsFor (s : State) (q : Requester) (i : Nat) : Bool :=
  if i = 0x1010 ∨ i = 0x1011 then s.heldMask q == 255
  else match odDomain i with
    | none => true
    | some d => s.od.holders[d] == some q

/-- Indices that exist in recovery mode (R488). -/
def recoveryIndex (i : Nat) : Bool := i ≤ 0x1018 || i = 0x2000 || i = 0x2001 || i = 0x2010 || i = 0x2500

/-- Order 3 of R459: a requester that has not agreed, a stopped port, a service state that forbids the entry. -/
def State.forbidden (s : State) (w : Write) (i sub : Nat) : Bool :=
  let mode := s.nat 0x2000 8
  ((s.requester w.req).nego != .agreed && !(i == 0x2001 && sub == 1))
    || ((reqPort w.req).any fun p => s.can[p].nmt == .stopped)
    || (2 ≤ mode && (i == 0x1010 || (i == 0x2000 && sub == 0x0B)))

/-- The checks of R459 on a write, in their order. -/
def State.odAdmit (s : State) (w : Write) (i sub : Nat) (bs : Bytes) : Admission :=
  if odRowsOf i = [] ∨ (s.nat 0x2000 8 = 2 ∧ !recoveryIndex i) then .refused 0x06020000
  else match odFind i sub with
    | none => .refused 0x06090011
    | some r =>
      if s.forbidden w i sub then .refused 0x08000022
      else if r.acc = .ro then .refused 0x06010002
      else match r.type.decode bs with
        | none => .refused 0x06070010
        | some v =>
          if !((w.heldAtStart || (odDomain i).isNone) && s.holdsFor w.req i) then .refused 0x08000020
          else if s.entryRule w r i sub v then .ok v else .refused 0x06090030

/-! ### Effect -/

/-- The key of an entry's value: the port's own for 0x1014 and 0x1015 (R464). -/
def ownSub (q : Requester) (i sub : Nat) : Nat := if (i = 0x1014 ∨ i = 0x1015) ∧ q = .portB then 1 else sub

/-- The epoch tick scheduled, as the device knows it: its own entry, or the tick the beacons name (R422). -/
def State.epochTick (s : State) : Option Nat := if s.nat 0x2900 0x0A = 0 then s.sys.namedEpoch else some (s.nat 0x2900 0x0A)

/-- Whether a write now comes too late for the scheduled epoch (R424). -/
def State.afterReadiness (s : State) : Bool :=
  match s.epochTick with
  | none => false
  | some e => e ≤ s.tick.number + 2

/-- The writes that came too late for an epoch joined with the pending ones, which they follow (R15, R424). -/
def State.mergeLate (s : State) : State :=
  { s with od := { s.od with
      pendE := s.od.pendLate.foldl (fun m e => kvPut e.1 e.2 m) s.od.pendE
      pendLate := []
      lateFor := none } }

/-- The same once the epoch they were too late for is no longer scheduled (R423). -/
def State.settleLate (s : State) : State := if s.od.lateFor.isSome ∧ s.od.lateFor ≠ s.epochTick then s.mergeLate else s

/-- The default effect of a write by its access code (R14, R15, R424): in force at once, pending for the epoch or for the
frame boundary. -/
def State.storeEntry (s : State) (i sub : Nat) (v : OdVal) : State :=
  match odFind i sub with
  | none => s
  | some r =>
    match r.acc with
    | .rw => s.setEntry i sub v
    | .rwe =>
      let s := s.settleLate
      if s.afterReadiness then
        { s with od := { s.od with pendLate := kvPut (odKey i sub) v s.od.pendLate, lateFor := s.epochTick } }
      else { s with od := { s.od with pendE := kvPut (odKey i sub) v s.od.pendE } }
    | .rwf => { s with od := { s.od with pendF := kvPut (odKey i sub) v s.od.pendF } }
    | .ro => s
    | .wo => s

/-- What an admitted write does: the abort code of its answer, 0 where it completes, and the state after it. -/
abbrev Act := Write → OdVal → State → Nat × State

/-- An act that always completes. -/
def always (f : Write → OdVal → State → State) : Act := fun w v s => (0, f w v s)

/-- The default act of an entry. -/
def storeAct (i sub : Nat) : Act := always fun w v s => s.storeEntry i (ownSub w.req i sub) v

/-- Refusal under a rule of the entry's chapter, when `ok` fails (order 7 of R459). -/
def guarded (ok : Write → OdVal → State → Bool) (a : Act) : Act := fun w v s =>
  if ok w v s then a w v s else (0x06090030, s)

/-- Whether a requester's writes reach the device: a port that is disabled or off the bus receives nothing (R455, R456). -/
def State.reaches (s : State) (q : Requester) : Bool :=
  (reqPort q).all fun p => s.can[p].enabled && s.can[p].status != .busOff

/-- Whether the management pause of an activation holds a request: all but the semaphore unit's (R461, R495). -/
def State.held (s : State) (i : Nat) : Bool := i != 0x2010 && s.fw.activation.any (·.step == .verifying)

/-- The requester of a held request. -/
def HeldRequest.requester : HeldRequest → Requester
  | .write w _ _ _ _ => w.req
  | .relayed _ _ _ _ => .relay

/-- A request held until the pause ends: at most 16 of a requester, as its port buffers 16 frames (R459; DEDUCED, log entry 51). -/
def State.hold (s : State) (h : HeldRequest) : State :=
  if 16 ≤ s.od.waiting.countP fun x => x.requester == h.requester then s
  else { s with od := { s.od with waiting := s.od.waiting ++ [h] } }

/-- A write of an entry carried out: leases that have run out are free, the checks of R459 are made, the act follows, and
the requester is answered. In the management pause it waits; `card` is what it may need of the world. -/
def State.odRun (s : State) (w : Write) (i sub : Nat) (bs : Bytes) (act : Act) (card : Option Bytes := none) : State :=
  if !s.reaches w.req then s
  else if s.held i then (s.at_ w.at_).hold (.write w i sub bs card)
  else
    let s := (s.at_ w.at_).expireBefore w.at_
    match s.odAdmit w i sub bs with
    | .refused c => s.answerTo w.req c
    | .ok v =>
      let r := act w v s
      r.2.answerTo w.req r.1

end Sys2Proof.Machine
end

