-- ==== Sys2Proof/Machine/NetCore.lean ====
section
/-! DEFINITION. What every sender and receiver of the Ethernet ports shares: links, roles, addresses, resolution, sending
a datagram, and device time (spec/16_ethernet.md R431 to R445, R450). The trace of frames sent leaves checksums out. -/

namespace Sys2Proof.Machine

/-- The index of an Ethernet port's entries (R452). -/
def ethIndex (p : EthNo) : Nat := 0x2A01 + p

/-- All Ethernet ports, ascending. -/
def allPorts : List EthNo := List.finRange 4

/-- The state with an Ethernet port changed. -/
def State.modPort (s : State) (p : EthNo) (f : PortState → PortState) : State :=
  { s with eth := { s.eth with ports := s.eth.ports.set p (f s.eth.ports[p]) } }

/-- Whether a port's link is up (0x2A0x:09). -/
def State.linkUp (s : State) (p : EthNo) : Bool := 2 ≤ s.nat (ethIndex p) 9

/-- Whether a port has a role: 0 ingest, 1 results, 2 causeway (0x2A0x:04). -/
def State.hasRole (s : State) (p : EthNo) (b : Nat) : Bool := (s.nat (ethIndex p) 4).testBit b

/-- The port causeway leaves by (R444), and the port an egress of 0xFF takes (R443). -/
def State.causewayPort (s : State) : Option EthNo := allPorts.find? fun p => s.hasRole p 2 && s.linkUp p
def State.resultsPort (s : State) : Option EthNo := allPorts.find? fun p => s.hasRole p 1 && s.linkUp p

/-! ### Addresses -/

/-- Whether an address of 16 bytes is an IPv4 address in its mapped form. -/
def isV4 (a : Bytes) : Bool := slice a 0 12 == zeros 10 ++ [0xFF, 0xFF]

/-- The mapped form of an IPv4 address. -/
def mapped (v4 : Bytes) : Bytes := zeros 10 ++ [0xFF, 0xFF] ++ slice v4 0 4

/-- Whether an address is a multicast group. -/
def isGroup (a : Bytes) : Bool := if isV4 a then byteAt a 12 / 16 == 14 else byteAt a 0 == 0xFF

/-- Whether two addresses agree in their first `bits` bits. -/
def samePrefix (a b : Bytes) (bits : Nat) : Bool := beNat (slice a 0 16) / 2 ^ (128 - bits) == beNat (slice b 0 16) / 2 ^ (128 - bits)

/-- A port's MAC address: the base address plus the port's number (R432). -/
def macOf (p : EthNo) : Bytes := toBe 6 (Config.fuse 4 + p)

/-- A port's IPv4 address and its gateway in mapped form, its prefix length in bits of that form, and the same of IPv6. -/
def State.v4Addr (s : State) (p : EthNo) : Bytes := mapped (slice (s.entry (ethIndex p) 7).bytes 0 4)
def State.v4Prefix (s : State) (p : EthNo) : Nat := 96 + min 32 (byteAt (s.entry (ethIndex p) 7).bytes 4)
def State.v4Gateway (s : State) (p : EthNo) : Bytes := mapped (slice (s.entry (ethIndex p) 7).bytes 5 4)
def State.v6Addr (s : State) (p : EthNo) : Bytes := slice (s.entry (ethIndex p) 8).bytes 0 16
def State.v6Prefix (s : State) (p : EthNo) : Nat := min 128 (byteAt (s.entry (ethIndex p) 8).bytes 16)
def State.v6Gateway (s : State) (p : EthNo) : Bytes := slice (s.entry (ethIndex p) 8).bytes 17 16

/-- The link-local address made from a port's MAC address (R452). -/
def linkLocal (p : EthNo) : Bytes :=
  let m := macOf p
  [0xFE, 0x80] ++ zeros 6 ++ [m.getD 0 0 ^^^ 2] ++ slice m 1 2 ++ [0xFF, 0xFE] ++ slice m 3 3

/-- Whether an address is one of a port's own. -/
def State.ownAddr (s : State) (p : EthNo) (a : Bytes) : Bool :=
  if isV4 a then a == s.v4Addr p && !allZero (slice a 12 4) else a == linkLocal p || (a == s.v6Addr p && !allZero a)

/-- The next hop towards an address: itself on the link, else the gateway (R433). -/
def State.nextHop (s : State) (p : EthNo) (dst : Bytes) : Bytes :=
  if isGroup dst then dst
  else if isV4 dst then (if samePrefix dst (s.v4Addr p) (s.v4Prefix p) then dst else s.v4Gateway p)
  else if slice dst 0 2 == [0xFE, 0x80] || samePrefix dst (s.v6Addr p) (s.v6Prefix p) then dst
  else s.v6Gateway p

/-! ### Sending -/

/-- A frame counted as sent on a port. -/
def State.countFrame (s : State) (p : EthNo) : State := s.bump (ethIndex p) 0x21

/-- An ARP message of a port: operation, target MAC and IPv4 address. -/
def State.arpBody (s : State) (p : EthNo) (op : Nat) (mac ip : Bytes) : Bytes :=
  toBe 2 1 ++ toBe 2 0x0800 ++ [6, 4] ++ toBe 2 op ++ macOf p ++ slice (s.v4Addr p) 12 4 ++ slice mac 0 6 ++ slice ip 12 4

/-- A request for the link address of a next hop: ARP, or a neighbour solicitation (R433). -/
def State.solicit (s : State) (p : EthNo) (hop : Bytes) : State :=
  let s := s.countFrame p
  if isV4 hop then s.emit (.frame p 0x0806 (s.arpBody p 1 (zeros 6) hop))
  else s.emit (.frame p 0x1003A ([135, 0] ++ zeros 6 ++ hop ++ [1, 1] ++ macOf p))

/-- Resolution of the next hop of an address, where it is not known (R433). -/
def State.resolve (s : State) (p : EthNo) (dst : Bytes) : State :=
  let hop := s.nextHop p dst
  if isGroup dst || s.eth.ports[p].neighbours.any (·.1 == hop) then s else s.solicit p hop

/-- A UDP datagram sent on a port. -/
def State.sendUdp (s : State) (p : EthNo) (mark : TxMark) (dst : Bytes) (dport sport : Nat) (payload : Bytes) : State :=
  ((s.resolve p dst).countFrame p).emit (.udp p mark dst dport sport payload)

/-- The marks of a causeway or PTP datagram on a port: the PCP of the data class, or of the control class (R438). -/
def State.classMark (s : State) (p : EthNo) (data : Bool) : TxMark :=
  { vlan := s.nat (ethIndex p) 5, pcp := s.nat 0x2A00 (if data then 5 else 4) }

/-- The largest UDP payload of a port towards an address (R434). -/
def State.udpRoom (s : State) (p : EthNo) (dst : Bytes) : Nat := s.nat (ethIndex p) 2 - (if isV4 dst then 28 else 48)

/-! ### Groups (R445) -/

/-- The groups a port has joined. -/
def State.groups (s : State) (p : EthNo) : List Bytes :=
  (List.range 64).filterMap fun i =>
    let e := (s.entry 0x2A08 (i + 1)).bytes
    if bitOf (byteAt e 16) p && !allZero (slice e 0 16) then some (slice e 0 16) else none

/-- A report of groups with a record type: IGMPv3 for IPv4 groups, MLDv2 for the others (R433). -/
def State.reportGroups (s : State) (p : EthNo) (record : Nat) (gs : List Bytes) : State :=
  let four := gs.filter isV4
  let six := gs.filter fun g => !isV4 g
  let s := if four = [] then s else (s.countFrame p).emit (.frame p 0x10002
    ([0x22] ++ zeros 5 ++ toBe 2 four.length ++ four.flatMap fun g => [byte record, 0, 0, 0] ++ slice g 12 4))
  if six = [] then s else (s.countFrame p).emit (.frame p 0x1003A
    ([143] ++ zeros 5 ++ toBe 2 six.length ++ six.flatMap fun g => [byte record, 0, 0, 0] ++ g))

/-! ### Links -/

/-- A port's link goes to a state that is not up: its queued frames are dropped, its pauses end, 0x7020 (R431). -/
def State.dropLink (s : State) (p : EthNo) (code : Nat) : State :=
  let was := s.linkUp p
  let s := (s.setNum (ethIndex p) 9 code).modPort p fun x =>
    { x with
      dropped := x.dropped + x.queue.length
      queue := []
      pausing := false
      heldSince := none
      discarding := false
      neighbours := [] }
  (if was then s.raise 0x7020 else s).settleError

/-! ### Time (R403, R450) -/

/-- Device time in ns: PTP time while it is steered. -/
def State.deviceNs (s : State) : Int := s.eth.ptp.ns + 10 * ((s.now : Int) - s.eth.ptp.nsAt)

/-- Device time in ns at a reference cycle. -/
def State.nsAtCycle (s : State) (t : Nat) : Int := s.eth.ptp.ns + 10 * ((t : Int) - s.eth.ptp.nsAt)

end Sys2Proof.Machine
end

