-- ==== Sys2Proof/Machine/Epoch.lean ====
section
/-! DEFINITION. Applying a configuration epoch: pending RW-E values become active, and what each chapter makes of it
(spec/15_system.md R423, R424, spec/03_raw_ingest.md R65, spec/05_neural_stages.md R126, R142, spec/13_adaptation.md R346,
spec/16_ethernet.md R431, R445). -/

namespace Sys2Proof.Machine

/-! ### Roles at start (R393 to R395, R399) -/

/-- Whether the device is alone: its node number is 48 or more, or its address table holds no other node (R393, R394). -/
def State.isAlone (s : State) : Bool :=
  48 ≤ s.sys.node || (List.range 48).all fun k => k == s.sys.node || allZero (s.entry 0x2901 (k + 1)).bytes

/-- The device's role in force, 0x2900:05: 0 alone, 1 manager, 2 standby, 3 worker, 4 joining, 5 isolated. -/
def State.role (s : State) : Nat := s.nat 0x2900 5

/-- A role taken: a member drives TICK_OUT only while it is manager (R399). -/
def State.takeRole (s : State) (r : Nat) : State :=
  let s := s.setNum 0x2900 5 r
  if r = 0 then s else s.setNum 0x2100 0x0B (if r = 1 then 1 else 0)

/-- Whether the entry or the strap makes the device a manager at start (R394). -/
def State.startsManager (s : State) : Bool :=
  s.nat 0x2900 2 == 1 || (s.nat 0x2900 2 == 0 && s.power.straps.mgr)

/-- The role the device takes at a start, or when an epoch makes it alone or a member (R394, R395). -/
def State.startRole (s : State) : State :=
  if s.isAlone then
    let s := s.modSys fun y => { y with listenUntil := none, joinSent := false, members := [] }
    (s.takeRole 0).setNum 0x2900 6 (if 48 ≤ s.sys.node then 0xFF else (s.sys.node : Int))
  else
    let until_ := if s.startsManager then some (s.tick.number + 8) else none
    let s := s.modSys fun y => { y with listenUntil := until_, heard := false, joinSent := false }
    (s.takeRole 4).setNum 0x2900 6 0xFF

/-! ### Slots at an epoch -/

/-- The entries R65 names, and those of them that are geometry. -/
def ingestSubs : List Nat := [1, 3, 4, 5, 6, 7, 8, 9, 0x0A, 0x1C]
def geometrySubs : List Nat := [3, 4, 5, 6, 7, 8]

/-- Whether an entry differs between two states. -/
def State.differs (s t : State) (i sub : Nat) : Bool := s.entry i sub != t.entry i sub

/-- The ring of a slot emptied at an epoch: entries that fill or are closed are freed and counted; one being processed stays;
the ring takes its new length (R65). A freed entry's header shows state 0 (R85). -/
def State.freeRing (s : State) (k : SlotNo) : State :=
  let es := s.slots[k].entries
  let gone := es.countP fun e => e.phase == .filling || e.phase == .closed
  let kept := es.map fun e => if e.phase = .processing then e else e.freed
  let s := s.each (es.filter fun e => e.phase == .filling || e.phase == .closed) fun s e =>
    (s.ringWrite k e.base (e.freed.header k)).2
  let n := s.slotNat k 9
  let tail := (kept.drop n).reverse.dropWhile (·.phase == .free)
  let es := (kept.take n) ++ List.replicate (n - kept.length) ({} : RingEntry) ++ tail.reverse
  ((s.bumpBy (slotIndex k) 0x18 gone).modSlot k fun sl => { sl with entries := es }).noteRing k

/-- A slot whose ingest is enabled starts afresh (R69, R79, R86, R142). -/
def State.startSlot (s : State) (k : SlotNo) : State :=
  let s := s.modSlot k fun sl =>
    { sl with
      seq := none
      newest := none
      lastAccepted := none
      restartPending := false
      lost := []
      inl := { sl.inl with nextFrame := 0 } }
  s.addReason k 1

/-- The adaptation of a slot made anew for the plan in force, its sets loaded from the plan, each stage to be reset at the next frame (R343,
R346). -/
def State.renewAdapt (s : State) (k : SlotNo) : State :=
  let n := ((s.slotPlan k).map (·.adapt.length)).getD 0
  let s := s.each s.slots[k].adapt fun s a => s.abandonStep k a.desc 4
  let s := s.modSlot k fun sl =>
    { sl with
      adapt := (List.range n).map fun d =>
        { desc := d, generation := ((sl.adapt.find? (·.desc == d)).map (·.generation)).getD 0, resetPending := true } }
  s.each (List.range n) fun s d => s.loadPlanSets k d

/-- The check of R126 on a slot in force; its mark takes the place of one of R316, and is made once. -/
def State.checkShape (s : State) (k : SlotNo) : State :=
  match s.slotPlan k with
  | none => s
  | some img =>
    if s.slotNat k 1 = 0 ∨ s.slots[k].shape = some 0x3E05 ∨ planFits img (s.slotNat k 3) (s.slotNat k 4) (s.slotNat k 8) then s
    else (s.markShape k 0x3E05).raise 0x3E05 { slot := k }

/-- What an epoch does to a slot; `old` is the state before the values became active. -/
def State.epochSlot (old s : State) (k : SlotNo) : State :=
  let i := slotIndex k
  let ch (sub : Nat) : Bool := old.differs s i sub
  let geometry := geometrySubs.any ch
  let s := if ingestSubs.any ch then (if k = 0 then s else s.freeRing k) else s
  let placed := ch 1 && s.slotNat k 1 == 1 || ch 0x70 && s.slotNat k 0x70 == 2
  let s := if placed then s.startSlot k else s
  let s := if geometry then (s.addReason k 4).modSlot k fun sl => { sl with defectsCounted := false } else s
  let s := if ch 0x30 then (s.addReason k 3).modSlot k fun sl =>
      { sl with planChanged := true, planNone := sl.planNone && (s.slotPlan k).isNone } else s
  let s := if ch 0x30 || geometry || placed || ch 0xF0 then s.renewAdapt k else s
  let off := s.slotNat k 1 == 0 && s.slotNat k 0x70 != 2
  let s := if off then
      (s.each s.slots[k].adapt fun s a => s.abandonStep k a.desc 4).modSlot k fun sl => { sl with shed := false }
    else s
  s.checkShape k

/-! ### Ports at an epoch -/

/-- What an epoch does to an Ethernet port: a mode change drops the link and retrains it (R431); joins and leaves are
reported (R445). -/
def State.epochPort (old s : State) (p : EthNo) : State :=
  let s := if old.differs s (ethIndex p) 1 then s.dropLink p (if s.nat (ethIndex p) 1 = 0 then 0 else 1) else s
  let new := (s.groups p).filter fun g => !(old.groups p).contains g
  let gone := (old.groups p).filter fun g => !(s.groups p).contains g
  (s.reportGroups p 4 new).reportGroups p 3 gone

/-! ### The epoch -/

/-- The pending values made active; those that came too late for this epoch stay pending for the next (R424). -/
def State.activate (s : State) : State :=
  let s := if s.od.lateFor = some s.tick.number then s else s.mergeLate
  let ps := s.od.pendE
  let s := { s with od := { s.od with pendE := s.od.pendLate, pendLate := [], lateFor := none } }
  s.each ps fun s e => s.setEntry (e.1 / 256) (e.1 % 256) e.2

/-- The epoch of this boundary applied (R423). -/
def State.applyEpoch (s : State) : State :=
  let old := s
  let s := s.activate
  let s := s.modTick fun t => { t with epochDone := some s.tick.number }
  let s := s.modSys fun y =>
    { y with
      namedEpoch := none
      confirmed := none
      members := y.members.map fun m =>
        { m with mirror := m.pending.foldl (fun v e => kvSet (odDefault (e.1 / 256) (e.1 % 256)) e.1 e.2 v) m.mirror, pending := [] } }
  let s := ((s.setNum 0x2900 0x0A 0).bump 0x2900 9).raise 0x700C
  let s := s.each allSlots fun s k => State.epochSlot old s k
  let s := s.each allPorts fun s p => State.epochPort old s p
  let s := if old.isAlone != s.isAlone then s.startRole else s
  s.setWaitLimits.settleError

/-- Whether a confirmed epoch falls on this boundary and has not been applied (R423). -/
def State.epochDue (s : State) : Bool := s.sys.confirmed == some s.tick.number && s.tick.epochDone != some s.tick.number

/-- The epoch applied when it is due. -/
def State.epochIfDue (s : State) : State := if s.epochDue then s.applyEpoch else s

end Sys2Proof.Machine
end

