-- ==== Sys2Proof/Machine/Causeway.lean ====
section
/-! DEFINITION. Causeway: keys and sequences, sending, flows and their windows, acceptance, acknowledgements and failed flows
(spec/15_system.md R407 to R414, spec/16_ethernet.md R438, R441, R444). -/

namespace Sys2Proof.Machine

/-! ### Frames (R408, R409) -/

/-- The fields of a causeway frame's header, and its payload in clear. -/
structure CwFrame where
  type : Nat
  owner : Nat
  keySlot : Bool
  chan : Nat
  src : Nat
  dst : Nat
  seq : Nat
  payload : Bytes
  deriving DecidableEq, Repr

/-- Whether a type is sent on a reliable channel. -/
def cwReliable (type : Nat) : Bool := [1, 5, 6, 7, 8].contains type

/-- Whether a type is allowed on a channel (R409). -/
def cwChannelOk (type chan : Nat) : Bool :=
  if type = 1 ∨ type = 9 then 2 ≤ chan else if type = 2 then 1 ≤ chan else if type = 3 ∨ type = 4 then chan == 0 else chan == 1

/-- The header of a frame. -/
def CwFrame.header (f : CwFrame) : Bytes :=
  [0x10, byte f.type, byte ((if f.owner = 0 then 0 else 1) + if f.keySlot then 2 else 0), byte f.chan, byte f.src,
    byte f.dst, byte f.owner, 0] ++ toBe 8 f.seq ++ toBe 2 f.payload.length ++ zeros 6

/-- The space of a type: 1 for ACK. -/
def cwSpace (type : Nat) : Nat := if type = 2 then 1 else 0

/-- The nonce of a frame under a salt. -/
def CwFrame.nonce (f : CwFrame) (salt : Bytes) : Bytes :=
  xorBytes (slice salt 0 4) [byte f.src, byte f.dst, byte f.chan, byte (cwSpace f.type)] ++ toBe 8 f.seq

/-- The bytes of a frame under a key. -/
def CwFrame.seal (f : CwFrame) (k : LoadedKey) : Bytes :=
  let c := gcmSeal k.key (f.nonce k.salt) f.header f.payload
  f.header ++ c.1 ++ c.2

/-! ### Keys, sessions and counters (R408, R410) -/

/-- A causeway key: of an owner, or the system key for owner 0. -/
def State.cwKey (s : State) (owner : Nat) (slot : Bool) : Option LoadedKey :=
  let o := s.owners[(Fin.ofNat 16 owner : OwnerNo)]
  if slot then o.causeway1 else o.causeway0

/-- The key slot a device sends with (0x2800:08, 0x2800:09). -/
def State.cwSendSlot (s : State) (owner : Nat) : Bool :=
  if owner = 0 then s.nat 0x2800 9 == 1 else byteAt (s.entry 0x2800 8).bytes owner == 1

/-- The number of a key. -/
def cwKeyNo (owner : Nat) (slot : Bool) : Nat := 2 * owner + if slot then 1 else 0

/-- The number of a counter: of a key, a destination, a channel and a space. -/
def cwCounterNo (key dest chan space : Nat) : Nat := ((key * 48 + dest) * 256 + chan) * 2 + space

/-- The next session of a key opened, its counters at 0; none where it would pass 0xFFFF. -/
def State.openSession (s : State) (key : Nat) : Option State :=
  let n := kvGet 0 key s.sys.sessions + 1
  if 0xFFFF < n then none
  else some <| s.modSys fun y =>
    { y with
      sessions := kvSet 0 key n y.sessions
      opened := insertAsc key y.opened
      counters := y.counters.filter fun c => c.1 / 2 / 256 / 48 != key }

/-- The next sequence of a space; none when the key's sessions are used up (R410). -/
def State.nextSeq (s : State) (key dest chan space : Nat) : Option Nat × State :=
  let i := cwCounterNo key dest chan space
  let fresh := !s.sys.opened.contains key || kvGet 0 i s.sys.counters == 2 ^ 48
  match if fresh then s.openSession key else some s with
  | none => (none, s.raiseOnce 0x7012 key)
  | some s =>
    let c := kvGet 0 i s.sys.counters
    (some (kvGet 0 key s.sys.sessions * 2 ^ 48 + c), s.modSys fun y => { y with counters := kvSet 0 i (c + 1) y.counters })

/-! ### Leaving the device (R407, R438, R441, R444) -/

/-- The address of a node (0x2901). -/
def State.nodeAddr (s : State) (k : Nat) : Bytes := (s.entry 0x2901 (k + 1)).bytes

/-- Whether a port holds its data class (R440). -/
def State.dataHeld (s : State) (p : EthNo) : Bool :=
  s.eth.ports[p].heldSince.isSome && s.now < s.eth.ports[p].heldUntil

/-- A causeway datagram put on a port. -/
def State.cwEmit (s : State) (p : EthNo) (data : Bool) (addr bytes : Bytes) : State :=
  s.sendUdp p (s.classMark p data) addr (s.nat 0x2900 4) (s.nat 0x2900 4) bytes

/-- The DATA frames queued behind a pause sent, once it has ended. -/
def State.flushData (s : State) (p : EthNo) : State :=
  if s.dataHeld p || s.eth.ports[p].heldSince.isNone then s
  else
    let q := s.eth.ports[p].queue
    let s := s.modPort p fun x => { x with heldSince := none, discarding := false, queue := [] }
    s.each q fun s e => s.cwEmit p true e.1 e.2

/-- A frame's bytes sent to a node on the causeway port; DATA waits while the port holds its class, and is discarded once the
watchdog has run out. -/
def State.cwSend (s : State) (dest : Nat) (data : Bool) (bytes : Bytes) : State :=
  match s.causewayPort with
  | none => s
  | some p =>
    let s := (s.bump 0x2902 1).flushData p
    let addr := s.nodeAddr dest
    if data && s.dataHeld p then
      if s.eth.ports[p].discarding then s else s.modPort p fun x => { x with queue := x.queue ++ [(addr, bytes)] }
    else s.cwEmit p data addr bytes

/-- A frame made and sent once; its sequence and bytes. Nothing is sent while the device is alone, to a node without an
address, or without a key. -/
def State.cwMake (s : State) (type dest chan owner : Nat) (payload : Bytes) : Option (Nat × Bytes) × State :=
  let slot := s.cwSendSlot owner
  match s.cwKey owner slot with
  | none => (none, s)
  | some k =>
    if s.role = 0 ∨ allZero (s.nodeAddr dest) then (none, s)
    else
      match s.nextSeq (cwKeyNo owner slot) dest chan (cwSpace type) with
      | (none, s) => (none, s)
      | (some q, s) =>
        let b := CwFrame.seal ⟨type, owner, slot, chan, s.sys.node, dest, q, payload⟩ k
        (some (q, b), s.cwSend dest (type == 1) b)

/-- An unreliable frame sent. -/
def State.cwOnce (s : State) (type dest chan owner : Nat) (payload : Bytes) : State :=
  (s.cwMake type dest chan owner payload).2

/-! ### Flows (R412 to R414) -/

/-- The slot of this device's part of a split stream with a node on a channel, and its part. -/
def State.flowSlot (s : State) (part node chan : Nat) : Option SlotNo :=
  allSlots.find? fun k => s.slotNat k 0x70 == part && s.slotNat k 0x71 == node && s.slotNat k 0x72 == chan

/-- The owner whose key a channel uses: the stream's on an activation flow, else the system key (R408). -/
def State.chanOwner (s : State) (node chan : Nat) : Nat :=
  if chan < 2 then 0
  else match allSlots.find? fun k => s.slotNat k 0x70 != 0 && s.slotNat k 0x71 == node && s.slotNat k 0x72 == chan with
    | some k => s.slotOwner k
    | none => 0

/-- Whether a flow may send its next frame: within the window, or, before the first ACK, one frame at a time (DEDUCED, log entry 40). -/
def State.flowOpen (s : State) (f : TxFlow) : Bool :=
  let owner := s.chanOwner f.dest f.chan
  let key := cwKeyNo owner (s.cwSendSlot owner)
  let next := kvGet 0 key s.sys.sessions * 2 ^ 48 + kvGet 0 (cwCounterNo key f.dest f.chan 0) s.sys.counters
  match f.limit with
  | none => f.unacked.isEmpty
  | some l => !s.sys.opened.contains key || next < l

/-- The frames of a flow that wait sent as far as its window allows; a wait for credit is counted once (R414). -/
def State.pumpFlow (s : State) (dest chan : Nat) : Nat → State
  | 0 => s
  | n + 1 =>
    let f := s.flow dest chan
    match f.waiting with
    | [] => s
    | u :: rest =>
      if f.failed then s
      else if !s.flowOpen f then
        if f.blocked || f.limit.isNone then s else (s.setFlow { f with blocked := true }).bump 0x2902 8
      else
        match s.cwMake u.type dest chan (s.chanOwner dest chan) u.payload with
        | (none, s) => s
        | (some (q, b), s) =>
          (s.setFlow { f with
            waiting := rest
            blocked := false
            unacked := f.unacked ++ [⟨q, b, s.now, 0, false⟩] }).pumpFlow dest chan n

/-- Every flow sent as far as its window allows. -/
def State.pump (s : State) : State :=
  s.each s.sys.flows fun s f => s.pumpFlow f.dest f.chan (s.flow f.dest f.chan).waiting.length

/-- A frame of a reliable channel sent, or made to wait. -/
def State.cwReliableSend (s : State) (type dest chan : Nat) (payload : Bytes) : State :=
  let s := s.enqueue dest chan ⟨type, payload⟩
  s.pumpFlow dest chan (s.flow dest chan).waiting.length

/-! ### Receive buffers (R417, R440) -/

/-- PFC for the data PCP with a pause time sent on a port (R440). -/
def State.sendPfc (s : State) (p : EthNo) (quanta : Nat) : State :=
  let pcp := s.nat 0x2A00 5
  (s.bump (ethIndex p) 0x28).emit (.frame p 0x8808 (toBe 2 0x0101 ++ toBe 2 (2 ^ pcp)
    ++ (List.range 8).flatMap fun i => toBe 2 (if i = pcp then quanta else 0)))

/-- Receive buffers freed; a pause that a port's fill has sent ends when its data buffer falls to 96 KiB. -/
def State.releaseBuffers (s : State) (gone : DataBuffer → Bool) : State :=
  let bs := s.sys.buffers.filter gone
  let s := s.modSys fun y => { y with buffers := y.buffers.filter fun b => !gone b }
  s.each allPorts fun s p =>
    let fill := s.eth.ports[p].dataFill - 8192 * bs.countP fun b => b.addr / 2 ^ 20 == p.val
    let ends := s.eth.ports[p].pausing && fill ≤ 98304
    let s := s.modPort p fun q => { q with dataFill := fill, pausing := q.pausing && !ends }
    if ends then s.sendPfc p 0 else s

/-! ### Receiving (R411, R412) -/

/-- The space of a frame: key, source, channel, ACK or not. -/
def RxSpace.isFor (x : RxSpace) (key src chan : Nat) (ack : Bool) : Bool :=
  x.key == key && x.src == src && x.chan == chan && x.ack == ack

/-- The receiving space, and the state with one replaced. -/
def State.rxSpace (s : State) (key src chan : Nat) (ack : Bool) : RxSpace :=
  (s.sys.spaces.find? fun x => x.isFor key src chan ack).getD { key := key, src := src, chan := chan, ack := ack }
def State.setRx (s : State) (x : RxSpace) : State :=
  s.modSys fun y => { y with spaces := x :: y.spaces.filter fun z => !z.isFor x.key x.src x.chan x.ack }

/-- The receiving space of a reliable channel that has frames, whatever its key. -/
def State.rxChannel (s : State) (src chan : Nat) : Option RxSpace :=
  s.sys.spaces.find? fun x => x.src == src && x.chan == chan && !x.ack

/-- Credits of a channel: its buffers, less those that hold frames below next_expected (R417); 64 on channel 1. -/
def State.credits (s : State) (src chan : Nat) (next : Nat) : Nat :=
  if chan = 1 then 64
  else match s.flowSlot 2 src chan with
    | none => 0
    | some k => s.slotNat k 0x73 - s.sys.buffers.countP fun b => b.src == src && b.chan == chan && b.seq < next

/-- next_expected advanced over held frames. -/
def advanceNext (held : List Nat) : Nat → Nat → Nat
  | 0, n => n
  | k + 1, n => if held.contains n then advanceNext held k (n + 1) else n

/-- A space with an accepted sequence noted; the first frame of a space sets where its window begins (DEDUCED, log entry 40). -/
def RxSpace.take (x : RxSpace) (reliable : Bool) (q : Nat) : RxSpace :=
  let x := { x with top := max x.top q }
  if !reliable then x
  else
    let start := if x.next = 0 then q else x.next
    let held := insertAsc q x.held
    let next := advanceNext held (held.length + 1) start
    { x with next := next, held := held.filter (next ≤ ·) }

/-- Whether a space accepts a sequence (R412). -/
def State.seqAccepted (s : State) (x : RxSpace) (reliable : Bool) (q : Nat) : Bool :=
  if !reliable then x.top < q
  else if x.next = 0 then true
  else x.next ≤ q && q < x.next + s.credits x.src x.chan x.next && !x.held.contains q

/-- Check 1 of R411. -/
def State.cwWellFormed (s : State) (b : Bytes) : Bool :=
  let len := beAt b 16 2
  40 ≤ b.length && b.length == 40 + len && len ≤ 8224 && fieldAt b 0 4 4 == 1 && fieldAt b 0 0 4 == 0
    && 1 ≤ byteAt b 1 && byteAt b 1 ≤ 9 && fieldAt b 2 2 6 == 0 && fieldAt b 6 4 4 == 0 && byteAt b 7 == 0
    && allZero (slice b 18 6) && cwChannelOk (byteAt b 1) (byteAt b 3) && byteAt b 5 == s.sys.node && byteAt b 4 < 48
    && (fieldAt b 2 0 1 == 0) == (fieldAt b 6 0 4 == 0)

/-- A well-formed frame opened: check 2 of R411. -/
def State.cwOpen (s : State) (b : Bytes) : Option CwFrame :=
  let n := b.length - 40
  let f : CwFrame :=
    ⟨byteAt b 1, fieldAt b 6 0 4, bitOf (byteAt b 2) 1, byteAt b 3, byteAt b 4, byteAt b 5, beAt b 8 8, []⟩
  (s.cwKey f.owner f.keySlot).bind fun k =>
    (gcmOpen k.key (f.nonce k.salt) (b.take 24) (slice b 24 n) (b.drop (24 + n))).map fun p => { f with payload := p }

/-- Whether a payload of a type has its length and its reserved fields zero (R22, R400, R409, R413, R416, R427; DEDUCED, log entry 44
for JOIN, JOIN_ACCEPT and FLOW_RESET). -/
def cwPayloadOk (type : Nat) (b : Bytes) : Bool :=
  if type = 1 then
    32 ≤ b.length && fieldAt b 14 3 5 == 0 && fieldAt b 14 0 3 ≤ 6 && fieldAt b 15 3 5 == 0
  else if type = 2 then b.length == 24 && allZero (slice b 18 6)
  else if type = 3 then b.length == 48 && fieldAt b 35 2 6 == 0 && allZero (slice b 42 6)
  else if type = 4 then
    (b.length == 48 || b.length == 112) && fieldAt b 10 0 3 ≤ 1 && fieldAt b 10 4 4 == 0 && allZero (slice b 46 2)
  else if type = 5 then b.length == 20
  else if type = 6 then b.length == 8
  else if type = 9 then b.length == 0
  else 8 ≤ b.length && byteAt b 3 == 0

/-- Acceptance of a causeway frame (R411): the frame, where it is accepted, and the state. A payload whose header breaks its format is
dropped with the frame, before its sequence is taken (R22). -/
def State.cwAccept (s : State) (b : Bytes) : Option CwFrame × State :=
  if !s.cwWellFormed b then (none, s.bump 0x2902 3)
  else match s.cwOpen b with
    | none => (none, (s.bump 0x2902 4).raiseOnce 0x700F 0)
    | some f =>
      if !cwPayloadOk f.type f.payload then (none, s.bump 0x2902 3) else
      let key := cwKeyNo f.owner f.keySlot
      let ack := f.type == 2
      let x := s.rxSpace key f.src f.chan ack
      let later := x.top / 2 ^ 48 < f.seq / 2 ^ 48
      let s := if later && !ack && 2 ≤ f.chan then s.releaseBuffers fun u => u.src == f.src && u.chan == f.chan else s
      let x : RxSpace := if later then { key := key, src := f.src, chan := f.chan, ack := ack } else x
      let old := f.seq / 2 ^ 48 < x.top / 2 ^ 48
      if old || !s.seqAccepted x (cwReliable f.type) f.seq then (none, s.bump 0x2902 5)
      else (some f, (s.setRx (x.take (cwReliable f.type) f.seq)).bump 0x2902 2)

/-- A causeway frame received on a port: nothing on a port whose link is down; a shedding device keeps only the causeway port
(R436, R444, R561). -/
def State.cwReceive (s : State) (p : EthNo) (src b : Bytes) : Option CwFrame × State :=
  if !s.linkUp p || s.udpRoom p src < b.length || (s.nat 0x2700 1 != 0 && s.causewayPort != some p) then (none, s)
  else (s.bump (ethIndex p) 0x20).cwAccept b

/-! ### Acknowledgements (R413) -/

/-- The payload of an ACK of a channel. -/
def State.ackPayload (s : State) (src chan : Nat) : Bytes :=
  let x := (s.rxChannel src chan).getD { key := 0, src := src, chan := chan, ack := false }
  let bits := ((List.range 64).map fun i => if x.held.contains (x.next + 1 + i) then 2 ^ i else 0).sum
  toBe 8 x.next ++ toBe 8 (if x.next = 0 then 0 else bits) ++ [byte (s.credits src chan x.next), byte chan] ++ zeros 6

/-- An ACK of a channel sent to its sender. -/
def State.sendAck (s : State) (src chan : Nat) : State :=
  let s := s.cwOnce 2 src chan (s.chanOwner src chan) (s.ackPayload src chan)
  match s.rxChannel src chan with
  | some x => s.setRx { x with ackedAt := s.now }
  | none => s

/-- A cut frame sent again counts for its slot (0x30ss:75), and for the device (0x2902:06). -/
def State.countAgain (s : State) (dest chan : Nat) : State :=
  let s := s.bump 0x2902 6
  match s.flowSlot 1 dest chan with
  | some k => s.bump (slotIndex k) 0x75
  | none => s

/-- What a sender makes of an ACK's payload from a node (R413, R414). -/
def State.takeAck (s : State) (src : Nat) (p : Bytes) : State :=
  let chan := byteAt p 17
  let f := s.flow src chan
  let named := beAt p 0 8
  let received := beAt p 8 8
  let owner := s.chanOwner src chan
  let key := cwKeyNo owner (s.cwSendSlot owner)
  let fresh := kvGet 0 key s.sys.sessions * 2 ^ 48 + kvGet 0 (cwCounterNo key src chan 0) s.sys.counters
  let low := (f.unacked.map (·.seq)).min?.getD fresh
  let next := if named = 0 then low else named
  let holds (q : Nat) : Bool := q < next || (next < q && named != 0 && received.testBit (q - next - 1))
  let later (q : Nat) : Nat := (List.range 64).countP fun i => received.testBit i && q ≤ next + i
  let left := f.unacked.filter fun u => !holds u.seq
  let again := left.filter fun u => !u.fast && 3 ≤ later u.seq
  let left := left.map fun u => if !u.fast && 3 ≤ later u.seq then { u with fast := true } else u
  let opened := named == 0 && f.resetDue
  let s := s.setFlow { f with
    unacked := left
    limit := some (next + byteAt p 16)
    failed := f.failed && !opened
    resetDue := f.resetDue && !opened
    resetAt := if opened then none else f.resetAt }
  let s := s.each again fun s u => (s.countAgain src chan).cwSend src (2 ≤ chan) u.bytes
  s.pumpFlow src chan (s.flow src chan).waiting.length

/-! ### Failed flows (R414) -/

/-- The frames of a slot that have no outcome end failed. -/
def State.failFrames (s : State) (k : SlotNo) (code : Nat) : State :=
  s.each s.slots[k].frames fun s f => s.finishFrame k f.number .failed code

/-- A flow fails. -/
def State.failFlow (s : State) (dest chan : Nat) : State :=
  let s := (s.raise 0x700E).bump 0x2902 7
  let s := s.setFlow { s.flow dest chan with failed := true }
  let s := match s.flowSlot 1 dest chan with
    | some k => s.failFrames k 0x700E
    | none => s
  s.setFlow { dest := dest, chan := chan, failed := 2 ≤ chan, resetDue := 2 ≤ chan }

/-- When the oldest timeout of a flow expires, and the frame it is for. -/
def TxFlow.due (f : TxFlow) : Option (Nat × SentFrame) :=
  f.unacked.foldl (fun (b : Option (Nat × SentFrame)) u =>
    let t := u.sentAt + 4000 * 2 ^ u.again
    match b with
    | none => some (t, u)
    | some (t', _) => if t < t' then some (t, u) else b) none

/-- A retransmission timeout of a flow expires: its frame is sent again, or the flow fails at the seventh. -/
def State.retransmit (s : State) (dest chan : Nat) : State :=
  let f := s.flow dest chan
  match f.due with
  | none => s
  | some (t, u) =>
    let s := s.at_ t
    if 6 ≤ u.again then s.failFlow dest chan
    else
      let s := s.setFlow { f with
        unacked := f.unacked.map fun x => if x.seq = u.seq then { x with again := x.again + 1, sentAt := s.now } else x }
      (s.countAgain dest chan).cwSend dest (2 ≤ chan) u.bytes

end Sys2Proof.Machine
end

