-- ==== Sys2Proof/Machine/Flags.lean ====
section
/-! DEFINITION. The integer arithmetic of spec/08_arithmetic.md, 09_operators.md and the optimiser of
13_adaptation.md: rounding, saturation, random bits, tables, rotation. Values are unbounded integers (R18). -/

namespace Sys2Proof.Machine

/-- `rne_shr` of R18: division by 2^s, ties to the even neighbour. -/
def rneShr (x : Int) (s : Nat) : Int :=
  if s = 0 then x
  else
    let q := x / (2 ^ s : Nat)
    let r := x - q * (2 ^ s : Nat)
    let half : Int := (2 ^ (s - 1) : Nat)
    if half < r ∨ (r = half ∧ q % 2 = 1) then q + 1 else q

/-- `round(z / n)` with ties to the even integer, for positive `n` (R153, R250). -/
def roundDiv (z : Int) (n : Nat) : Int :=
  let q := z / n
  let r := z % n
  if (n : Int) < 2 * r ∨ (2 * r = n ∧ q % 2 = 1) then q + 1 else q

/-- A value by a signed power of two: exact for `s >= 0`, else `rne_shr` (R219). -/
def shiftedSum (sg : Int) (s : Int) : Int :=
  if 0 ≤ s then sg * (2 ^ s.toNat : Nat) else rneShr sg (-s).toNat

/-- The running accumulator of R219: shifted group sums added in order, each addition saturating at 40 bits. -/
def accumulate (groups : List (Int × Int)) : Int :=
  groups.foldl (fun acc g => satS 40 (acc + shiftedSum g.1 g.2)) 0

/-- An element type of R213. -/
inductive ElemType where
  | int8 | int16 | int32 | u16
  deriving DecidableEq, Repr

/-- Bytes of an element. -/
def ElemType.size : ElemType → Nat
  | .int8 => 1 | .int16 => 2 | .int32 => 4 | .u16 => 2

/-- Saturation to an element type (R220, R224). -/
def ElemType.sat (t : ElemType) (v : Int) : Int :=
  match t with
  | .int8 => satS 8 v | .int16 => satS 16 v | .int32 => satS 32 v | .u16 => satU 16 v

/-- The element a little-endian byte string spells. -/
def ElemType.read (t : ElemType) (bs : Bytes) : Int :=
  match t with
  | .int8 => signed 8 (leNat bs) | .int16 => signed 16 (leNat bs) | .int32 => signed 32 (leNat bs)
  | .u16 => leNat bs

/-- The bytes of an element. -/
def ElemType.write (t : ElemType) (v : Int) : Bytes := toLe t.size (unsigned (8 * t.size) v)

/-- The type a 2-bit code of R200 names. -/
def elemTypeOf : Nat → ElemType
  | 0 => .int8 | 1 => .int16 | 2 => .int32 | _ => .u16

/-- The output step of a matrix or skerry op (R220). -/
def outputStep (t : ElemType) (acc : Int) (outShift : Nat) : Int := t.sat (rneShr acc outShift)

/-- `sr_bits` of R224. -/
def srBits (seed opId e : Nat) : Nat :=
  let m := 2 ^ 64
  let z := (seed + opId * 2 ^ 32 + e * 0x9E3779B97F4A7C15) % m
  let z := (z ^^^ (z >>> 30)) * 0xBF58476D1CE4E5B9 % m
  let z := (z ^^^ (z >>> 27)) * 0x94D049BB133111EB % m
  z ^^^ (z >>> 31)

/-- The rounding an op uses: half to even, or stochastic with the random bits `r` of the element (R224). -/
inductive Rounding where
  | even
  | stochastic (r : Nat)
  deriving DecidableEq, Repr

/-- `round_shift` of R224. -/
def roundShift (m : Rounding) (z : Int) (s : Nat) : Int :=
  match m with
  | .even => rneShr z s
  | .stochastic r => if s = 0 then z else (z + ((r % 2 ^ s : Nat) : Int)) / (2 ^ s : Nat)

/-- The element index of R225. -/
def elemIndex (ix0 c r j : Nat) : Nat := ix0 * 2 ^ 18 + c * 2 ^ 10 + r * 2 ^ 5 + j

/-- LUT16 of R229 over the 65 points of its table. -/
def lut16 (points : List Int) (x : Int) : Int :=
  let u := (x + 32768).toNat
  let i := u / 1024
  let f := u % 1024
  let p k := points.getD k 0
  p i + rneShr ((p (i + 1) - p i) * f) 10

/-- The sign of the 32-point Hadamard matrix at (i, k): +1 when `popcount(i & k)` is even (R230). -/
def hadamard (i k : Nat) : Int :=
  if ((List.range 5).countP fun b => (i &&& k).testBit b) % 2 = 0 then 1 else -1

/-- The sign d_k of the mask word (R230). -/
def signOf (mask k : Nat) : Int := if mask.testBit k then -1 else 1

/-- Output channel `i` of the forward rotation of 32 channels, before the shift (R230). -/
def rotateForward (mask : Nat) (x : List Int) (i : Nat) : Int :=
  ((List.range 32).map fun k => hadamard i k * signOf mask k * x.getD k 0).sum

/-- Output channel `i` of the inverse rotation, before the shift (R230). -/
def rotateInverse (mask : Nat) (x : List Int) (i : Nat) : Int :=
  signOf mask i * ((List.range 32).map fun k => hadamard i k * x.getD k 0).sum

/-- The least `t` with `m <= 127 * 2^t` (R353, R354). -/
def fitShift (m : Nat) : Nat := if m ≤ 127 then 0 else Nat.log2 ((m - 1) / 127) + 1

/-- The largest magnitude of a list. -/
def maxAbs (xs : List Int) : Nat := xs.foldl (fun a x => max a x.natAbs) 0

/-- The optimiser state of one group: the record of R352 without its spare bytes. -/
structure OptGroup where
  g : List Int
  m : List Int
  v : List Int
  eg : Int
  em : Int
  ev : Int
  c : Int
  ea : Int
  deriving DecidableEq, Repr

/-- The shift and exponent of a quantised result: an exponent below -128 is held there and the shift grows by
the same amount; one above 127 is held at 127 (R352). -/
def holdExp (e : Int) (t : Nat) : Int × Nat :=
  if e < -128 then (-128, t + (-128 - e).toNat) else if 127 < e then (127, t) else (e, t)

/-- MOMENT1 of R353 on one group; `rnd j` is the rounding of lane j. -/
def optMoment1 (rnd : Nat → Rounding) (a : List Int) (b1 : Nat) (r : OptGroup) : OptGroup :=
  let s0 := fitShift (maxAbs a)
  let (eg', s) := holdExp (r.ea + s0) s0
  let g := (List.range 32).map fun j => satS 8 (roundShift (rnd j) (a.getD j 0) s)
  let e0 := min r.em eg'
  let z := (List.range 32).map fun j =>
    r.m.getD j 0 * (2 ^ (r.em - e0).toNat : Nat) * ((2 ^ b1 : Nat) - 1) + g.getD j 0 * (2 ^ (eg' - e0).toNat : Nat)
  let t0 := fitShift (maxAbs z)
  let (em', t) := holdExp (e0 - b1 + t0) t0
  { r with g := g, eg := eg', em := em', m := (List.range 32).map fun j => satS 8 (roundShift (rnd j) (z.getD j 0) t) }

/-- MOMENT2 of R354. -/
def optMoment2 (rnd : Nat → Rounding) (b2 : Nat) (r : OptGroup) : OptGroup :=
  let e0 := min r.ev (2 * r.eg)
  let z := (List.range 32).map fun j =>
    r.v.getD j 0 * (2 ^ (r.ev - e0).toNat : Nat) * ((2 ^ b2 : Nat) - 1)
      + r.g.getD j 0 * r.g.getD j 0 * (2 ^ (2 * r.eg - e0).toNat : Nat)
  let t0 := fitShift (maxAbs z)
  let (ev', t) := holdExp (e0 - b2 + t0) t0
  { r with ev := ev', v := (List.range 32).map fun j => satS 8 (roundShift (rnd j) (z.getD j 0) t) }

/-- MASTER of R355 on the 32 masters of one group, with the table `T` and the step limit `l`. -/
def optMaster (rnd : Nat → Rounding) (table : Nat → Int) (l : Nat) (r : OptGroup) (w : List Int) : List Int :=
  let odd := r.ev % 2 = 1
  let e := if odd then r.ev - 1 else r.ev
  let d := r.em - e / 2 + r.c
  (List.range 32).map fun j =>
    let u := (if odd then 2 * r.v.getD j 0 else r.v.getD j 0).toNat
    let z := r.m.getD j 0 * table u
    let step := if 0 ≤ d then z * (2 ^ d.toNat : Nat) else roundShift (rnd j) z (-d).toNat
    satS 16 (w.getD j 0 - clampInt (-((2 ^ l : Nat) - 1)) ((2 ^ l : Nat) - 1) step)

end Sys2Proof.Machine
end

