-- ==== Sys2Proof/Machine/FenceCore.lean ====
section
/-! DEFINITION. Fencing: its triggers, what beginning a fence does, and what an uncorrectable word starts
(spec/19_faults_and_availability.md R508 to R513, R518). -/

namespace Sys2Proof.Machine

/-- A second fault noted while an isle is fencing (R513). -/
def State.secondFault (s : State) (k : IsleNo) : State :=
  ({ s with avail := { s.avail with secondFault := true } }.bump 0x2300 0x0D).raise 0x3F03 { isle := k }

/-- Bit `k` of every tile counter's isle_mask set or cleared (R510 step 1, R517). -/
def State.maskIsle (s : State) (k : IsleNo) (on : Bool) (p : CounterNo → Bool) : State :=
  s.each (allCounters.filter p) fun s n =>
    s.modCounter n fun t =>
      { t with isleMask := if on then t.isleMask ||| (1#16 <<< k.val) else t.isleMask &&& ~~~(1#16 <<< k.val) }

/-- An isle reset: its running ops are discarded, its contexts and channels emptied (R510 step 6). -/
def State.resetIsle (s : State) (k : IsleNo) : State :=
  s.modIsle k fun i =>
    { i with
      ctx := i.ctx.map fun x => x.emptied
      retries := []
      dma := { i.dma with chans := i.dma.chans.map fun c => c.cleared } }

/-- The step of the frame that a counter serves re-run, without counting against R278 (R510 step 4). -/
def State.rerunLayer (s : State) (n : CounterNo) : State :=
  match s.layerOf n, s.counters[n].serves with
  | some l, some (k, f) => s.rerunStep k f l.step
  | _, _ => s

/-- Step 4 of R510 for one counter: the indices handed to isle `k` without a done report are requeued, or their step
is re-run. -/
def State.returnTiles (s : State) (k : IsleNo) (n : CounterNo) : State :=
  let lost := (s.counters[n].handed.filter fun h => h.isle == k && !h.reported).map (·.index)
  if lost = [] ∨ s.counters[n].phase = .closed then s
  else
    let r := lost.foldl (fun (p : Option TileCounter) i => p.bind (·.requeue i)) (some s.counters[n])
    match r with
    | some t => s.modCounter n fun _ => t
    | none => s.rerunLayer n

/-- Whether an isle holds a linked remote entry that names isle `k` (R510 step 5). -/
def State.linkedTo (s : State) (j k : IsleNo) : Bool := s.isles[j].remotes.toList.any fun r => r.linked && r.isle == k

/-- Step 5 of R510: the contexts that use a link to isle `k` stop and their steps run again. -/
def State.restepLinked (s : State) (k : IsleNo) : State :=
  let js := allIsles.filter fun j => j != k && s.linkedTo j k
  let work := (js.flatMap fun j => allCtx.map fun c => (s.ctx j c).serves).dedup
  let s := s.each js fun s j => s.each allCtx fun s c => s.stopCtx j c
  s.each work fun s v =>
    match v with
    | .frame sl n step => s.rerunStep sl n step
    | _ => s

/-- The fence of an isle begins (R510). -/
def State.startFence (s : State) (k : IsleNo) (reason : Nat) : State :=
  let s := if s.someFencing then s.secondFault k else s
  let s := s.modIsle k fun i =>
    { i with health := { i.health with phase := .fencing, reason := reason, fenceBegan := s.tick.number } }
  let s := (s.setNum 0x2300 (0x20 + k) reason).raise 0x3F01 { isle := k }
  let s := s.maskIsle k false fun _ => true
  let s := s.abandonWhere 2 fun _ st => st.isles.contains k
  let s := s.each allCtx fun s c => s.stopCtx k c
  let s := s.each (engineChans (.isle k)) fun s c =>
    if (s.chan (.isle k) c).holds then s.abortChan (.isle k) c else s
  let s := s.each allCounters fun s n => s.returnTiles k n
  let s := s.restepLinked k
  (if reason = 5 then s.resetIsle k else s).settleError

/-- A trigger on an isle: it begins fencing when available; a testing isle goes back to fenced (R508, R509, R517). -/
def State.trigger (s : State) (k : IsleNo) (reason : Nat) : State :=
  match s.isles[k].health.phase with
  | .available => s.startFence k reason
  | .testing =>
    ((s.modIsle k fun i => { i with health := { i.health with phase := .fenced } }).raise 0x3F09
      { isle := k }).settleError
  | _ => s

/-- Reference cycles in a second (R9). -/
def second : Nat := 100000000

/-- The counters whose layers keep weights or tables in a row (R518). -/
def State.weightCounters (s : State) (row : Nat) (n : CounterNo) : Bool :=
  (s.layerOf n).any fun l => l.weightRows.any fun r => r.1 ≤ row && row ≤ r.2

/-- An uncorrectable strong word met in a row of an isle, raised and charged (R274, R508 reason 1, R513, R518). A word that begins a fence
is one second fault with it. -/
def State.noteUncorrectable (s : State) (k : IsleNo) (row : Nat) (c : Concern := { isle := k }) : State :=
  let s := s.raise 0x4002 c
  let again := s.isles[k].health.uncorrectableAt.any fun (t : Nat) => s.now ≤ t + s.nat 0x2300 7 * second
  let s := if s.someFencing && !(again && s.isles[k].health.phase == .available) then s.secondFault k else s
  if again then s.trigger k 1
  else
    let s := s.modIsle k fun i => { i with health := { i.health with uncorrectableAt := some s.now } }
    if allCounters.any (s.weightCounters row) then
      (s.maskIsle k false (s.weightCounters row)).modIsle k fun i =>
        { i with health := { i.health with reloads := kvPut row false i.health.reloads } }
    else s

/-- A corrected strong word of an isle, counted, raised and charged (R274, R508 reason 2). -/
def State.noteCorrected (s : State) (k : IsleNo) : State :=
  let s := s.modCnt k fun c => { c with guardCorrected := c.guardCorrected + 1 }
  let s := s.raiseOnce 0x4001 k { isle := k }
  let recent := (s.isles[k].health.corrections.filter fun t => s.now < t + 60 * second) ++ [s.now]
  let s := s.modIsle k fun i => { i with health := { i.health with corrections := recent } }
  if s.nat 0x2300 8 < recent.length then s.trigger k 2 else s

/-- A light parity error of an isle charged to its fence trigger; `fail` when it raised 0x4004 (R508 reason 3,
R513). -/
def State.noteParity (s : State) (k : IsleNo) (fail : Bool) : State :=
  let recent := (s.isles[k].health.parityTicks.filter fun t => s.tick.number < t + 64) ++ [s.tick.number]
  let fences : Bool := s.nat 0x2300 9 < recent.length && s.isles[k].health.phase == .available
  let s := if fail && s.someFencing && !fences then s.secondFault k else s
  let s := s.modIsle k fun i => { i with health := { i.health with parityTicks := recent } }
  if s.nat 0x2300 9 < recent.length then s.trigger k 3 else s

/-- An op-memory parity error charged to its fence trigger (R508 reason 4). -/
def State.noteOpParity (s : State) (k : IsleNo) : State :=
  let recent := (s.isles[k].health.opParityTicks.filter fun t => s.tick.number < t + 64) ++ [s.tick.number]
  let s := s.modIsle k fun i => { i with health := { i.health with opParityTicks := recent } }
  if 2 ≤ recent.length then s.trigger k 4 else s

end Sys2Proof.Machine
end

