-- ==== Sys2Proof/Machine/Descriptor.lean ====
section
/-! DEFINITION. The transfer descriptor of a DMA channel: its fields, its rows in transfer order and their addresses
(spec/12_movers_and_regions.md R321). -/

namespace Sys2Proof.Machine

/-- A transfer descriptor's fields (R321). -/
structure Transfer where
  srcKind : Nat
  dstKind : Nat
  tagSrc : Bool
  tagDst : Bool
  notify : Bool
  codec : Nat
  srcAtoll : AtollNo
  dstAtoll : AtollNo
  src : Nat
  dst : Nat
  len : Nat
  rows : Nat
  planes : Nat
  srcLine : Nat
  srcPlane : Nat
  dstLine : Nat
  dstPlane : Nat
  deriving DecidableEq, Repr

/-- The transfer a descriptor spells. -/
def transferOf (d : Bytes) : Transfer :=
  { srcKind := fieldAt d 1 0 2, dstKind := fieldAt d 1 2 2, tagSrc := bitOf (byteAt d 2) 0, tagDst := bitOf (byteAt d 2) 1
    notify := bitOf (byteAt d 2) 2, codec := fieldAt d 3 0 3, srcAtoll := Fin.ofNat 64 (byteAt d 4)
    dstAtoll := Fin.ofNat 64 (byteAt d 5), src := leAt d 8 8, dst := leAt d 16 8, len := leAt d 24 3, rows := leAt d 28 2
    planes := leAt d 30 2, srcLine := leAt d 32 4, srcPlane := leAt d 36 4, dstLine := leAt d 40 4, dstPlane := leAt d 44 4 }

/-- A scratchpad end. -/
def isSp (kind : Nat) : Bool := kind == 1 || kind == 2

/-- A push destination (dst_addr bit 24, R321). -/
def Transfer.push (t : Transfer) : Bool := t.dstKind == 1 && t.dst.testBit 24

/-- Nothing to move (R323). -/
def Transfer.zeroSize (t : Transfer) : Bool := t.len == 0 || t.rows == 0 || t.planes == 0

/-- Units of a row at an end of a kind: words, or bytes. -/
def Transfer.units (t : Transfer) (kind : Nat) : Nat := if isSp kind then t.len / 32 else t.len

/-- The address of an end without its isle. -/
def endAddr (kind a : Nat) : Nat := if isSp kind then bitsOf a 0 20 else a

/-- The isle of a scratchpad end of an engine's transfer. -/
def endIsle (e : Engine) (kind a : Nat) : IsleNo :=
  match e with
  | .isle k => if kind = 2 then Fin.ofNat 16 (bitsOf a 20 4) else k
  | .device => 0

/-- First and last unit of an end of which each row takes `n` units. -/
def endSpan (t : Transfer) (addr line plane n : Nat) : Nat × Nat :=
  (addr, addr + (t.planes - 1) * plane + (t.rows - 1) * line + n - 1)

/-! ### Rows in transfer order (R321) -/

/-- The rows still to move from a transfer-order offset: offset of the first byte, plane, row, bytes into the row. -/
def Transfer.rowsFrom (t : Transfer) (start : Nat) : List (Nat × Nat × Nat × Nat) :=
  (List.range (t.planes * t.rows)).filterMap fun i =>
    let at_ := i * t.len
    if at_ + t.len ≤ start then none else some (max start at_, i / t.rows, i % t.rows, max start at_ - at_)

/-- The address of a byte of a row at an end, in the end's units. -/
def rowAddr (kind a line plane p r b : Nat) : Nat :=
  endAddr kind a + p * plane + r * line + (if isSp kind then b / 32 else b)

/-- Bytes of a transfer. -/
def Transfer.total (t : Transfer) : Nat := t.planes * t.rows * t.len

end Sys2Proof.Machine
end

