-- ==== Sys2Proof/Machine/Scratch.lean ====
section
/-! DEFINITION. The scratchpad: banks, guard and owner checks of one word, writes at the bank, and the tags of atolls
(spec/10_scratchpad.md R257 to R285). -/

namespace Sys2Proof.Machine

/-! ### Banks (R263) -/

/-- A 6-bit value rotated left by 3 places. -/
def rotl3 (v : Nat) : Nat := v * 8 % 64 + v / 8

/-- The bank of a word under a hash mode (R263). -/
def bankOf (mode word : Nat) : Nat :=
  let f0 := bitsOf word 0 6
  let f1 := bitsOf word 6 6
  let f2 := bitsOf word 12 6
  let f3 := bitsOf word 18 2
  match mode with
  | 0 => f0
  | 1 => f0 ^^^ f1
  | 2 => f0 ^^^ f1 ^^^ f2 ^^^ f3
  | _ => f0 ^^^ f1 ^^^ rotl3 f2 ^^^ (f3 * 16)

/-- Words of an isle, and its rows (R257). -/
def spWords : Nat := 786432
def spRows : Nat := 12288

/-! ### One word -/

/-- The row of a word. -/
def rowOf (word : Nat) : Nat := word / 64

/-- Whether an attribute entry is enabled and covers a row. -/
def AttrEntry.covers (e : AttrEntry) (row : Nat) : Bool := e.rows != 0 && e.baseRow ≤ row && row < e.baseRow + e.rows

/-- Hash mode and guard class of a row: those of its entry, else the default's (R261). -/
def Scratchpad.attr (p : Scratchpad) (row : Nat) : Nat × Bool :=
  match p.attrs.toList.find? (·.covers row) with
  | some e => (e.hashMode, e.strong)
  | none => (p.defaultHash, p.defaultStrong)

/-- What the guard finds in a word (R273). -/
inductive GuardResult where
  | clean | corrected | uncorrectable | parity
  deriving DecidableEq, Repr

/-- The parity group of a light word that a bit belongs to: eight data groups and the owner tag's (R273). -/
def parityGroup (b : Nat) : Nat := if b < 256 then b / 32 else if b < 260 then 8 else (b - 260) % 9

/-- The guard's finding for a word with flipped bits (R273). -/
def guardOf (strong : Bool) (word : Nat) (bits : List Nat) : GuardResult :=
  if bits = [] then .clean
  else if strong then
    if bits.length ≤ 2 then .corrected
    else if bits.length = 3 then .uncorrectable
    else if Config.escapesDetection word bits.length then .clean else .uncorrectable
  else if (List.range 9).any fun g => (bits.countP fun b => parityGroup b == g) % 2 == 1 then .parity
  else .clean

/-- The flipped bits of a word. -/
def Scratchpad.flips (p : Scratchpad) (word : Nat) : List Nat := kvGet [] word p.upsets

/-- A byte string with the flipped data bits inverted. -/
def flipBits (bs : Bytes) (bits : List Nat) : Bytes :=
  bits.foldl (fun bs b => if b < 256 then bs.modify (b / 8) (fun x => x ^^^ (1#8 <<< (b % 8))) else bs) bs

/-- The 32 bytes a read of a word returns: stored data, corrected where the guard corrects. -/
def Scratchpad.peek (p : Scratchpad) (word : Nat) : Bytes :=
  let bs := cellsRead p.cells (32 * word) 32
  let bits := p.flips word
  if guardOf (p.attr (rowOf word)).2 word bits = .corrected then bs else flipBits bs bits

/-- The owner tag read with a word; a light word's tag reads with its flips. -/
def Scratchpad.tag (p : Scratchpad) (word : Nat) : Nat :=
  let t := kvGet 0 word p.tags
  let bits := p.flips word
  if guardOf (p.attr (rowOf word)).2 word bits = .corrected then t
  else bits.foldl (fun t b => if 256 ≤ b ∧ b < 260 then t ^^^ 2 ^ (b - 256) else t) t

/-- A row written to zero with owner tag 0 and valid check bits (R262). -/
def Scratchpad.zeroRow (p : Scratchpad) (row : Nat) : Scratchpad :=
  { p with
    cells := p.cells.filter fun c => c.1 / 2048 != row
    tags := p.tags.filter fun t => rowOf t.1 != row
    upsets := p.upsets.filter fun u => rowOf u.1 != row
    toFormat := p.toFormat.filter (· != row) }

/-- Bits of a word flip: a bit that flips twice is as before. -/
def Scratchpad.upset (p : Scratchpad) (word : Nat) (bits : List Nat) : Scratchpad :=
  let old := p.flips word
  let new := bits.foldl (fun l b => if l.contains b then l.filter (· != b) else insertAsc b l) old
  { p with upsets := kvSet [] word new p.upsets }

/-- The storage upsets a step meets, applied (they are what the world does to the storage). -/
def State.applyUpsets (s : State) (us : List Upset) : State :=
  s.each (us.filter fun u => u.word < spWords) fun s u => s.modSp u.isle (·.upset u.word u.bits)

/-- A read's or write's outcome at the bank: `none`, or the code of what stopped or marked it. -/
abbrev BankAnswer := Option Nat

/-- The guard's part of a read of a word (R274, R276): a correction is made and charged, a parity error counted. -/
def State.guardWord (s : State) (k : IsleNo) (word : Nat) : BankAnswer × State :=
  let p := s.isles[k].sp
  match guardOf (p.attr (rowOf word)).2 word (p.flips word) with
  | .clean => (none, s)
  | .corrected => (none, (s.modSp k fun p => { p with upsets := kvDel word p.upsets }).noteCorrected k)
  | .uncorrectable => (some 0x4002, s)
  | .parity => (some 0x4003, s.modCnt k fun c => { c with guardDetected := c.guardDetected + 1 })

/-- Whether owner `o` may read a word or combine into it: its tag is 0 or `o` (R272). -/
def ownerMay (tag : Nat) (o : OwnerNo) : Bool := tag == 0 || tag == (o : Nat)

/-- An access refused for its owner, counted (R272, R295). -/
def State.refuseOwner (s : State) (k : IsleNo) : BankAnswer × State :=
  (some 0x4005, s.modCnt k fun c => { c with ownerFaults := c.ownerFaults + 1 })

/-- A read of a word by an access of owner `o` (R272 to R276). -/
def State.readWord (s : State) (k : IsleNo) (word : Nat) (o : OwnerNo) : BankAnswer × State :=
  let (e, s) := s.guardWord k word
  if e = some 0x4002 ∨ ownerMay (s.isles[k].sp.tag word) o then (e, s) else s.refuseOwner k

/-- Lane width and operation of a bank operation: old and new lane values to the stored one (R267). -/
def BankOp.lane : BankOp → Option (Nat × (Nat → Nat → Nat))
  | .plain => none
  | .add32 => some (4, fun a b => (a + b) % 2 ^ 32)
  | .add16 => some (2, fun a b => (a + b) % 2 ^ 16)
  | .max8 => some (1, fun a b => if signed 8 a < signed 8 b then b else a)
  | .max16 => some (2, fun a b => if signed 16 a < signed 16 b then b else a)
  | .max32 => some (4, fun a b => if signed 32 a < signed 32 b then b else a)
  | .maxU16 => some (2, fun a b => max a b)

/-- The byte a write gives at offset `b`. -/
def WordWrite.at_ (w : WordWrite) (b : Nat) : Option Byte := (w.bytes.find? (·.1 == b)).map (·.2)

/-- The word a write leaves where `old` was (R267). -/
def WordWrite.combine (w : WordWrite) (old : Bytes) : Bytes :=
  match w.op.lane with
  | none => (List.range 32).map fun b => (w.at_ b).getD (old.getD b 0)
  | some (n, f) =>
    (List.range (32 / n)).flatMap fun l =>
      let before := slice old (l * n) n
      match w.at_ (l * n) with
      | none => before
      | some _ => toLe n (f (leNat before) (leNat ((List.range n).map fun b => (w.at_ (l * n + b)).getD 0)))

/-- A whole-word plain write (R269). -/
def WordWrite.whole (w : WordWrite) : Bool := w.op == .plain && w.bytes.length == 32 && !w.masked

/-- A write at its bank by an access of owner `o` (R267, R271, R272, R279). -/
def State.writeWord (s : State) (w : WordWrite) (o : OwnerNo) : BankAnswer × State :=
  if w.whole then (none, s.modSp w.isle fun p => p.put w.word (w.combine []) o)
  else
    match s.guardWord w.isle w.word with
    | (some e, s) => (some e, s)
    | (none, s) =>
      let p := s.isles[w.isle].sp
      if ownerMay (p.tag w.word) o then (none, s.modSp w.isle fun p => p.put w.word (w.combine (p.peek w.word)) o)
      else s.refuseOwner w.isle

/-- Words read in order; it stops at the first word that ends the access, and keeps a parity error it has met. -/
def State.readWords (s : State) (o : OwnerNo) : List (IsleNo × Nat) → BankAnswer × State
  | [] => (none, s)
  | (k, w) :: rest =>
    let (e, s) := s.readWord k w o
    if e.isSome && e != some 0x4003 then (e, s)
    else
      let (f, s) := State.readWords s o rest
      (f.or e, s)

/-- Words written in order; it stops at the first one that ends the access. A write whose old word fails its parity is not made, and the
others are (R279); the first such word is kept. -/
def State.writeWords (s : State) (o : OwnerNo) : List WordWrite → (BankAnswer × Option (IsleNo × Nat)) × State
  | [] => ((none, none), s)
  | w :: rest =>
    match s.writeWord w o with
    | (none, s) => State.writeWords s o rest
    | (some e, s) =>
      if e = 0x4003 then
        match State.writeWords s o rest with
        | ((none, _), s) => ((some e, some (w.isle, w.word)), s)
        | ((some f, at_), s) => if f = 0x4003 then ((some e, some (w.isle, w.word)), s) else ((some f, at_), s)
      else ((some e, some (w.isle, w.word)), s)

/-! ### Atolls (R280 to R285) -/

/-- Words of a slot. -/
def Atoll.slotWords (a : Atoll) : Nat := a.slotWordsM1 + 1

/-- The first word past the ring. -/
def Atoll.stop (a : Atoll) : Nat := a.base + a.slotCount * a.slotWords

/-- Whether an enabled atoll holds a word. -/
def Atoll.holds (a : Atoll) (w : Nat) : Bool := a.enable && a.base ≤ w && w < a.stop

/-- The slot of a word inside the ring. -/
def Atoll.slotOf (a : Atoll) (w : Nat) : Nat := (w - a.base) / a.slotWords

/-- The enabled atoll of an isle that holds a word (enabled atolls do not overlap, R281). -/
def IsleState.atollAt (i : IsleState) (w : Nat) : Option AtollNo := (List.finRange 64).find? fun n => i.atolls[n].holds w

/-- Slots between head and tail: what the tail is ahead of the head by. Where the two meet, the ring is passed all round
when the slot there is full, since a tail never stands on a full slot otherwise. -/
def Atoll.span (a : Atoll) : Nat :=
  if a.tail = a.head then (if a.full.contains a.head then a.slotCount else 0)
  else (a.tail + a.slotCount - a.head) % a.slotCount

/-- The tail moved over consecutive full slots, at most `n` of them (R284). -/
def Atoll.moveTail (a : Atoll) : Nat → Atoll
  | 0 => a
  | n + 1 => if a.full.contains a.tail then Atoll.moveTail { a with tail := (a.tail + 1) % a.slotCount } n else a

/-- The head moved over consecutive empty slots, at most `n` of them, with the count of slots passed (R284). -/
def Atoll.moveHead (a : Atoll) : Nat → Nat × Atoll
  | 0 => (0, a)
  | n + 1 =>
    if a.full.contains a.head then (0, a)
    else
      let r := Atoll.moveHead { a with head := (a.head + 1) % a.slotCount } n
      (r.1 + 1, r.2)

/-- Whether a change to these full slots is a crossing (R285). -/
def Atoll.crosses (a : Atoll) (full : List Nat) : Bool :=
  a.wmThreshold != 0 && a.full.length < a.wmThreshold && a.wmThreshold ≤ full.length

/-- The tags of an atoll replaced: the tail and then the head advance, the level, high water and crossings follow, and
each slot the head passes gives back a credit (R284, R285, R292). `ahead` is the span before the change. -/
def Atoll.retag (a : Atoll) (full : List Nat) : Atoll :=
  let ahead := a.span
  let b := Atoll.moveTail { a with full := full } (a.slotCount - ahead)
  let moved := (b.tail + a.slotCount - a.tail) % a.slotCount
  let moved := if moved = 0 ∧ b.full.contains b.tail ∧ ahead < a.slotCount then a.slotCount else moved
  let r := Atoll.moveHead b (ahead + moved)
  let level := full.length
  let crossed := a.crosses full
  { r.2 with
    owed := if a.creditEnable then r.2.owed + r.1 else r.2.owed
    highWater := max a.highWater level
    notice := a.notice || crossed
    crossings := if crossed then min 65535 (a.crossings + 1) else a.crossings }

/-- Whether a change of tags was a crossing that sets a clear notice (R285). -/
def noticeSet (old new : Atoll) : Bool := !old.notice && new.notice

/-- The state with an atoll changed. -/
def State.modAtoll (s : State) (k : IsleNo) (n : AtollNo) (f : Atoll → Atoll) : State :=
  s.modIsle k fun i => { i with atolls := i.atolls.set n (f i.atolls[n]) }

/-- The slots of some words of the ring, ascending. -/
def Atoll.slotsOf (a : Atoll) (ws : List Nat) : List Nat := ws.foldl (fun l w => insertAsc (a.slotOf w) l) []

/-- The slots of an atoll that the rows from an offset touch at a scratchpad end. -/
def Transfer.slotsFrom (t : Transfer) (a : Atoll) (dst : Bool) (start : Nat) : List Nat :=
  a.slotsOf ((t.rowsFrom start).flatMap fun (_, p, r, b) =>
    let w := if dst then rowAddr t.dstKind t.dst t.dstLine t.dstPlane p r b
      else rowAddr t.srcKind t.src t.srcLine t.srcPlane p r b
    (List.range ((t.len - b) / 32)).map (w + ·))

/-- Whether the slots a channel's transfer needs are all full or all empty; a tag that names no fitting atoll does not wait, so that its
check reports it (R325). -/
def IsleState.tagsReady (i : IsleState) (x : Channel) : Bool :=
  let t := transferOf x.active
  let src := i.atolls[t.srcAtoll]
  let dst := i.atolls[t.dstAtoll]
  let fits (a : Atoll) (w line plane : Nat) : Bool :=
    let span := endSpan t (endAddr 1 w) line plane (t.units 1)
    a.holds span.1 && a.holds span.2
  t.zeroSize ||
    ((!(t.tagSrc && t.srcKind == 1) || !fits src t.src t.srcLine t.srcPlane || (t.slotsFrom src false 0).all src.full.contains)
      && (!(t.tagDst && t.dstKind == 1) || !fits dst t.dst t.dstLine t.dstPlane || !(t.slotsFrom dst true 0).any dst.full.contains))

/-- A channel that has not begun its transfer waits on its slots or is queued as they stand; a wait begins when they cease to be ready
(R320, R325, R326). -/
def IsleState.judge (i : IsleState) (now : Nat) (x : Channel) : Channel :=
  if x.begun then x
  else match x.phase, i.tagsReady x with
    | .waiting, true => { x with phase := .queued }
    | .queued, false => { x with phase := .waiting, waitSince := now }
    | _, _ => x

/-- Every channel of an isle judged. -/
def IsleState.judged (i : IsleState) (now : Nat) : IsleState :=
  { i with dma := { i.dma with chans := i.dma.chans.map (i.judge now) } }

/-- The state with an isle's channels judged. -/
def State.judgeChans (s : State) (k : IsleNo) : State := s.modIsle k (·.judged s.now)

/-- The tags of an atoll changed together; 0x4009 on a crossing that sets a clear notice (R284, R285). The cycle of a crossing is kept
(R16). -/
def State.retag (s : State) (k : IsleNo) (n : AtollNo) (full : List Nat) (reads : List (Nat × Nat)) : State :=
  let a := s.isles[k].atolls[n]
  let b := { a.retag full with reads := reads, noticeAt := if a.crosses full then some s.now else a.noticeAt }
  let s := (s.modAtoll k n fun _ => b).judgeChans k
  if noticeSet a b then s.raise 0x4009 { isle := k } else s

/-- The tags an op's retirement changes in one atoll, together (R283, R284): each slot read under tags counts one reading op, and a slot
whose count reaches `readers` empties; each slot written under tags is full, its read count 0. -/
def State.touchSlots (s : State) (k : IsleNo) (n : AtollNo) (rd wr : List Nat) : State :=
  let a := s.isles[k].atolls[n]
  let rd := if a.readers = 0 then [] else rd
  let reads := rd.foldl (fun r i => kvSet 0 i (kvGet 0 i r + 1) r) a.reads
  let gone := rd.filter fun i => a.readers ≤ kvGet 0 i reads
  if rd = [] ∧ wr = [] then s
  else s.retag k n (wr.foldl (fun f i => insertAsc i f) (a.full.filter fun i => !gone.contains i))
    (reads.filter fun r => !gone.contains r.1 && !wr.contains r.1)

/-- Slots set full, their read counts 0 (R283). -/
def State.fillSlots (s : State) (k : IsleNo) (n : AtollNo) (slots : List Nat) : State := s.touchSlots k n [] slots

/-- Slots read under tags (R283). -/
def State.readSlots (s : State) (k : IsleNo) (n : AtollNo) (slots : List Nat) : State := s.touchSlots k n slots []

/-- Slots set empty, their read counts 0 (R283). -/
def State.emptySlots (s : State) (k : IsleNo) (n : AtollNo) (slots : List Nat) : State :=
  let a := s.isles[k].atolls[n]
  s.retag k n (a.full.filter fun i => !slots.contains i) (a.reads.filter fun r => !slots.contains r.1)

/-- Accesses of an isle that took the fallback path at a word, for any reason but a correction (R286). -/
def State.fallback (s : State) (k : IsleNo) (word n : Nat) : State :=
  let s := s.modCnt k fun m => { m with bankConflicts := m.bankConflicts + BitVec.ofNat 64 n }
  match s.isles[k].atollAt word with
  | some m => s.modAtoll k m fun a => { a with conflicts := a.conflicts + BitVec.ofNat 32 n }
  | none => s

/-- One access that comes from outside the isle's units: it takes the fallback path where `sure`, and otherwise where contention makes
it (R266, R269, R286; DESIGN CHOICE, log entry 14). -/
def State.outerAccess (s : State) (k : IsleNo) (word : Nat) (sure : Bool) : State :=
  if sure then s.fallback k word 1
  else
    let (d, s) := s.draw
    s.fallback k word (min 1 (Config.conflicts d))

end Sys2Proof.Machine
end

