-- ==== Sys2Proof/Machine/Operands.lean ====
section
/-! DEFINITION. The tile op format: fields, operands, the checks of orders 1 to 7, the words an op reads and writes, and
the placement of windows (spec/07_isle.md R189 to R203, R206, spec/09_operators.md R242 to R254). -/

namespace Sys2Proof.Machine

/-! ### Operand descriptors (R191) -/

/-- An operand descriptor. -/
structure Operand where
  base : Nat
  isle : Nat
  remote : Bool
  ixEnable : Bool
  ixSel : Fin 4
  ixStride : Nat
  line : Nat
  chan : Nat
  deriving DecidableEq, Repr

/-- The descriptor at byte `o` of a tile op. -/
def operandAt (op : Bytes) (o : Nat) : Operand :=
  let v := leAt op o 4
  { base := bitsOf v 0 20
    isle := bitsOf v 20 4
    remote := bitOf v 24
    ixEnable := bitOf v 25
    ixSel := Fin.ofNat 4 (bitsOf v 26 2)
    ixStride := bitsOf (leAt op (o + 4) 4) 0 20
    line := leAt op (o + 8) 2
    chan := leAt op (o + 10) 2 }

/-- Reserved bits of the descriptor at byte `o`. -/
def operandReserved (op : Bytes) (o : Nat) : Bool := bitsOf (leAt op o 4) 28 4 != 0 || bitsOf (leAt op (o + 4) 4) 20 12 != 0

/-- The origin of an operand (R191). -/
def Operand.origin (p : Operand) (ix : Vector (BitVec 20) 4) : Nat :=
  p.base + (if p.ixEnable then ix[p.ixSel].toNat * p.ixStride else 0)

/-- The isle an operand of isle `k` addresses, and whether it goes through the straits. -/
def Operand.place (p : Operand) (k : IsleNo) : IsleNo := if p.remote then Fin.ofNat 16 p.isle else k
def Operand.far (p : Operand) (k : IsleNo) : Bool := p.place k != k

/-! ### Header and class parameters -/

def opVersion (op : Bytes) : Nat := fieldAt op 0 4 4
def opCode (op : Bytes) : Nat := byteAt op 1
def opTagIn (op : Bytes) : Bool := bitOf (byteAt op 2) 0
def opTagOut (op : Bytes) : Bool := bitOf (byteAt op 2) 1
def opOrder (op : Bytes) : Nat := fieldAt op 6 0 3
def opFunc (op : Bytes) : Nat := byteAt op 52
def opRowMask (op : Bytes) : Nat := leAt op 44 4
def opColMask (op : Bytes) : Nat := leAt op 48 4
def opRows (op : Bytes) : Nat := fieldAt op 55 0 5 + 1
def opPrec4 (op : Bytes) : Bool := fieldAt op 52 0 2 == 1
def opGroup (op : Bytes) : Nat := 32 * 2 ^ fieldAt op 52 2 2
def opOutType (op : Bytes) : ElemType := elemTypeOf (fieldAt op 52 4 2)
def opMode (op : Bytes) : Nat := fieldAt op 52 6 2
def opKBlocks (op : Bytes) : Nat := byteAt op 53
def opArrays (op : Bytes) : List Nat := (List.range 8).filter fun i => (byteAt op 54).testBit i
def opShift (op : Bytes) : Nat := fieldAt op 56 0 6
def opTable (op : Bytes) : Nat := bitsOf (leAt op 58 3) 0 20
def opKh (op : Bytes) : Nat := fieldAt op 61 0 4 + 1
def opKw (op : Bytes) : Nat := fieldAt op 61 4 4 + 1
def opTaps (op : Bytes) : Nat := opKh op * opKw op
def opStrideY (op : Bytes) : Nat := 2 ^ fieldAt op 62 0 2
def opStrideX (op : Bytes) : Nat := 2 ^ fieldAt op 62 2 2
def opDilY (op : Bytes) : Nat := 2 ^ fieldAt op 62 4 2
def opDilX (op : Bytes) : Nat := 2 ^ fieldAt op 62 6 2
def opPadTop (op : Bytes) : Nat := fieldAt op 57 0 4
def opPadBottom (op : Bytes) : Nat := fieldAt op 57 4 4
def opPadLeft (op : Bytes) : Nat := fieldAt op 63 0 4
def opPadRight (op : Bytes) : Nat := fieldAt op 63 4 4
/-- Skerry parameters (R199). -/
def skXType (op : Bytes) : ElemType := match fieldAt op 52 0 2 with | 0 => .int8 | 1 => .int16 | _ => .u16
def skOrient1 (op : Bytes) : Bool := bitOf (byteAt op 53) 0
def skOut (op : Bytes) : Nat := fieldAt op 53 1 5 + 1
def skIn (op : Bytes) : Nat := byteAt op 54 + 1
/-- Vector parameters (R200). -/
def vXType (op : Bytes) : ElemType := elemTypeOf (fieldAt op 53 0 2)
def vWType (op : Bytes) : ElemType := elemTypeOf (fieldAt op 53 2 2)
def vYType (op : Bytes) : ElemType := elemTypeOf (fieldAt op 53 4 2)
def vMode (op : Bytes) : Nat := fieldAt op 53 6 2
def vChans (op : Bytes) : Nat := byteAt op 54 + 1
def vStochastic (op : Bytes) : Bool := bitOf (byteAt op 56) 6

/-- Classes of R190. -/
inductive OpClass where
  | control | matrix | skerry | vector
  deriving DecidableEq, Repr

/-- The class of an opcode; none when it is reserved (R190). -/
def opClass (code : Nat) : Option OpClass :=
  if 1 ≤ code ∧ code ≤ 8 then some .control
  else if 0x20 ≤ code ∧ code ≤ 0x22 then some .matrix
  else if code = 0x40 ∨ code = 0x41 then some .skerry
  else if 0x60 ≤ code ∧ code ≤ 0x68 then some .vector
  else none

/-- What a vector function uses beyond X and Y (R200, R201, R224). -/
structure VecUse where
  w : Bool := false
  aux : Bool := false
  window : Bool := false
  factors : Bool := false
  shift : Bool := false
  stochastic : Bool := false
  deriving DecidableEq, Repr

/-- The uses of a function; none when it is reserved (R201). -/
def vecUse (code func : Nat) : Option VecUse :=
  match code, func with
  | 0x60, 1 | 0x60, 2 | 0x60, 3 | 0x60, 7 => some { w := true, shift := true, stochastic := true }
  | 0x60, 4 | 0x60, 5 => some { w := true }
  | 0x60, 6 => some { shift := true, stochastic := true }
  | 0x60, 8 => some {}
  | 0x61, 1 | 0x61, 2 => some { aux := true }
  | 0x62, 1 | 0x62, 2 => some { window := true }
  | 0x63, 1 | 0x63, 2 => some { factors := true }
  | 0x64, 1 | 0x64, 2 => some { aux := true, shift := true, stochastic := true }
  | 0x65, 1 | 0x65, 2 => some { shift := true, stochastic := true }
  | 0x66, 1 => some { w := true, shift := true, stochastic := true }
  | 0x66, 2 => some { shift := true, stochastic := true }
  | 0x66, 3 => some { w := true, aux := true, shift := true, stochastic := true }
  | 0x67, 1 | 0x67, 2 => some { aux := true }
  | 0x68, 1 => some {}
  | _, _ => none

/-- The uses of an op's function, nothing where it is reserved. -/
def opUse (op : Bytes) : VecUse := (vecUse (opCode op) (opFunc op)).getD {}

/-! ### Orders 1 to 6 of R206 -/

/-- Order 2: reserved fields of the header. -/
def headerReserved (op : Bytes) : Bool :=
  fieldAt op 0 0 4 != 0 || fieldAt op 2 2 6 != 0 || byteAt op 3 != 0 || fieldAt op 6 3 5 != 0 || byteAt op 7 != 0

/-- The bytes from `i` on are zero. -/
def zeroFrom (op : Bytes) (i : Nat) : Bool := allZero (slice op i (64 - i))

/-- Order 4: reserved fields of the layout, unused operands among them (R192, R195, R199, R200, R203). -/
def layoutReserved (op : Bytes) : Bool :=
  match opClass (opCode op) with
  | some .control =>
    match opCode op with
    | 2 => fieldAt op 8 6 2 != 0 || fieldAt op 9 2 6 != 0 || !zeroFrom op 11
    | 4 => fieldAt op 8 2 6 != 0 || !allZero (slice op 10 2) || operandReserved op 12 || !zeroFrom op 28
    | 5 => operandReserved op 8 || fieldAt op 20 1 7 != 0 || !zeroFrom op 21
    | 6 => fieldAt op 8 3 5 != 0 || !allZero (slice op 9 3) || bitsOf (leAt op 12 4) 20 12 != 0 || !zeroFrom op 16
    | 8 => !zeroFrom op 16
    | _ => !zeroFrom op 8
  | some .matrix =>
    operandReserved op 8 || operandReserved op 20 || operandReserved op 32
      || (opCode op != 0x22 && !allZero (slice op 28 4))
      || fieldAt op 55 5 3 != 0 || fieldAt op 56 6 2 != 0 || fieldAt op 60 4 4 != 0
  | some .skerry =>
    operandReserved op 8 || operandReserved op 20 || operandReserved op 32 || !allZero (slice op 28 4)
      || fieldAt op 53 6 2 != 0 || fieldAt op 55 5 3 != 0 || fieldAt op 56 6 2 != 0 || fieldAt op 60 4 4 != 0
  | some .vector =>
    operandReserved op 8 || operandReserved op 20 || operandReserved op 32
      || ((vecUse (opCode op) (opFunc op)).isSome && !(opUse op).w && !allZero (slice op 20 12))
      || fieldAt op 55 5 3 != 0 || fieldAt op 56 7 1 != 0 || fieldAt op 60 4 4 != 0
  | none => false

/-- Order 5: reserved encodings and values out of range. -/
def encodingBad (op : Bytes) : Bool :=
  4 ≤ opOrder op ||
  match opClass (opCode op) with
  | some .control => opOrder op != 0 || fieldAt op 2 0 2 != 0 || (opCode op == 2 && claimLen op == 1)
  | some .matrix =>
    2 ≤ fieldAt op 52 0 2 || fieldAt op 52 2 2 == 3 || fieldAt op 52 4 2 == 3 || opKBlocks op == 0 || byteAt op 54 == 0
      || 40 ≤ opShift op || fieldAt op 62 0 2 == 3 || fieldAt op 62 2 2 == 3
  | some .skerry =>
    fieldAt op 52 0 2 == 3 || fieldAt op 52 2 2 == 3 || 40 ≤ opShift op || fieldAt op 62 0 2 == 3 || fieldAt op 62 2 2 == 3
  | some .vector =>
    (vecUse (opCode op) (opFunc op)).isNone || 40 ≤ opShift op
      || (!(opUse op).factors && (fieldAt op 62 0 2 == 3 || fieldAt op 62 2 2 == 3))
      || (opCode op == 0x66 && opFunc op == 3 && (opShift op == 0 || 15 < opShift op))
  | none => false

/-- A write mode that does not fit its type (R196). -/
def modeBad (mode : Nat) (t : ElemType) : Bool := (mode == 1 && t != .int32) || (mode == 2 && t != .int16)

/-- The types a vector function requires (R227 to R232, R250, R252, R353 to R355, R167). -/
def vecTypesBad (op : Bytes) : Bool :=
  let x := vXType op
  let w := vWType op
  let y := vYType op
  (!(opUse op).w && w != .int8) ||
  match opCode op, opFunc op with
  | 0x60, 8 => x != y
  | 0x61, 1 => x != .int8 || y != .int8
  | 0x61, 2 => x != .int16 || y != .int16
  | 0x62, 1 => x != y
  | 0x63, _ => x != y
  | 0x64, _ => x != .int16 || y != .int16 || vChans op % 32 != 0
  | 0x65, _ => y != .int32
  | 0x66, 1 => x != .int32 || w != .int32 || y != .int32
  | 0x66, 2 => x != .int32 || y != .int32
  | 0x66, 3 => x != .int32 || w != .int16 || y != .int16
  | 0x68, _ => x != .int8 || y != .int8
  | _, _ => false

/-- A vector op's fields its function does not use are not all zero (R200, R224, R252). -/
def vecUnused (op : Bytes) : Bool :=
  let u := opUse op
  (!u.aux && opTable op != 0)
    || (((opCode op == 0x66 && opFunc op != 3) || opCode op == 0x67) && vMode op != 0)
    || (!u.shift && opShift op != 0) || (!u.stochastic && vStochastic op)
    || (!u.window && byteAt op 61 != 0) || (!u.window && !u.factors && byteAt op 62 != 0)
    || (!u.window && !u.factors && (byteAt op 57 != 0 || byteAt op 63 != 0))
    || (u.factors && ((fieldAt op 62 0 2 != 0 && fieldAt op 62 4 2 != 0) || (fieldAt op 62 2 2 != 0 && fieldAt op 62 6 2 != 0)))

/-- A local descriptor that names an isle (R191). -/
def isleNamed (op : Bytes) (o : Nat) : Bool := !(operandAt op o).remote && (operandAt op o).isle != 0

/-- Row-mask bits at or above the row count (R194). -/
def maskBad (op : Bytes) : Bool := 2 ^ opRows op ≤ opRowMask op

/-- Order 6: combination rules (R191, R194 to R203). `cap` is the context's opq_cap (R188). -/
def combinationBad (op : Bytes) (cap : Nat) : Bool :=
  match opClass (opCode op) with
  | some .control =>
    (opCode op == 2 && cap < claimLen op) || (opCode op == 4 && isleNamed op 12) || (opCode op == 5 && isleNamed op 8)
  | some .matrix =>
    isleNamed op 8 || isleNamed op 20 || isleNamed op 32 || maskBad op
      || opKBlocks op * (if opPrec4 op then 64 else 32) % opGroup op != 0
      || modeBad (opMode op) (opOutType op) || (opCode op == 0x22 && opOutType op != .int32)
  | some .skerry =>
    isleNamed op 8 || isleNamed op 20 || isleNamed op 32 || maskBad op || modeBad (opMode op) (opOutType op)
      || (if skOrient1 op then 8 < skOut op else 8 < skIn op)
  | some .vector =>
    isleNamed op 8 || isleNamed op 20 || isleNamed op 32 || maskBad op || modeBad (vMode op) (vYType op)
      || vecTypesBad op || vecUnused op
      || ((opCode op == 0x67 || opCode op == 0x68) && ((operandAt op 20).remote || (operandAt op 32).remote))
  | none => false

/-- Orders 1 to 7 of R206 for an op at the head of a context of isle `k`. -/
def headCheck (op : Bytes) (cap : Nat) (k : IsleNo) : Option Nat :=
  firstFailure
    [(opVersion op != 1, 0x3101),
     (headerReserved op, 0x3102),
     ((opClass (opCode op)).isNone, 0x3103),
     (layoutReserved op, 0x3102),
     (encodingBad op, 0x3104),
     (combinationBad op cap, 0x3105),
     (opCode op == 0x68 && k != 0 && k != 8, 0x3106)]

/-! ### Masks and windows (R194, R197, R242, R308) -/

/-- The set bits of a mask, ascending. -/
def maskBits (m : Nat) : List Nat := (List.range 32).filter m.testBit

/-- Effective row and column masks: inside a block, the edge masks that came with its tile apply to the grid's last tile row and column
(R300, R308). -/
def effectiveMasks (op : Bytes) (b : Option TileBlock) : Nat × Nat :=
  match b with
  | none => (opRowMask op, opColMask op)
  | some b =>
    (if b.lastRow then opRowMask op &&& b.rowEdge.toNat else opRowMask op,
     if b.lastCol then opColMask op &&& b.colEdge.toNat else opColMask op)

/-- Enabled rows and columns of an op; no rows when no column is enabled, since the op then makes no access (R208). -/
structure Tile where
  rows : List Nat
  cols : List Nat
  deriving DecidableEq, Repr

/-- The tile of an op under effective masks. -/
def tileUnder (m : Nat × Nat) : Tile :=
  let rows := maskBits m.1
  let cols := maskBits m.2
  if rows = [] ∨ cols = [] then ⟨[], []⟩ else ⟨rows, cols⟩

/-- A reached span on one axis: its ends and how many positions at each end are padded (R242). -/
structure Span where
  lo : Int
  hi : Int
  padLow : Nat
  padHigh : Nat
  deriving DecidableEq, Repr

/-- The span of reached positions. -/
def spanOf (xs : List Int) (padLow padHigh : Nat) : Span :=
  { lo := xs.foldl min (xs.headD 0), hi := xs.foldl max (xs.headD 0), padLow := padLow, padHigh := padHigh }

/-- Whether a reached position is padded. -/
def Span.pads (p : Span) (v : Int) : Bool := v < p.lo + p.padLow || p.hi - p.padHigh < v

/-- The input line of output line `y` and kernel line `ky` (R197). -/
def winLine (op : Bytes) (y ky : Nat) : Int :=
  (y * opStrideY op + ky * opDilY op : Nat) - ((opDilY op * (opKh op - 1) / 2 : Nat) : Int)

/-- The input column of output column `x` and kernel column `kx` (R197). -/
def winCol (op : Bytes) (x kx : Nat) : Int :=
  (x * opStrideX op + kx * opDilX op : Nat) - ((opDilX op * (opKw op - 1) / 2 : Nat) : Int)

/-- Lines the enabled rows reach, and columns the 32 columns reach (R242). -/
def winLines (op : Bytes) (rows : List Nat) : List Int :=
  (rows.flatMap fun y => (List.range (opKh op)).map fun ky => winLine op y ky).dedup
def winCols (op : Bytes) : List Int :=
  ((List.range 32).flatMap fun x => (List.range (opKw op)).map fun kx => winCol op x kx).dedup

/-- Their spans. -/
def winLineSpan (op : Bytes) (rows : List Nat) : Span := spanOf (winLines op rows) (opPadTop op) (opPadBottom op)
def winColSpan (op : Bytes) : Span := spanOf (winCols op) (opPadLeft op) (opPadRight op)

/-! ### Resampling positions (R252, R253) -/

/-- One axis of a resample: factor up, factor down, bilinear. -/
structure Axis where
  up : Nat
  down : Nat
  bilinear : Bool
  deriving DecidableEq, Repr

/-- The axes of a VEC_RESAMPLE op: y and x. -/
def axisY (op : Bytes) : Axis := ⟨2 ^ fieldAt op 62 4 2, 2 ^ fieldAt op 62 0 2, opFunc op == 2⟩
def axisX (op : Bytes) : Axis := ⟨2 ^ fieldAt op 62 6 2, 2 ^ fieldAt op 62 2 2, opFunc op == 2⟩

/-- The input positions and weights of output position `o`, and the denominator (R253). -/
def Axis.draws (a : Axis) (o : Nat) : List (Int × Int) × Nat :=
  if a.up ≠ 1 then
    if a.bilinear then
      let v : Int := 2 * (o : Int) + 1 - a.up
      let i := v / (2 * a.up : Nat)
      let f := v - (2 * a.up : Nat) * i
      ([(i, (2 * a.up : Nat) - f), (i + 1, f)], 2 * a.up)
    else ([((o / a.up : Nat), 1)], 1)
  else if a.down ≠ 1 then
    if a.bilinear then ([((a.down * o + a.down / 2 - 1 : Nat), 1), ((a.down * o + a.down / 2 : Nat), 1)], 2)
    else ([((a.down * o : Nat), 1)], 1)
  else ([((o : Nat), 1)], 1)

/-- The positions a set of output positions reaches. -/
def Axis.reached (a : Axis) (os : List Nat) : List Int := (os.flatMap fun o => (a.draws o).1.map (·.1)).dedup

/-- Output columns of a resample tile: 32 times the upscale factor (R253). -/
def outCols (op : Bytes) : List Nat := List.range (32 * (axisX op).up)

/-- The read position nearest to a reached one: padded positions lie beyond the read ones at either end (R242, R254). -/
def nearestRead (reads : List Int) (v : Int) : Int :=
  clampInt (reads.foldl min (reads.headD 0)) (reads.foldl max (reads.headD 0)) v

/-! ### The words of an operand -/

/-- Elements per word of a type, and words per line of 32 columns. -/
def perWord (t : ElemType) : Nat := 32 / t.size
def lineWords (t : ElemType) : Nat := t.size

/-- The words of given channels, lines and columns of an operand, `g` columns a word (R191). -/
def tensorWords (p : Operand) (ea : Nat) (chans : List Nat) (lines cols : List Int) (g : Nat) : List Int :=
  let ws := (cols.map fun (c : Int) => c / (g : Int)).dedup
  chans.flatMap fun c => lines.flatMap fun l => ws.map fun w => (ea : Int) + c * p.chan + l * p.line + w

/-- Consecutive words. -/
def runWords (start n : Nat) : List Int := (List.range n).map fun i => ((start + i : Nat) : Int)

/-- Positions as integers. -/
def ints (xs : List Nat) : List Int := xs.map fun (x : Nat) => (x : Int)

end Sys2Proof.Machine
end

