-- ==== Sys2Proof/Machine/TileCompute.lean ====
section
/-! DEFINITION. What each matrix, skerry and vector tile op reads, computes and writes (spec/07_isle.md R195 to R202,
spec/08_arithmetic.md R215 to R232, spec/09_operators.md R242 to R254, spec/13_adaptation.md R351 to R355,
spec/06_outputs_and_analysis.md R167). -/

namespace Sys2Proof.Machine

/-- How an op reads a word: the isle, the word's address. -/
abbrev Reader := IsleNo → Nat → Bytes

/-- A tile op ready to run: the words it reads through X, W and its table, the words it writes through Y, and the
writes it makes from what it reads. -/
structure OpWork where
  x : List Int := []
  w : List Int := []
  table : List Int := []
  y : List Int := []
  result : Reader → List WordWrite := fun _ => []

/-- What an op knows when it runs: its bytes, its isle, index registers, seed and tile. -/
structure OpContext where
  op : Bytes
  isle : IsleNo
  ix : Vector (BitVec 20) 4
  seed : Nat
  tile : Tile
  deriving DecidableEq, Repr

namespace OpContext

/-- Origin and place of the operand at byte `o`. -/
def origin (c : OpContext) (o : Nat) : Nat := (operandAt c.op o).origin c.ix
def place (c : OpContext) (o : Nat) : IsleNo := (operandAt c.op o).place c.isle

/-- One element of an operand in tensor layout (R128, R191, R196). -/
def elem (c : OpContext) (rd : Reader) (o : Nat) (t : ElemType) (ch : Nat) (line col : Int) : Int :=
  let p := operandAt c.op o
  let g := perWord t
  let a := (c.origin o : Int) + ch * p.chan + line * p.line + col / (g : Int)
  t.read (slice (rd (c.place o) a.toNat) ((col % (g : Int)).toNat * t.size) t.size)

/-- The words of the operand at byte `o` for channels, lines and columns. -/
def words (c : OpContext) (o : Nat) (chans : Nat) (lines cols : List Int) (g : Nat) : List Int :=
  if c.tile.rows = [] then [] else tensorWords (operandAt c.op o) (c.origin o) (List.range chans) lines cols g

/-- The rounding of element (ch, r, j) of a vector op (R224, R225). -/
def rounding (c : OpContext) (ch r j : Nat) : Rounding :=
  if vStochastic c.op then .stochastic (srBits c.seed (opId c.op) (elemIndex c.ix[0].toNat ch r j)) else .even

end OpContext

/-- The bank operation of a write mode on an output type (R195, R267). -/
def bankOp (mode : Nat) (t : ElemType) : BankOp :=
  match mode with
  | 0 => .plain
  | 1 => .add32
  | 2 => .add16
  | _ => match t with | .int8 => .max8 | .int16 => .max16 | .int32 => .max32 | .u16 => .maxU16

/-- The writes of one line from word `start`: values by column, disabled columns left out (R194, R269). -/
def lineWrites (isle : IsleNo) (op : BankOp) (t : ElemType) (start : Nat) (vals : List (Nat × Int)) : List WordWrite :=
  let g := perWord t
  ((vals.map fun (v : Nat × Int) => v.1 / g).dedup).map fun w =>
    { isle := isle
      word := start + w
      op := op
      bytes := (vals.filter fun (v : Nat × Int) => v.1 / g == w).flatMap fun v =>
        (List.range t.size).zip (t.write v.2) |>.map fun (b : Nat × Byte) => (v.1 % g * t.size + b.1, b.2) }

/-- The writes of a whole tile through Y: `f ch r` gives the values of a line by enabled column. -/
def tileWrites (c : OpContext) (mode : Nat) (t : ElemType) (chans : Nat) (f : Nat → Nat → List (Nat × Int)) :
    List WordWrite :=
  let p := operandAt c.op 32
  (List.range chans).flatMap fun ch => c.tile.rows.flatMap fun r =>
    lineWrites (c.place 32) (bankOp mode t) t (c.origin 32 + ch * p.chan + r * p.line) (f ch r)

/-! ### Windows -/

/-- The element of X under kernel tap (ky, kx) at output (y, x); padding supplies 0 (R197, R223, R243). -/
def windowElem (c : OpContext) (read : Nat → Int → Int → Int) (ch y x ky kx : Nat) : Int :=
  let l := winLine c.op y ky
  let k := winCol c.op x kx
  if (winLineSpan c.op c.tile.rows).pads l || (winColSpan c.op).pads k then 0 else read ch l k

/-- The lines and columns of X a window op reads. -/
def windowLines (c : OpContext) : List Int :=
  (winLines c.op c.tile.rows).filter fun l => !(winLineSpan c.op c.tile.rows).pads l
def windowCols (c : OpContext) : List Int := (winCols c.op).filter fun k => !(winColSpan c.op).pads k

/-! ### The matrix class -/

/-- The 4-bit field `h` of a word, signed. -/
def nibble (bs : Bytes) (h : Nat) : Int := signed 4 (bitsOf (byteAt bs (h / 2)) (4 * (h % 2)) 4)

/-- A shift of the group-shift table (R218): `n` output channels. -/
def shiftEntry (c : OpContext) (rd : Reader) (n g ch : Nat) : Int :=
  let e := g * n + ch
  nibble (rd c.isle (opTable c.op + e / 64)) (e % 64)

/-- Block depth D (R196). -/
def opDepth (op : Bytes) : Nat := if opPrec4 op then 64 else 32

/-- An element of matrix operand X: INT8, or the INT4 half of a channel pair (R196). -/
def matrixX (c : OpContext) (rd : Reader) (ch : Nat) (line col : Int) : Int :=
  if opPrec4 c.op then
    let v := unsigned 8 (c.elem rd 8 .int8 (ch / 2) line col)
    signed 4 (bitsOf v (4 * (ch % 2)) 4)
  else c.elem rd 8 .int8 ch line col

/-- The weight from reduction channel `b*D + i` to output channel `32n + j` under tap `t` (R196, R198, R215). -/
def matrixWeight (c : OpContext) (rd : Reader) (t b n i j : Nat) : Int :=
  let arrays := (opArrays c.op).length
  let kb := opKBlocks c.op
  let ea := c.origin 20
  let word (w : Nat) : Bytes := rd (c.place 20) w
  if opCode c.op = 0x21 then
    let w := ea + (((opTaps c.op - 1 - t) * arrays + n) * kb + b) * 32
    if opPrec4 c.op then Config.unstated ((w * 64 + i) * 64 + j) else signed 8 (byteAt (word (w + i)) j)
  else
    let bs := word (ea + ((t * kb + b) * arrays + n) * 32 + j)
    if opPrec4 c.op then nibble bs i else signed 8 (byteAt bs i)

/-- One output element of CONV or CONV_BWD: products in reduction order, groups, shifts, accumulator, output step
(R216 to R220). -/
def matrixElem (c : OpContext) (rd : Reader) (ch y x : Nat) : Int :=
  let d := opDepth c.op
  let arrays := (opArrays c.op).length
  let products := (List.range (opTaps c.op)).flatMap fun t =>
    (List.range (opKBlocks c.op)).flatMap fun b => (List.range d).map fun i =>
      windowElem c (matrixX c rd) (b * d + i) y x (t / opKw c.op) (t % opKw c.op)
        * matrixWeight c rd t b (ch / 32) i (ch % 32)
  let groups := (chunks (opGroup c.op) products).map List.sum
  let acc := accumulate ((List.range groups.length).zip groups |>.map fun (g : Nat × Int) =>
    (g.2, shiftEntry c rd (32 * arrays) g.1 ch))
  outputStep (opOutType c.op) acc (opShift c.op)

/-- CONV and CONV_BWD (R196 to R198). -/
def convWork (c : OpContext) : OpWork :=
  let op := c.op
  let arrays := (opArrays op).length
  let n := 32 * arrays
  let live := c.tile.rows ≠ []
  let groups := opTaps op * (opKBlocks op * opDepth op) / opGroup op
  { x := c.words 8 (opKBlocks op * 32) (windowLines c) (windowCols c) 32
    w := if live then runWords (c.origin 20) (opTaps op * opKBlocks op * arrays * 32) else []
    table := if live then runWords (opTable op) (ceilDiv (n * groups) 64) else []
    y := c.words 32 n (ints c.tile.rows) (ints c.tile.cols) (perWord (opOutType op))
    result := fun rd => tileWrites c (opMode op) (opOutType op) n fun ch r =>
      c.tile.cols.map fun x => (x, matrixElem c rd ch r x) }

/-- One element of a weight-gradient block: products by position, groups of 32, the shifts of its table (R198, R218, R351). -/
def wgradElem (c : OpContext) (rd : Reader) (t b n i j : Nat) : Int :=
  let products := c.tile.rows.flatMap fun y => c.tile.cols.map fun x =>
    windowElem c (matrixX c rd) (b * opDepth c.op + i) y x (t / opKw c.op) (t % opKw c.op)
      * c.elem rd 20 .int8 (32 * n + j) y x
  let groups := (chunks 32 products).map List.sum
  let acc := accumulate ((List.range groups.length).zip groups |>.map fun (g : Nat × Int) =>
    (g.2, shiftEntry c rd (32 * (opArrays c.op).length) g.1 (32 * n + j)))
  outputStep .int32 acc (opShift c.op)

/-- WGRAD (R198, R351; DEDUCED, log entry 13 for its operands). -/
def wgradWork (c : OpContext) : OpWork :=
  let op := c.op
  let arrays := (opArrays op).length
  let d := opDepth op
  let per := d / 8
  let live := c.tile.rows ≠ []
  let blocks := (List.range (opTaps op)).flatMap fun t => (List.range (opKBlocks op)).flatMap fun b =>
    (List.range arrays).map fun n => (t, b, n)
  { x := c.words 8 (opKBlocks op * 32) (windowLines c) (windowCols c) 32
    w := c.words 20 (32 * arrays) (ints c.tile.rows) (ints (List.range 32)) 32
    table :=
      if live then runWords (opTable op) (ceilDiv (32 * arrays * ceilDiv (c.tile.rows.length * c.tile.cols.length) 32) 64) else []
    y := if live then runWords (c.origin 32) (blocks.length * 32 * per) else []
    result := fun rd =>
      if live then blocks.flatMap fun tbn => (List.range 32).flatMap fun j =>
        lineWrites (c.place 32) (bankOp (opMode op) .int32) .int32
          (c.origin 32 + (((tbn.1 * opKBlocks op + tbn.2.1) * arrays + tbn.2.2) * 32 + j) * per)
          ((List.range d).map fun i => (i, wgradElem c rd tbn.1 tbn.2.1 tbn.2.2 i j))
      else [] }

/-! ### The skerry class (R199, R222) -/

/-- Blocks of 32 input channels a tap takes. -/
def skBlocks (op : Bytes) : Nat := if skOrient1 op then ceilDiv (skIn op) 32 else 1

/-- The weight from input channel `i` to output channel `o` under tap `t` (R222); the reversal of R198 is CONV_BWD's. -/
def skWeight (c : OpContext) (rd : Reader) (t i o : Nat) : Int :=
  let ea := c.origin 20
  if skOrient1 c.op then signed 8 (byteAt (rd (c.place 20) (ea + 8 * (t * skBlocks c.op + i / 32) + o)) (i % 32))
  else signed 8 (byteAt (rd (c.place 20) (ea + 8 * t + i)) o)

/-- One output element of a skerry op (R222). -/
def skElem (c : OpContext) (rd : Reader) (o y x : Nat) : Int :=
  let products := (List.range (opTaps c.op)).flatMap fun t => (List.range (skIn c.op)).map fun i =>
    windowElem c (c.elem rd 8 (skXType c.op)) i y x (t / opKw c.op) (t % opKw c.op) * skWeight c rd t i o
  let groups := (chunks (opGroup c.op) products).map List.sum
  let acc := accumulate ((List.range groups.length).zip groups |>.map fun (g : Nat × Int) =>
    (g.2, shiftEntry c rd (skOut c.op) g.1 o))
  outputStep (opOutType c.op) acc (opShift c.op)

/-- SK_CONV and SK_CONV_BWD. -/
def skWork (c : OpContext) : OpWork :=
  let op := c.op
  let live := c.tile.rows ≠ []
  let groups := ceilDiv (opTaps op * skIn op) (opGroup op)
  { x := c.words 8 (skIn op) (windowLines c) (windowCols c) (perWord (skXType op))
    w := if live then runWords (c.origin 20) (8 * opTaps op * skBlocks op) else []
    table := if live then runWords (opTable op) (ceilDiv (skOut op * groups) 64) else []
    y := c.words 32 (skOut op) (ints c.tile.rows) (ints c.tile.cols) (perWord (opOutType op))
    result := fun rd => tileWrites c (opMode op) (opOutType op) (skOut op) fun ch r =>
      c.tile.cols.map fun x => (x, skElem c rd ch r x) }

/-! ### The vector class -/

/-- The 32 columns of a tile. -/
def allCols : List Int := ints (List.range 32)

/-- The words an elementwise function reads through an operand. -/
def eltWords (c : OpContext) (o : Nat) (t : ElemType) : List Int :=
  c.words o (vChans c.op) (ints c.tile.rows) allCols (perWord t)

/-- The words a vector function writes through Y, one value per enabled column. -/
def eltOut (c : OpContext) : List Int :=
  c.words 32 (vChans c.op) (ints c.tile.rows) (ints c.tile.cols) (perWord (vYType c.op))

/-- A vector function that maps positions one to one: `f ch r x` is the value at (ch, r, x). -/
def pointWork (c : OpContext) (f : Reader → Nat → Nat → Nat → Int) : OpWork :=
  { x := eltWords c 8 (vXType c.op)
    y := eltOut c
    result := fun rd => tileWrites c (vMode c.op) (vYType c.op) (vChans c.op) fun ch r =>
      c.tile.cols.map fun x => (x, f rd ch r x) }

/-- The exact z of a VEC_ELT function (R227). -/
def eltZ (func : Nat) (x w : Int) : Int :=
  match func with
  | 1 => x + w
  | 2 => x - w
  | 3 => x * w
  | 4 => max x w
  | 5 => min x w
  | 7 => ((x - w).natAbs : Int)
  | _ => x

/-- VEC_ELT (R224, R227). -/
def eltWork (c : OpContext) : OpWork :=
  let work := pointWork c fun rd ch r x =>
    let a := c.elem rd 8 (vXType c.op) ch r x
    let b := if (opUse c.op).w then c.elem rd 20 (vWType c.op) ch r x else 0
    (vYType c.op).sat (roundShift (c.rounding ch r x) (eltZ (opFunc c.op) a b) (opShift c.op))
  if (opUse c.op).w then { work with w := eltWords c 20 (vWType c.op) } else work

/-- VEC_LUT (R228, R229). -/
def lutWork (c : OpContext) : OpWork :=
  let base := opTable c.op
  let live := c.tile.rows ≠ []
  if opFunc c.op = 1 then
    { pointWork c (fun rd ch r x =>
        let i := (c.elem rd 8 .int8 ch r x + 128).toNat
        signed 8 (byteAt (rd c.isle (base + i / 32)) (i % 32))) with
      table := if live then runWords base 8 else [] }
  else
    { pointWork c (fun rd ch r x =>
        let bs := (List.range 5).flatMap fun i => rd c.isle (base + i)
        lut16 ((List.range 65).map fun k => leIntAt bs (2 * k) 2) (c.elem rd 8 .int16 ch r x)) with
      table := if live then runWords base 5 else [] }

/-- VEC_POOL (R250). -/
def poolWork (c : OpContext) : OpWork :=
  let t := vXType c.op
  let values (rd : Reader) (ch y x : Nat) : List Int :=
    (List.range (opTaps c.op)).filterMap fun k =>
      let l := winLine c.op y (k / opKw c.op)
      let col := winCol c.op x (k % opKw c.op)
      if (winLineSpan c.op c.tile.rows).pads l || (winColSpan c.op).pads col then none else some (c.elem rd 8 t ch l col)
  { x := c.words 8 (vChans c.op) (windowLines c) (windowCols c) (perWord t)
    y := eltOut c
    result := fun rd => tileWrites c (vMode c.op) (vYType c.op) (vChans c.op) fun ch r =>
      c.tile.cols.map fun x =>
        let vs := values rd ch r x
        (x, if vs = [] then 0
            else if opFunc c.op = 1 then vs.foldl max (vs.headD 0)
            else (vYType c.op).sat (roundDiv vs.sum vs.length)) }

/-- VEC_RESAMPLE (R252 to R254). -/
def resampleWork (c : OpContext) : OpWork :=
  let op := c.op
  let t := vXType op
  let ay := axisY op
  let ax := axisX op
  let lines := ay.reached c.tile.rows
  let cols := ax.reached (outCols op)
  let ls := spanOf lines (opPadTop op) (opPadBottom op)
  let cs := spanOf cols (opPadLeft op) (opPadRight op)
  let out := (outCols op).filter fun o => c.tile.cols.contains (o / ax.up)
  let readLines := lines.filter fun l => !ls.pads l
  let readCols := cols.filter fun k => !cs.pads k
  let at_ (rd : Reader) (ch : Nat) (l k : Int) : Int :=
    if readLines.isEmpty || readCols.isEmpty then Config.unstated (l * 1024 + k).toNat
    else c.elem rd 8 t ch (nearestRead readLines l) (nearestRead readCols k)
  { x := c.words 8 (vChans op) readLines readCols (perWord t)
    y := c.words 32 (vChans op) (ints c.tile.rows) (ints out) (perWord (vYType op))
    result := fun rd => tileWrites c (vMode op) (vYType op) (vChans op) fun ch r =>
      out.map fun o =>
        let dy := ay.draws r
        let dx := ax.draws o
        let z := (dy.1.flatMap fun py => dx.1.map fun px => py.2 * px.2 * at_ rd ch py.1 px.1).sum
        (o, (vYType op).sat (rneShr z (log2 (dy.2 * dx.2)))) }

/-- VEC_ROTATE (R230). -/
def rotateWork (c : OpContext) : OpWork :=
  let work := pointWork c fun rd ch r x =>
    let mask := leAt (rd c.isle (opTable c.op)) 0 4
    let m := ch / 32
    let xs := (List.range 32).map fun k => c.elem rd 8 .int16 (32 * m + k) r x
    let z := if opFunc c.op = 1 then rotateForward mask xs (ch % 32) else rotateInverse mask xs (ch % 32)
    satS 16 (roundShift (c.rounding ch r x) z (opShift c.op))
  { work with table := if c.tile.rows ≠ [] then runWords (opTable c.op) 1 else [] }

/-- VEC_REDUCE (R231; the random bits of the one element of a channel are those of row 0, column 0). -/
def reduceWork (c : OpContext) : OpWork :=
  let t := vXType c.op
  let p := operandAt c.op 32
  let live := c.tile.rows ≠ []
  { x := eltWords c 8 t
    y := if live then (List.range (vChans c.op)).map fun ch => ((c.origin 32 + ch * p.chan : Nat) : Int) else []
    result := fun rd =>
      if live then (List.range (vChans c.op)).map fun ch =>
        let vs := c.tile.rows.flatMap fun r => c.tile.cols.map fun x =>
          let v := c.elem rd 8 t ch r x
          if opFunc c.op = 1 then v else v * v
        let y := satS 32 (roundShift (c.rounding ch 0 0) vs.sum (opShift c.op))
        { isle := c.place 32
          word := c.origin 32 + ch * p.chan
          op := bankOp (vMode c.op) .int32
          masked := true
          bytes := (List.range 32).zip (ElemType.int32.write y ++ zeros 28) }
      else [] }

/-! ### VEC_OPTIM (R352 to R355) -/

/-- The word address of group (ch, r) of an operand. -/
def groupWord (c : OpContext) (o ch r : Nat) : Nat :=
  let p := operandAt c.op o
  c.origin o + ch * p.chan + r * p.line

/-- The 32 signed bytes of a word. -/
def lanes8 (bs : Bytes) : List Int := (List.range 32).map fun j => signed 8 (byteAt bs j)

/-- The group record an operand holds (R352). -/
def readGroup (c : OpContext) (rd : Reader) (o ch r : Nat) : OptGroup :=
  let word (i : Nat) : Bytes := rd (c.place o) (groupWord c o ch r + i)
  let e (i : Nat) : Int := leIntAt (word 3) i 1
  { g := lanes8 (word 0), m := lanes8 (word 1), v := lanes8 (word 2)
    eg := e 0, em := e 1, ev := e 2, c := e 3, ea := e 4 }

/-- The enabled lanes of one word of a record. -/
def laneWrite (c : OpContext) (word : Nat) (vs : List Int) : WordWrite :=
  { isle := c.place 32, word := word, op := .plain
    bytes := c.tile.cols.map fun j => (j, byte (unsigned 8 (vs.getD j 0))) }

/-- Exponents written into word 3 of a record. -/
def expWrite (c : OpContext) (word : Nat) (es : List (Nat × Int)) : WordWrite :=
  { isle := c.place 32, word := word, op := .plain, bytes := es.map fun e => (e.1, byte (unsigned 8 e.2)) }

/-- Every group of the op, in ascending channel and row. -/
def opGroups (c : OpContext) : List (Nat × Nat) :=
  (List.range (vChans c.op)).flatMap fun ch => c.tile.rows.map fun r => (ch, r)

/-- MOMENT1 (R353). -/
def moment1Work (c : OpContext) : OpWork :=
  { x := eltWords c 8 .int32
    w := eltWords c 20 .int32
    y := (opGroups c).flatMap fun g => [0, 1, 3].map fun (i : Nat) => ((groupWord c 32 g.1 g.2 + i : Nat) : Int)
    result := fun rd => (opGroups c).flatMap fun g =>
      let sums := (List.range 32).map fun j => c.elem rd 8 .int32 g.1 g.2 j
      let n := optMoment1 (c.rounding g.1 g.2) sums (opShift c.op) (readGroup c rd 20 g.1 g.2)
      let w := groupWord c 32 g.1 g.2
      [laneWrite c w n.g, laneWrite c (w + 1) n.m, expWrite c (w + 3) [(0, n.eg), (1, n.em)]] }

/-- MOMENT2 (R354). -/
def moment2Work (c : OpContext) : OpWork :=
  { x := eltWords c 8 .int32
    y := (opGroups c).flatMap fun g => [2, 3].map fun (i : Nat) => ((groupWord c 32 g.1 g.2 + i : Nat) : Int)
    result := fun rd => (opGroups c).flatMap fun g =>
      let n := optMoment2 (c.rounding g.1 g.2) (opShift c.op) (readGroup c rd 8 g.1 g.2)
      let w := groupWord c 32 g.1 g.2
      [laneWrite c (w + 2) n.v, expWrite c (w + 3) [(2, n.ev)]] }

/-- MASTER (R355). -/
def masterWork (c : OpContext) : OpWork :=
  { x := eltWords c 8 .int32
    w := eltWords c 20 .int16
    table := if c.tile.rows ≠ [] then runWords (opTable c.op) 16 else []
    y := eltOut c
    result := fun rd => tileWrites c (vMode c.op) .int16 (vChans c.op) fun ch r =>
      let t (u : Nat) : Int := leAt (rd c.isle (opTable c.op + u / 16)) (2 * (u % 16)) 2
      let w := (List.range 32).map fun j => c.elem rd 20 .int16 ch r j
      let n := optMaster (c.rounding ch r) t (opShift c.op) (readGroup c rd 8 ch r) w
      c.tile.cols.map fun j => (j, n.getD j 0) }

/-! ### Post-processors -/

/-- The index of the largest value; the lowest index wins a tie (R167). -/
def argmaxOf (vs : List Int) : Nat :=
  ((List.range vs.length).foldl (fun (b : Nat) i => if vs.getD b 0 < vs.getD i 0 then i else b) 0)

/-- VEC_ARGMAX (R167). -/
def argmaxWork (c : OpContext) : OpWork :=
  { x := eltWords c 8 .int8
    y := c.words 32 1 (ints c.tile.rows) (ints c.tile.cols) 32
    result := fun rd => tileWrites c (vMode c.op) .int8 1 fun _ r =>
      c.tile.cols.map fun x => (x, signed 8 (argmaxOf ((List.range (vChans c.op)).map fun ch => c.elem rd 8 .int8 ch r x))) }

/-- The words of candidate records an INTAKE takes: those of X, two records a word (DEDUCED, log entry 12). -/
def intakeWork (c : OpContext) : OpWork := { x := eltWords c 8 (vXType c.op) }

/-- The words a SUPPRESS may write: two detection records a word, up to the keep limit (R165; DEDUCED, log entry 12). -/
def suppressWork (c : OpContext) (keep : Nat) (records : List Bytes) : OpWork :=
  let live := c.tile.rows ≠ []
  { y := if live then runWords (c.origin 32) (ceilDiv keep 2) else []
    result := fun _ =>
      if live then
        let pairs := chunks 2 records
        (List.range pairs.length).zip pairs |>.map fun (p : Nat × List Bytes) =>
          let bs := p.2.flatten
          { isle := c.place 32, word := c.origin 32 + p.1, op := .plain, bytes := (List.range bs.length).zip bs }
      else [] }

/-- The work of an op by its opcode and function; BOXDEC's are given their records by the step. -/
def opWork (c : OpContext) : OpWork :=
  match opCode c.op with
  | 0x20 | 0x21 => convWork c
  | 0x22 => wgradWork c
  | 0x40 | 0x41 => skWork c
  | 0x60 => eltWork c
  | 0x61 => lutWork c
  | 0x62 => poolWork c
  | 0x63 => resampleWork c
  | 0x64 => rotateWork c
  | 0x65 => reduceWork c
  | 0x66 => if opFunc c.op = 1 then moment1Work c else if opFunc c.op = 2 then moment2Work c else masterWork c
  | 0x67 => intakeWork c
  | 0x68 => argmaxWork c
  | _ => {}

end Sys2Proof.Machine
end

