-- ==== Sys2Proof/Machine/TileOps.lean ====
section
/-! DEFINITION. Running a tile op: which context may take a unit, the checks of orders 8 and 9, suspension, reads,
writes, tags and retirement (spec/07_isle.md R180 to R185, R193, R206, R207, spec/10_scratchpad.md R267 to R293,
spec/12_movers_and_regions.md R337, R338). -/

namespace Sys2Proof.Machine

/-! ### Units and arbitration (R177, R181, R182) -/

/-- The units an op needs: arrays 0 to 7, skerry 8, vector unit 9, argmax 10, sequencer 11. -/
def opUnits (op : Bytes) : List (Fin 12) :=
  match opClass (opCode op) with
  | some .matrix => (opArrays op).map (Fin.ofNat 12)
  | some .skerry => [8]
  | some .vector => if opCode op = 0x68 then [10] else [9]
  | _ => [11]

/-- The units of a context's head op. -/
def Context.units (x : Context) : List (Fin 12) := ((x.head.map fun q => opUnits q.bytes).getD [])

/-- Place of context `c` in the order that starts after context `last`. -/
def turn (last c : Fin 4) : Nat := (c.val + 3 - last.val) % 4

/-- Whether a context does borrowed work, which the start stagger does not hold back (R43, R54). -/
def State.borrows (s : State) (v : Serves) : Bool :=
  match v with
  | .frame n f _ => (s.slots[n].frameOf f).any fun x => x.borrow.isSome
  | _ => false

/-- Whether a context's head op waits to issue or to resume. -/
def Context.asks (x : Context) : Bool := (x.phase == .ready || (x.phase == .releasing && x.suspended)) && x.head.isSome

/-- Whether a context's head op may use its units for the layer its block belongs to: a layer of frame work runs on the skerry or on the
arrays and never on both (R129; DESIGN CHOICE, log entry 139: an op that would use the other gets no unit). -/
def Context.unitsFit (x : Context) : Bool :=
  match x.serves, x.block.bind (·.onSkerry) with
  | .frame _ _ _, some true => !(x.units.any (·.val < 8))
  | .frame _ _ _, some false => !(x.units.contains 8)
  | _, _ => true

/-- Whether a context is a candidate for its units: each is free, or held at a lower priority (R182); array issue also awaits the isle's
stagger slot, which does not hold back borrowed work (R43). -/
def State.contends (s : State) (k : IsleNo) (c : CtxNo) : Bool :=
  let x := s.ctx k c
  x.asks && x.unitsFit && (!(x.units.any (·.val < 8)) || s.isles[k].slotOpen || s.borrows x.serves) &&
    (allCtx.filter (· != c)).all fun d =>
      let y := s.ctx k d
      !y.holdsUnits || !(y.units.any x.units.contains) || y.priority < x.priority

/-- Which of some candidates for a unit wins it: the highest priority, and among equals the first after the context that took the unit
last (R182). -/
def State.winner (s : State) (k : IsleNo) (u : Fin 12) (cs : List CtxNo) : Option CtxNo :=
  let before (c d : CtxNo) : Bool :=
    (s.ctx k d).priority < (s.ctx k c).priority ||
      ((s.ctx k c).priority == (s.ctx k d).priority && turn s.isles[k].lastTook[u] c < turn s.isles[k].lastTook[u] d)
  cs.foldl (fun (b : Option CtxNo) c => match b with | none => some c | some d => if before c d then some c else some d) none

/-- The candidates that take their units: unit by unit, those that lose one drop out (R182; the order of the units is a DESIGN CHOICE, log
entry 136). -/
def State.arbitrate (s : State) (k : IsleNo) : List CtxNo :=
  (List.finRange 12).foldl
    (fun cs u =>
      match s.winner k u (cs.filter fun c => (s.ctx k c).units.contains u) with
      | none => cs
      | some w => cs.filter fun c => c == w || !(s.ctx k c).units.contains u)
    (allCtx.filter (s.contends k))

/-- Whether a context may issue or go on with its head op (R181, R182; R561 freezes ops in a shed). -/
def State.mayRun (s : State) (k : IsleNo) (c : CtxNo) : Bool :=
  s.nat 0x2700 1 == 0 && ((s.ctx k c).holdsUnits || (s.arbitrate k).contains c)

/-- A running op suspended at a position boundary; one that is to stop goes on in release form (R182, R185). -/
def Context.preempted (x : Context) (now : Nat) : Context :=
  { x with
    phase := if x.stopping then .releasing else .ready
    suspended := true
    ranFor := x.ranFor + (now - x.runSince) }

/-- The context takes its units: a running op of lower priority on them is suspended (R182), and a unit that another
context held before counts as a switch (R211). -/
def State.takeUnits (s : State) (k : IsleNo) (c : CtxNo) : State :=
  let us := (s.ctx k c).units
  if !(s.ctx k c).asks then s
  else
    let s := s.each (allCtx.filter (· != c)) fun s d =>
      let y := s.ctx k d
      if y.holdsUnits && y.units.any us.contains then s.modCtx k d (·.preempted s.now) else s
    let switched := us.any fun u => s.isles[k].lastTook[u] != c
    let s := s.modIsle k fun i => { i with lastTook := us.foldl (fun (v : Vector (Fin 4) 12) (u : Fin 12) => v.set u c) i.lastTook }
    let s := if switched then s.modCnt k fun n => { n with switches := n.switches + 1 } else s
    s.modCtx k c fun x =>
      { x with
        phase := if x.phase = .releasing then .releasing else .running
        runSince := s.now
        suspended := false
        unitsHeld := us.countP fun u => u.val < 11 }

/-! ### Accesses -/

/-- One operand of an op as it is checked: where it is, its words, the rights it needs, whether it honours tags. -/
structure Access where
  isle : IsleNo
  far : Bool
  words : List Int
  rd : Bool
  wr : Bool
  tag : Bool
  deriving DecidableEq, Repr

/-- Lowest and highest address of a list of words. -/
def extentOf (ws : List Int) : Int × Int := (ws.foldl min (ws.headD 0), ws.foldl max (ws.headD 0))

/-- The words of an access as addresses. -/
def Access.addrs (a : Access) : List Nat := a.words.map (·.toNat)

/-- The accesses of an op in the order X, W, Y, table (R338). -/
def opAccesses (c : OpContext) (w : OpWork) : List Access :=
  let vec := opClass (opCode c.op) == some .vector
  let mode := if vec then vMode c.op else opMode c.op
  [⟨c.place 8, c.place 8 != c.isle, w.x, true, false, opTagIn c.op⟩,
   ⟨c.place 20, c.place 20 != c.isle, w.w, true, false, opTagIn c.op⟩,
   ⟨c.place 32, c.place 32 != c.isle, w.y, mode != 0, true, opTagOut c.op⟩,
   ⟨c.isle, false, w.table, true, false, false⟩].filter fun a => a.words != []

/-- Whether a word lies in the ring a remote entry copies. -/
def RemoteEntry.holds (r : RemoteEntry) (w : Nat) : Bool :=
  r.linked && r.base ≤ w && w < r.base + r.slotCount * (r.slotWordsM1 + 1)

/-- The linked entry of isle `k` that names a far isle's ring holding a word. -/
def State.entryFor (s : State) (k dst : IsleNo) (w : Nat) : Option (Fin 16) :=
  (List.finRange 16).find? fun m => (s.isles[k].remotes[m]).isle == dst && (s.isles[k].remotes[m]).enable
    && (s.isles[k].remotes[m]).holds w

/-- Slots of a remote ring that words touch, ascending. -/
def RemoteEntry.slots (r : RemoteEntry) (ws : List Nat) : List Nat :=
  ws.foldl (fun l w => insertAsc ((w - r.base) / (r.slotWordsM1 + 1)) l) []

/-- Order 8 of R206 for one access: the atoll rules of R282, R291 and R292, which go before the isle's address range. -/
def State.extentCheck (s : State) (k : IsleNo) (a : Access) : Option Nat :=
  let (lo, hi) := extentOf a.words
  let range := if lo < 0 ∨ (spWords : Int) ≤ hi then some 0x3108 else none
  if a.far then
    match if lo < 0 then none else s.entryFor k a.isle lo.toNat with
    | none => if a.tag then some 0x400A else range
    | some m =>
      let r := s.isles[k].remotes[m]
      let slots := r.slots a.addrs
      if !r.holds hi.toNat then some 0x4007
      else if a.tag && a.wr && slots != (List.range slots.length).map (r.nextSlot + ·) then some 0x4007
      else range
  else
    match if lo < 0 then none else s.isles[a.isle].atollAt lo.toNat with
    | none => if a.tag then some 0x4007 else range
    | some n =>
      let t := s.isles[a.isle].atolls[n]
      if !t.holds hi.toNat || (a.tag && a.wr && t.creditEnable) then some 0x4007 else range

/-- Orders 8 and 9 of R206 over an op's accesses. -/
def State.accessCheck (s : State) (k : IsleNo) (o : OwnerNo) (as : List Access) : Option Nat :=
  (as.findSome? (s.extentCheck k)).or
    (as.findSome? fun a =>
      s.windowCheck o 2 (some a.isle) (extentOf a.words).1.toNat (extentOf a.words).2.toNat a.rd a.wr)

/-! ### Suspension (R183, R283, R289, R292, R293) -/

/-- Why an op cannot go on: nothing stops it, a local wait, or a remote slot that is empty at its destination. -/
inductive Hold where
  | go
  | wait (c : WaitCause)
  | askRemote (dst : IsleNo) (atoll : AtollNo) (slot : Nat)
  deriving DecidableEq, Repr

/-- What holds one access: a read under tags needs every slot full, a write every slot empty, a remote write under tags
one credit per slot. `again` says that a write to a full slot does not wait (R276 step 4). -/
def State.heldBy (s : State) (k : IsleNo) (again : Bool) (a : Access) : Hold :=
  let lo := (extentOf a.words).1.toNat
  if !a.tag then .go
  else if a.far then
    match s.entryFor k a.isle lo with
    | none => .go
    | some m =>
      let r := s.isles[k].remotes[m]
      let slots := r.slots a.addrs
      if a.wr then (if r.credits < slots.length then .wait .fence else .go)
      else match slots.find? fun i => !(s.isles[a.isle].atolls[r.atoll]).full.contains i with
        | some i => .askRemote a.isle r.atoll i
        | none => .go
  else
    match s.isles[a.isle].atollAt lo with
    | none => .go
    | some n =>
      let t := s.isles[a.isle].atolls[n]
      let slots := t.slotsOf a.addrs
      if a.wr then (if !again && slots.any t.full.contains then .wait .tag else .go)
      else if slots.all t.full.contains then .go else .wait .tag

/-- The first access that holds the op. -/
def State.opHold (s : State) (k : IsleNo) (again : Bool) (as : List Access) : Hold :=
  ((as.map (s.heldBy k again)).find? (· != .go)).getD .go

/-- A remote tag read answered "empty" with a wake notice kept, or "retry" when the list is full; the context waits
(R293). -/
def State.askRemote (s : State) (k : IsleNo) (c : CtxNo) (dst : IsleNo) (n : AtollNo) (slot : Nat) : State :=
  let s := s.modCtx k c (·.waitFor .tag s.now)
  let mine (w : WakeNote) : Bool := w.src == k && w.ctx == c
  if s.isles[dst].wakes.any mine then s
  else if s.isles[dst].wakes.length < 32 then
    s.modIsle dst fun i => { i with wakes := i.wakes ++ [⟨k, c, n, slot⟩] }
  else s.modIsle k fun i => { i with retries := i.retries.filter (·.ctx != c) ++ [⟨c, s.now + 21⟩] }

/-- The context suspended by a hold. -/
def State.suspend (s : State) (k : IsleNo) (c : CtxNo) : Hold → State
  | .go => s
  | .wait w => s.modCtx k c (·.waitFor w s.now)
  | .askRemote d n i => s.askRemote k c d n i

/-! ### Remote writes (R289, R292, R293) -/

/-- Words of an isle on their way to another. -/
def State.inFlight (s : State) (src dst : IsleNo) : Nat :=
  s.isles[dst].inbound.countP fun i => i.src == src && (match i.msg with | .word _ => true | _ => false)

/-- The context's unsent words leave while their pools have credits, in order (R289). -/
def State.sendWords (s : State) (k : IsleNo) (c : CtxNo) : Nat → State
  | 0 => s
  | n + 1 =>
    match (s.ctx k c).unsent with
    | [] => s
    | i :: rest =>
      let isWord := match i.msg with | .word _ => true | _ => false
      if isWord && 256 ≤ s.inFlight k i.dst then s
      else
        let s := (s.modCtx k c fun x => { x with unsent := rest }).modIsle i.dst fun d => { d with inbound := d.inbound ++ [i] }
        let s := if isWord then
            (s.modCnt k fun m => { m with remoteOut := m.remoteOut + 1 }).charge i.owner 0 32
          else s
        State.sendWords s k c n

/-- Whether messages of a context that make up its op's retirement are still on their way. -/
def State.tagsInFlight (s : State) (k : IsleNo) (c : CtxNo) : Bool :=
  allIsles.any fun d => s.isles[d].inbound.any fun i =>
    i.src == k && i.ctx == some c && (match i.msg with | .word _ => false | _ => true)

/-- The tag changes of an op in its own isle, made as it retires (R283). -/
def State.applyDue (s : State) (k : IsleNo) (c : CtxNo) : State :=
  let due := (s.ctx k c).due
  (s.modCtx k c fun x => { x with due := [] }).each due fun s d => s.touchSlots k (Fin.ofNat 64 d.atoll) d.reads d.fills

/-- An op whose writes are made sends what it has to send, and retires when its words have left, its remote tag changes are reported back
and its own are made (R180, R293); in release form what has no credit is dropped and counted (R185). -/
def State.finishOp (s : State) (k : IsleNo) (c : CtxNo) : State :=
  let s := s.sendWords k c (s.ctx k c).unsent.length
  let left := (s.ctx k c).unsent
  if left = [] then
    if s.tagsInFlight k c then
      s.modCtx k c fun x => { x with phase := if x.phase = .waiting then .ready else x.phase, sending := true, cause := .none }
    else (s.applyDue k c).modCtx k c (·.retired)
  else if (s.ctx k c).stopping then
    (s.modCnt k fun n => { n with releaseDrops := n.releaseDrops + BitVec.ofNat 64 (wordCount left) }).modCtx k c (·.retired)
  else s.modCtx k c fun x => { x.waitFor .fence s.now with sending := true }

/-- Words of an op that goes on are sent; without a transport credit it waits (R289). -/
def State.sendPart (s : State) (k : IsleNo) (c : CtxNo) : State :=
  let s := s.sendWords k c (s.ctx k c).unsent.length
  if (s.ctx k c).unsent = [] then s else s.modCtx k c (·.waitFor .fence s.now)

/-! ### Faults of a running op (R207, R272 to R279) -/

/-- A parity error met by an op that serves `v` (R276, R278): the step runs again once, and a second error, in the re-run, fails the frame.
`draining` tells an op of the first run, which runs to its end while its context stops. -/
def State.parityMet (s : State) (v : Serves) (draining : Bool) (home : IsleNo) : State :=
  match v with
  | .frame sl n step =>
    let again := ((s.slots[sl].frameOf n).map fun f => f.rerun.contains step).getD false
    if again && !draining then
      ((s.raise 0x4004 { slot := sl, isle := home, detail := n }).noteParity home true).finishFrame sl n .failed 0x4004
    else
      let s := (s.raise 0x4003 { slot := sl, isle := home, detail := n }).noteParity home false
      if again then s
      else
        let s := s.modFrame sl n fun f => { f with rerun := insertAsc step f.rerun, status := setBit f.status 26 }
        s.rerunStep sl n step
  | .adapt sl d => (((s.raise 0x4003 { slot := sl, isle := home }).noteParity home false)).abandonStep sl d 3
  | .nothing => (s.raise 0x4003 { isle := home }).noteParity home false

/-- An access of the context's op ended with a code at a word (R207, R272, R274). -/
def State.accessFault (s : State) (k : IsleNo) (c : CtxNo) (code : Nat) (home : IsleNo) (word : Nat) : State :=
  if code = 0x4002 then (s.noteUncorrectable home (rowOf word) { s.workConcern k c with isle := home }).haltCtx k c code
  else s.faultCtx k c code

/-- A remote write refused as it arrived: the op that sent it, and the frame that op served, end (R207, R272); the tags that would have
followed the op's words do not change (R293). -/
def State.remoteFault (s : State) (i : StraitItem) (c : CtxNo) (code : Nat) (word : Nat) : State :=
  let isTag (m : StraitItem) : Bool := m.src == i.src && m.ctx == some c && (match m.msg with | .slotFull _ _ => true | _ => false)
  let s := s.modIsle i.dst fun d => { d with inbound := d.inbound.filter (!isTag ·) }
  let s := if code = 0x4002 then s.noteUncorrectable i.dst (rowOf word) { concernOf i.serves i.src with isle := i.dst }
    else s.raise code (concernOf i.serves i.src)
  s.haltOp i.src c code i.serves i.op

/-- The first word of a list whose read ends the access or fails its parity. -/
def State.badWord (s : State) (o : OwnerNo) (ws : List (IsleNo × Nat)) (code : Nat) : IsleNo × Nat :=
  (ws.find? fun kw => (s.readWord kw.1 kw.2 o).1 == some code).getD (0, 0)

/-! ### Tags at retirement (R283) -/

/-- The atoll that a tagged access touches, and the slots it touches there. -/
def State.ringOf (s : State) (k : IsleNo) (a : Access) : Option (AtollNo × List Nat) :=
  let lo := (extentOf a.words).1.toNat
  if a.far then (s.entryFor k a.isle lo).map fun m => ((s.isles[k].remotes[m]).atoll, (s.isles[k].remotes[m]).slots a.addrs)
  else (s.isles[a.isle].atollAt lo).map fun n => (n, (s.isles[a.isle].atolls[n]).slotsOf a.addrs)

/-- Slots added to those of an atoll. -/
def joinSlots (key : IsleNo × AtollNo) (slots : List Nat) :
    List ((IsleNo × AtollNo) × List Nat) → List ((IsleNo × AtollNo) × List Nat)
  | [] => [(key, slots)]
  | e :: es => if e.1 = key then (key, slots.foldl (fun l i => insertAsc i l) e.2) :: es else e :: joinSlots key slots es

/-- The slots that some tagged accesses touch, atoll by atoll: an op reads a slot once however many operands do (R283). -/
def State.slotsTouched (s : State) (k : IsleNo) (as : List Access) : List ((IsleNo × AtollNo) × List Nat) :=
  (as.filter (·.tag)).foldl (fun l a => match s.ringOf k a with | some r => joinSlots (a.isle, r.1) r.2 l | none => l) []

/-- A message of the context's head op. -/
def State.item (s : State) (k : IsleNo) (c : CtxNo) (dst : IsleNo) (m : StraitMsg) : StraitItem :=
  { src := k, ctx := some c, owner := (s.ctx k c).owner, dst := dst, msg := m, serves := (s.ctx k c).serves
    op := opId (((s.ctx k c).head.map (·.bytes)).getD []) }

/-- The tag changes of an op's accesses: local ones due at its retirement, remote ones as messages after the op's words, with the slot
credits and the next slot of a linked ring it wrote (R283, R292, R293). -/
def State.opTags (s : State) (k : IsleNo) (c : CtxNo) (as : List Access) : State :=
  let rd := s.slotsTouched k (as.filter (!·.wr))
  let wr := s.slotsTouched k (as.filter (·.wr))
  let slotsIn (l : List ((IsleNo × AtollNo) × List Nat)) (n : AtollNo) : List Nat :=
    ((l.find? fun e => e.1 == (k, n)).map (·.2)).getD []
  let mine := (((rd ++ wr).filter fun e => e.1.1 == k).map (·.1.2)).dedup
  let due : List TagDue := mine.map fun (n : AtollNo) => { atoll := n, reads := slotsIn rd n, fills := slotsIn wr n }
  let msgs := ((rd.filter fun e => e.1.1 != k).flatMap fun e => e.2.map fun i => s.item k c e.1.1 (.slotRead e.1.2 i))
    ++ ((wr.filter fun e => e.1.1 != k).flatMap fun e => e.2.map fun i => s.item k c e.1.1 (.slotFull e.1.2 i))
  let s := s.modCtx k c fun x => { x with due := due, unsent := x.unsent ++ msgs }
  s.each (as.filter fun a => a.tag && a.far && a.wr) fun s a =>
    match s.entryFor k a.isle (extentOf a.words).1.toNat with
    | none => s
    | some m =>
      let n := ((s.isles[k].remotes[m]).slots a.addrs).length
      s.modIsle k fun i =>
        let r := i.remotes[m]
        { i with remotes := i.remotes.set m { r with credits := r.credits - n, nextSlot := (r.nextSlot + n) % max 1 r.slotCount } }

/-- What an op's accesses add to the conflict counters: its read-modify-writes, and as many more as contention brought
(R269, R286; DESIGN CHOICE, log entry 14). -/
def State.countConflicts (s : State) (k : IsleNo) (as : List Access) (ws : List WordWrite) : State :=
  let sure := ws.countP fun w => w.isle == k && !w.whole
  let (d, s) := s.draw
  let s := s.modCnt k fun n => { n with bankConflicts := n.bankConflicts + BitVec.ofNat 64 (sure + Config.conflicts d) }
  let touched := (as.filter (!·.far)).filterMap fun a => s.isles[k].atollAt (extentOf a.words).1.toNat
  s.each touched.dedup fun s n =>
    let mine := ws.countP fun w => w.isle == k && !w.whole && (s.isles[k].atolls[n]).holds w.word
    let (d, s) := s.draw
    s.modAtoll k n fun a => { a with conflicts := a.conflicts + BitVec.ofNat 32 (mine + Config.conflicts d) }

/-! ### The run of a data op -/

/-- The words an access list reads, in order. -/
def readList (as : List Access) : List (IsleNo × Nat) := (as.filter (·.rd)).flatMap fun a => a.addrs.map fun w => (a.isle, w)

/-- Array-cycles of an op (R208, R211). -/
def arrayCycles (c : OpContext) : Nat :=
  if opClass (opCode c.op) = some .matrix then
    c.tile.rows.length * opTaps c.op * opKBlocks c.op * 32 * (opArrays c.op).length
  else 0

/-- The remote words of an op, and how many of them are dropped: in release form those of a linked ring for which the slot credits are
missing (R185, R292). -/
def State.farWords (s : State) (k : IsleNo) (c : CtxNo) (as : List Access) (ws : List WordWrite) : List StraitItem × Nat :=
  let far := ws.filter fun w => w.isle != k
  let short := as.any fun a => a.tag && a.far && a.wr &&
    match s.entryFor k a.isle (extentOf a.words).1.toNat with
    | some m => (s.isles[k].remotes[m]).credits < ((s.isles[k].remotes[m]).slots a.addrs).length
    | none => false
  if (s.ctx k c).phase = .releasing ∧ short = true then ([], far.length) else (far.map fun w => s.item k c w.isle (.word w), 0)

/-- An op that nothing holds goes on from the position where it stopped (R181): its reads, and its results from there to position `run`, or
to its end. At its end come its tags and its retirement (R180, R193 to R224, R267 to R283). Reads of Y under write modes 1 to 3 are the
bank's. What is still to be written is formed as the op goes on (DESIGN CHOICE, log entry 135). -/
def State.performOp (s : State) (k : IsleNo) (c : CtxNo) (oc : OpContext) (w : OpWork) (as : List Access) (run : Option Nat) :
    State :=
  let x := s.ctx k c
  let reads := readList (as.filter fun a => !a.wr)
  let before := s
  let (e, s) := if x.made = 0 then s.readWords x.owner reads else (none, s)
  if e.isSome && e != some 0x4003 then
    let at_ := before.badWord x.owner reads (e.getD 0)
    s.accessFault k c (e.getD 0) at_.1 at_.2
  else
    let all := w.result fun i a => before.isles[i].sp.peek a
    let stop := max x.made (min (run.getD all.length) all.length)
    let ws := (all.drop x.made).take (stop - x.made)
    let ((we, wat), s) := s.writeWords x.owner (ws.filter fun y => y.isle == k)
    if we.isSome && we != some 0x4003 then s.accessFault k c (we.getD 0) (wat.getD (k, 0)).1 (wat.getD (k, 0)).2
    else
      let far := s.farWords k c as ws
      let s := s.modCtx k c fun x => { x with unsent := x.unsent ++ far.1, made := stop }
      let s := (s.countConflicts k as ws).modCnt k fun n => { n with releaseDrops := n.releaseDrops + BitVec.ofNat 64 far.2 }
      let s := if run.isSome then s
        else
          (if x.phase = .releasing then s else s.opTags k c as).modCnt k fun n =>
            { n with arrayBusy := n.arrayBusy + BitVec.ofNat 64 (arrayCycles oc) }
      let s := if e = some 0x4003 then s.parityMet x.serves x.stopping (before.badWord x.owner reads 0x4003).1
        else if we = some 0x4003 then s.parityMet x.serves x.stopping k
        else s
      if run.isSome then s.sendPart k c else s.finishOp k c

/-- Whether the step a context serves is being re-run (R276 step 4). -/
def State.inRerun (s : State) (v : Serves) : Bool :=
  match v with
  | .frame sl n step => ((s.slots[sl].frameOf n).map fun f => f.rerun.contains step).getD false
  | _ => false

/-- What the context knows of its head op. -/
def State.opContext (s : State) (k : IsleNo) (c : CtxNo) (op : Bytes) : OpContext :=
  let x := s.ctx k c
  { op := op, isle := k, ix := x.ix, seed := x.seed.toNat, tile := tileUnder (effectiveMasks op x.block) }

/-- An op that has passed its checks and issues counts once for its owner (R538). -/
def State.countOp (s : State) (k : IsleNo) (c : CtxNo) : State :=
  if (s.ctx k c).counted then s
  else (s.modCtx k c fun x => { x with counted := true }).charge (s.ctx k c).owner 1 0

/-- Orders 8 and 9 of R206 for a data op. -/
def State.dataCheck (s : State) (k : IsleNo) (c : CtxNo) (op : Bytes) (w : OpContext → OpWork) : Option Nat :=
  let oc := s.opContext k c op
  s.accessCheck k (s.ctx k c).owner (opAccesses oc (w oc))

/-- A data op at the head of its context that has its units: held, or run (R183, R180). -/
def State.dataOp (s : State) (k : IsleNo) (c : CtxNo) (op : Bytes) (run : Option Nat) (w : OpContext → OpWork)
    (after : OpContext → State → State) : State :=
  let oc := s.opContext k c op
  let work := w oc
  let as := opAccesses oc work
  let x := s.ctx k c
  let hold := if x.phase = .releasing then Hold.go else s.opHold k (s.inRerun x.serves) as
  if hold ≠ .go then s.suspend k c hold
  else if !x.fetched && as.any fun a => a.far && a.rd then s
  else
    let s := s.performOp k c oc work as run
    if run.isSome ∨ (s.ctx k c).phase = .faulted then s else after oc s

/-! ### The row of an op -/

/-- The row an op names: its opcode, and its function in the vector class; none where either is reserved. -/
def opKey (op : Bytes) : Option (Nat × Nat) :=
  match opClass (opCode op) with
  | none => none
  | some .vector => if (vecUse (opCode op) (opFunc op)).isSome then some (opCode op, opFunc op) else none
  | some _ => some (opCode op, 0)

/-- The head op of a context that issues or goes on with ops, when it names the row `key`, or names none. -/
def State.headFor (s : State) (k : IsleNo) (c : CtxNo) (key : Nat × Nat) : Option QueuedOp :=
  match (s.ctx k c).head with
  | none => none
  | some q =>
    if (opKey q.bytes == none || opKey q.bytes == some key) && ((s.ctx k c).asks || (s.ctx k c).holdsUnits) && s.nat 0x2700 1 == 0 then
      some q
    else none

/-- An op fetched with a parity error: it is not executed (R186, R508 reason 4). -/
def State.opParity (s : State) (k : IsleNo) (c : CtxNo) : State := (s.faultCtx k c 0x310D).noteOpParity k

/-- What the checks of R206 find in the head op: orders 1 to 7, then orders 8 and 9 as `check` gives them; nothing once it has passed. -/
def State.headFault (s : State) (k : IsleNo) (c : CtxNo) (op : Bytes) (check : Bytes → State → Option Nat) : Option Nat :=
  if (s.ctx k c).checked then none else (headCheck op (s.ctx k c).opqCap k).or (check op s)

/-- A row of the tile-op table on context `c` of isle `k`: the op at the head is checked once, as it gets there (R206); when its units are
its own, or it may take them, it goes on with `body`. Where no op of the row stands there the state is unchanged. -/
def State.opRow (s : State) (k : IsleNo) (c : CtxNo) (key : Nat × Nat) (us : Upsets) (check : Bytes → State → Option Nat)
    (body : Bytes → State → State) : State :=
  match s.headFor k c key with
  | none => s
  | some q =>
    let s := s.applyUpsets us.sp
    if us.opParity && !(s.ctx k c).checked then s.opParity k c
    else match s.headFault k c q.bytes check with
      | some code => s.faultCtx k c code
      | none =>
        let s := s.modCtx k c fun x => { x with checked := true }
        if !s.mayRun k c then s
        else
          let s := (s.takeUnits k c).countOp k c
          if (s.ctx k c).sending then s.finishOp k c else body q.bytes s

/-- The checks of orders 8 and 9 of an op without operands: none. -/
def noCheck : Bytes → State → Option Nat := fun _ _ => none

end Sys2Proof.Machine
end

