-- ==== Sys2Proof/Machine/ControlOps.lean ====
section
/-! DEFINITION. The control ops: NOP, CLAIM, BLOCK_END, FENCE, WAIT, SETIX, HALT and SETSEED (spec/07_isle.md R188,
R203 to R205, R226, spec/11_tiling_and_streaming.md R300 to R302). -/

namespace Sys2Proof.Machine

/-- NOP. -/
def State.opNop (s : State) (k : IsleNo) (c : CtxNo) (us : Upsets) : State :=
  s.opRow k c (1, 0) us noCheck fun _ s => s.modCtx k c (·.retired)

/-- A CLAIM's block is malformed: its last op is no BLOCK_END, or a CLAIM stands inside it (R188). -/
def blockMalformed (q : List QueuedOp) (n : Nat) : Bool :=
  (q[n - 1]?.map fun x => opCode x.bytes) != some 3 || ((q.take n).drop 1).any fun x => opCode x.bytes == 2

/-- What the context does with its counter's answer; in release form the claim returns exhausted (R185, R300, R301). -/
def State.sendClaim (s : State) (k : IsleNo) (c : CtxNo) (op : Bytes) : State :=
  let x := s.ctx k c
  let n := claimCounter op
  let t := s.counters[n]
  if x.phase = .releasing then s.modCtx k c fun x => (x.claimed op t none).emptied
  else
    let (a, t') := t.claim k c x.owner
    let s := s.modCounter n fun _ => t'
    match a with
    | .index i => s.modCtx k c (·.claimed op t (some i))
    | .exhausted => s.modCtx k c (·.claimed op t none)
    | .waits => s.modCtx k c (·.waitFor .claim s.now)
    | .fault code => s.faultCtx k c code

/-- CLAIM: the whole block is awaited and checked, then the claim is sent (R188). -/
def State.opClaim (s : State) (k : IsleNo) (c : CtxNo) (us : Upsets) : State :=
  s.opRow k c (2, 0) us noCheck fun op s =>
    let x := s.ctx k c
    let n := claimLen op
    if x.block.isSome then s.faultCtx k c 0x310A
    else if x.queue.length < n ∧ x.phase ≠ .releasing then s.modCtx k c (·.waitFor .queue s.now)
    else if n ≠ 0 ∧ n ≤ x.queue.length ∧ blockMalformed x.queue n then s.faultCtx k c 0x310A
    else s.sendClaim k c op

/-- BLOCK_END: the tile is reported done and execution returns to the CLAIM; outside a block it is malformed (R188,
R302). -/
def State.opBlockEnd (s : State) (k : IsleNo) (c : CtxNo) (us : Upsets) : State :=
  s.opRow k c (3, 0) us noCheck fun _ s =>
    match (s.ctx k c).block with
    | none => s.faultCtx k c 0x310A
    | some b =>
      (s.modCounter b.counter (·.report b.index k c)).modCtx k c fun x =>
        if x.stopping then x.emptied else Context.rest { x with block := none, pos := 0 }

/-- SETIX. -/
def State.opSetix (s : State) (k : IsleNo) (c : CtxNo) (us : Upsets) : State :=
  s.opRow k c (6, 0) us noCheck fun op s =>
    let i : Fin 4 := Fin.ofNat 4 (fieldAt op 8 0 2)
    let v := bitsOf (leAt op 12 4) 0 20
    s.modCtx k c fun x => (x.setIx i (if bitOf (byteAt op 8) 2 then x.ix[i].toNat + v else v)).retired

/-- HALT: the context is idle and disabled; the ops after it stay in the queue (R203). -/
def State.opHalt (s : State) (k : IsleNo) (c : CtxNo) (us : Upsets) : State :=
  s.opRow k c (7, 0) us noCheck fun _ s =>
    s.modCtx k c fun x => { x.retired with enable := false, phase := .idle }

/-- SETSEED (R226). -/
def State.opSetseed (s : State) (k : IsleNo) (c : CtxNo) (us : Upsets) : State :=
  s.opRow k c (8, 0) us noCheck fun op s =>
    s.modCtx k c fun x => { x with seed := BitVec.ofNat 64 (leAt op 8 8) }.retired

/-! ### FENCE (R204) -/

/-- The channels a FENCE waits for, each with the arrivals that make up what it had completed as the FENCE issues. -/
def State.fenceGoals (s : State) (k : IsleNo) (mask : Nat) : List (Nat × Nat) :=
  ((engineChans (.isle k)).filter fun (c : ChanNo) => mask.testBit c.val).map fun c =>
    (c.val, (s.chan (.isle k) c).landed + (s.chan (.isle k) c).transit.length)

/-- Whether anything a context sent is still on its way (R204). -/
def State.outstanding (s : State) (k : IsleNo) (c : CtxNo) : Bool :=
  (s.ctx k c).unsent != [] || allIsles.any fun d => s.isles[d].inbound.any fun i => i.src == k && i.ctx == some c

/-- What a FENCE waits for has come. -/
def State.fenceMet (s : State) (k : IsleNo) (c : CtxNo) (op : Bytes) (goals : List (Nat × Nat)) : Bool :=
  !(bitOf (byteAt op 8) 0 && s.outstanding k c)
    && goals.all fun g => g.2 ≤ (s.chan (.isle k) (Fin.ofNat 16 g.1)).landed

/-- The word a control op names: its isle and address. -/
def State.target (s : State) (k : IsleNo) (c : CtxNo) (op : Bytes) (o : Nat) : IsleNo × Nat :=
  let p := operandAt op o
  (p.place k, p.origin (s.ctx k c).ix)

/-- The check of a control op's target word (orders 8 and 9 of R206). -/
def State.targetCheck (s : State) (k : IsleNo) (c : CtxNo) (t : IsleNo × Nat) (wr : Bool) : Option Nat :=
  if spWords ≤ t.2 then some 0x3108 else s.windowCheck (s.ctx k c).owner 2 (some t.1) t.2 t.2 (!wr) wr

/-- The signal word written: locally at once, else sent through the straits with the tag change behind it (R204). -/
def State.signal (s : State) (k : IsleNo) (c : CtxNo) (op : Bytes) : State :=
  let t := s.target k c op 12
  let w : WordWrite := { isle := t.1, word := t.2, op := .plain, bytes := (List.range 32).zip (slice op 24 4 ++ zeros 28) }
  let a := s.isles[t.1].atollAt t.2
  let slot (n : AtollNo) : Nat := (s.isles[t.1].atolls[n]).slotOf t.2
  if t.1 = k then
    let (_, s) := s.writeWord w (s.ctx k c).owner
    match a with
    | some n => s.fillSlots k n [slot n]
    | none => s
  else
    let tag := match a with
      | some n => [s.item k c t.1 (.slotFull n (slot n))]
      | none => []
    s.modCtx k c fun x => { x with unsent := x.unsent ++ (s.item k c t.1 (.word w) :: tag) }

/-- Whether a FENCE's signal is still unsent or on its way to its isle. -/
def State.signalDue (s : State) (k : IsleNo) (c : CtxNo) (op : Bytes) : Bool :=
  (s.ctx k c).unsent != [] || s.isles[(s.target k c op 12).1].inbound.any fun i => i.src == k && i.ctx == some c

/-- A FENCE whose waits are over: without a signal it retires; with one it writes it, and retires when the signal has
been acknowledged. A signal without a transport credit waits for one (R289). -/
def State.endFence (s : State) (k : IsleNo) (c : CtxNo) (op : Bytes) : State :=
  let s := if bitOf (byteAt op 8) 1 ∧ ¬ (s.ctx k c).signalled then
      (s.signal k c op).modCtx k c fun x => { x with signalled := true }
    else s
  let s := s.sendWords k c (s.ctx k c).unsent.length
  if (s.ctx k c).signalled && s.signalDue k c op then s.modCtx k c (·.waitFor .fence s.now) else s.modCtx k c (·.retired)

/-- Orders 8 and 9 for a FENCE: its signal's target. -/
def State.fenceCheck (k : IsleNo) (c : CtxNo) (op : Bytes) (s : State) : Option Nat :=
  if bitOf (byteAt op 8) 1 then s.targetCheck k c (s.target k c op 12) true else none

/-- FENCE. -/
def State.opFence (s : State) (k : IsleNo) (c : CtxNo) (us : Upsets) : State :=
  s.opRow k c (4, 0) us (State.fenceCheck k c) fun op s =>
    let x := s.ctx k c
    if x.phase = .releasing then s.modCtx k c (·.retired)
    else
      let goals := x.fenceGoal.getD (s.fenceGoals k (byteAt op 9))
      let s := s.modCtx k c fun x => { x with fenceGoal := some goals }
      if x.signalled || s.fenceMet k c op goals then s.endFence k c op else s.modCtx k c (·.waitFor .fence s.now)

/-! ### WAIT (R205) -/

/-- The slot of a word, when an enabled atoll of its isle holds it. -/
def State.slotAt (s : State) (t : IsleNo × Nat) : Option (AtollNo × Nat) :=
  (s.isles[t.1].atollAt t.2).map fun n => (n, (s.isles[t.1].atolls[n]).slotOf t.2)

/-- Whether a target word's tag is full; a word outside every atoll has no tag that could be. -/
def State.tagFull (s : State) (t : IsleNo × Nat) : Bool :=
  match s.slotAt t with
  | some (n, i) => (s.isles[t.1].atolls[n]).full.contains i
  | none => false

/-- A remote WAIT answered "empty": its context waits for the word (R183, R293). -/
def State.askWait (s : State) (k : IsleNo) (c : CtxNo) (dst : IsleNo) (n : AtollNo) (slot : Nat) : State :=
  (s.askRemote k c dst n slot).modCtx k c fun x => { x with cause := if x.phase = .waiting then .wait else x.cause }

/-- Orders 8 and 9 for a WAIT: its target. -/
def State.waitCheck (k : IsleNo) (c : CtxNo) (op : Bytes) (s : State) : Option Nat := s.targetCheck k c (s.target k c op 8) false

/-- WAIT: it ends when the tag is full, and may set it empty in the same access. -/
def State.opWait (s : State) (k : IsleNo) (c : CtxNo) (us : Upsets) : State :=
  s.opRow k c (5, 0) us (State.waitCheck k c) fun op s =>
    let t := s.target k c op 8
    if (s.ctx k c).phase = .releasing then s.modCtx k c (·.retired)
    else if s.tagFull t then
      let s := match s.slotAt t with
        | some (n, i) => if bitOf (byteAt op 20) 0 then s.emptySlots t.1 n [i] else s
        | none => s
      s.modCtx k c (·.retired)
    else match s.slotAt t with
      | some (n, i) => if t.1 = k then s.modCtx k c (·.waitFor .wait s.now) else s.askWait k c t.1 n i
      | none => s.modCtx k c (·.waitFor .wait s.now)

/-! ### The rows -/

/-- NOP. -/
def execNop (k : IsleNo) (c : CtxNo) (us : Upsets) (s : State) : Answer := live s (s.opNop k c us)
/-- CLAIM. -/
def execClaim (k : IsleNo) (c : CtxNo) (us : Upsets) (s : State) : Answer := live s (s.opClaim k c us)
/-- BLOCK_END. -/
def execBlockEnd (k : IsleNo) (c : CtxNo) (us : Upsets) (s : State) : Answer := live s (s.opBlockEnd k c us)
/-- FENCE. -/
def execFence (k : IsleNo) (c : CtxNo) (us : Upsets) (s : State) : Answer := live s (s.opFence k c us)
/-- WAIT. -/
def execWait (k : IsleNo) (c : CtxNo) (us : Upsets) (s : State) : Answer := live s (s.opWait k c us)
/-- SETIX. -/
def execSetix (k : IsleNo) (c : CtxNo) (us : Upsets) (s : State) : Answer := live s (s.opSetix k c us)
/-- HALT. -/
def execHalt (k : IsleNo) (c : CtxNo) (us : Upsets) (s : State) : Answer := live s (s.opHalt k c us)
/-- SETSEED. -/
def execSetseed (k : IsleNo) (c : CtxNo) (us : Upsets) (s : State) : Answer := live s (s.opSetseed k c us)

end Sys2Proof.Machine
end

