-- ==== Sys2Proof/Machine/DataOps.lean ====
section
/-! DEFINITION. The matrix, skerry and vector rows, and the post-processors' effect on the frame they serve
(spec/07_isle.md R190 to R202, spec/06_outputs_and_analysis.md R161 to R168). -/

namespace Sys2Proof.Machine

/-- A data op's row: operands, tags and results as its work gives them. -/
def State.workRow (s : State) (k : IsleNo) (c : CtxNo) (run : Option Nat) (us : Upsets) (key : Nat × Nat)
    (w : OpContext → OpWork) : State :=
  s.opRow k c key us (fun op s => s.dataCheck k c op w) fun op s => s.dataOp k c op run w fun _ s => s

/-- CONV. -/
def execConv (k : IsleNo) (c : CtxNo) (run : Option Nat) (us : Upsets) (s : State) : Answer :=
  live s (s.workRow k c run us (0x20, 0) convWork)
/-- CONV_BWD. -/
def execConvBwd (k : IsleNo) (c : CtxNo) (run : Option Nat) (us : Upsets) (s : State) : Answer :=
  live s (s.workRow k c run us (0x21, 0) convWork)
/-- WGRAD. -/
def execWgrad (k : IsleNo) (c : CtxNo) (run : Option Nat) (us : Upsets) (s : State) : Answer :=
  live s (s.workRow k c run us (0x22, 0) wgradWork)
/-- SK_CONV. -/
def execSkConv (k : IsleNo) (c : CtxNo) (run : Option Nat) (us : Upsets) (s : State) : Answer :=
  live s (s.workRow k c run us (0x40, 0) skWork)
/-- SK_CONV_BWD. -/
def execSkConvBwd (k : IsleNo) (c : CtxNo) (run : Option Nat) (us : Upsets) (s : State) : Answer :=
  live s (s.workRow k c run us (0x41, 0) skWork)
/-- VEC_ELT_ADD. -/
def execVecEltAdd (k : IsleNo) (c : CtxNo) (run : Option Nat) (us : Upsets) (s : State) : Answer :=
  live s (s.workRow k c run us (0x60, 1) eltWork)
/-- VEC_ELT_SUB. -/
def execVecEltSub (k : IsleNo) (c : CtxNo) (run : Option Nat) (us : Upsets) (s : State) : Answer :=
  live s (s.workRow k c run us (0x60, 2) eltWork)
/-- VEC_ELT_MUL. -/
def execVecEltMul (k : IsleNo) (c : CtxNo) (run : Option Nat) (us : Upsets) (s : State) : Answer :=
  live s (s.workRow k c run us (0x60, 3) eltWork)
/-- VEC_ELT_MAX. -/
def execVecEltMax (k : IsleNo) (c : CtxNo) (run : Option Nat) (us : Upsets) (s : State) : Answer :=
  live s (s.workRow k c run us (0x60, 4) eltWork)
/-- VEC_ELT_MIN. -/
def execVecEltMin (k : IsleNo) (c : CtxNo) (run : Option Nat) (us : Upsets) (s : State) : Answer :=
  live s (s.workRow k c run us (0x60, 5) eltWork)
/-- VEC_ELT_REQUANT. -/
def execVecEltRequant (k : IsleNo) (c : CtxNo) (run : Option Nat) (us : Upsets) (s : State) : Answer :=
  live s (s.workRow k c run us (0x60, 6) eltWork)
/-- VEC_ELT_ABSDIFF. -/
def execVecEltAbsdiff (k : IsleNo) (c : CtxNo) (run : Option Nat) (us : Upsets) (s : State) : Answer :=
  live s (s.workRow k c run us (0x60, 7) eltWork)
/-- VEC_ELT_COPY. -/
def execVecEltCopy (k : IsleNo) (c : CtxNo) (run : Option Nat) (us : Upsets) (s : State) : Answer :=
  live s (s.workRow k c run us (0x60, 8) eltWork)
/-- VEC_LUT8. -/
def execVecLut8 (k : IsleNo) (c : CtxNo) (run : Option Nat) (us : Upsets) (s : State) : Answer :=
  live s (s.workRow k c run us (0x61, 1) lutWork)
/-- VEC_LUT16. -/
def execVecLut16 (k : IsleNo) (c : CtxNo) (run : Option Nat) (us : Upsets) (s : State) : Answer :=
  live s (s.workRow k c run us (0x61, 2) lutWork)
/-- VEC_POOL_MAX. -/
def execVecPoolMax (k : IsleNo) (c : CtxNo) (run : Option Nat) (us : Upsets) (s : State) : Answer :=
  live s (s.workRow k c run us (0x62, 1) poolWork)
/-- VEC_POOL_AVG. -/
def execVecPoolAvg (k : IsleNo) (c : CtxNo) (run : Option Nat) (us : Upsets) (s : State) : Answer :=
  live s (s.workRow k c run us (0x62, 2) poolWork)
/-- VEC_RESAMPLE_NEAREST. -/
def execVecResampleNearest (k : IsleNo) (c : CtxNo) (run : Option Nat) (us : Upsets) (s : State) : Answer :=
  live s (s.workRow k c run us (0x63, 1) resampleWork)
/-- VEC_RESAMPLE_BILINEAR. -/
def execVecResampleBilinear (k : IsleNo) (c : CtxNo) (run : Option Nat) (us : Upsets) (s : State) : Answer :=
  live s (s.workRow k c run us (0x63, 2) resampleWork)
/-- VEC_ROTATE_FORWARD. -/
def execVecRotateForward (k : IsleNo) (c : CtxNo) (run : Option Nat) (us : Upsets) (s : State) : Answer :=
  live s (s.workRow k c run us (0x64, 1) rotateWork)
/-- VEC_ROTATE_INVERSE. -/
def execVecRotateInverse (k : IsleNo) (c : CtxNo) (run : Option Nat) (us : Upsets) (s : State) : Answer :=
  live s (s.workRow k c run us (0x64, 2) rotateWork)
/-- VEC_REDUCE_SUM. -/
def execVecReduceSum (k : IsleNo) (c : CtxNo) (run : Option Nat) (us : Upsets) (s : State) : Answer :=
  live s (s.workRow k c run us (0x65, 1) reduceWork)
/-- VEC_REDUCE_SUMSQ. -/
def execVecReduceSumsq (k : IsleNo) (c : CtxNo) (run : Option Nat) (us : Upsets) (s : State) : Answer :=
  live s (s.workRow k c run us (0x65, 2) reduceWork)
/-- VEC_OPTIM_MOMENT1. -/
def execVecOptimMoment1 (k : IsleNo) (c : CtxNo) (run : Option Nat) (us : Upsets) (s : State) : Answer :=
  live s (s.workRow k c run us (0x66, 1) moment1Work)
/-- VEC_OPTIM_MOMENT2. -/
def execVecOptimMoment2 (k : IsleNo) (c : CtxNo) (run : Option Nat) (us : Upsets) (s : State) : Answer :=
  live s (s.workRow k c run us (0x66, 2) moment2Work)
/-- VEC_OPTIM_MASTER. -/
def execVecOptimMaster (k : IsleNo) (c : CtxNo) (run : Option Nat) (us : Upsets) (s : State) : Answer :=
  live s (s.workRow k c run us (0x66, 3) masterWork)

/-! ### Box decoding (R161 to R166) -/

/-- The candidate record of 16 bytes (R161). -/
def candOf (bs : Bytes) (index : Nat) : Candidate :=
  { gx := leAt bs 0 2, gy := leAt bs 2 2, l := leAt bs 4 2, t := leAt bs 6 2, r := leAt bs 8 2, b := leAt bs 10 2
    cls := byteAt bs 12, score := byteAt bs 13, head := fieldAt bs 14 0 3, index := index }

/-- The key order of R162: whether `a` comes before `b`. -/
def candBefore (a b : Candidate) : Bool :=
  let ka := [255 - a.score, a.head, a.gy, a.gx, a.cls, a.index]
  let kb := [255 - b.score, b.head, b.gy, b.gx, b.cls, b.index]
  decide (ka < kb)

/-- A record placed among the held ones. -/
def candInsert (a : Candidate) : List Candidate → List Candidate
  | [] => [a]
  | b :: bs => if candBefore a b then a :: b :: bs else b :: candInsert a bs

/-- The bytes of one candidate record. -/
def candBytes (bs : Bytes) (i : Nat) : Bytes := slice bs (16 * i) 16

/-- The values of the RW-F entries a frame runs under. -/
def State.knobsOf (s : State) (k : SlotNo) (n : Nat) : FrameKnobs := ((s.slots[k].frameOf n).map (·.knobs)).getD {}

/-- The intake of one record into a frame: discarded, held, or dropped (R161, R162). -/
def State.intake (s : State) (k : SlotNo) (n : Nat) (an : Bytes) (rec : Bytes) (index : Nat) : State :=
  let x := candOf rec index
  let bad := fieldAt rec 14 3 5 != 0 || byteAt rec 15 != 0 || anClassesM1 an < x.cls || anHeads an ≤ x.head
  if bad then s.bump (slotIndex k) 0x59
  else if x.score < (s.knobsOf k n).score then s
  else
    let s := s.modFrame k n fun f => { f with cands := candInsert x f.cands }
    let held : Nat := ((s.slots[k].frameOf n).map fun (f : Frame) => f.cands.length).getD 0
    if held ≤ 8192 then s
    else
      let s := (s.bump (slotIndex k) 0x59).modFrame k n fun f =>
        { f with cands := f.cands.take 8192, status := setBit f.status 24 }
      s.raiseFrame k n 0x3D02

/-- The step that some work serves. -/
def stepOf (v : Serves) : Option Nat :=
  match v with
  | .frame _ _ n => some n
  | _ => none

/-- The frame of an analysing slot that some work serves, with its analysis descriptor. -/
def State.analysed (s : State) (v : Serves) : Option (SlotNo × Nat × Bytes) :=
  match v with
  | .frame sl n _ => if (s.slots[sl].frameOf n).isSome then (s.slotAnalysis sl).map fun p => (sl, n, p.body) else none
  | _ => none

/-- The records an INTAKE read, taken in ascending record index. -/
def State.takeRecords (s : State) (v : Serves) (oc : OpContext) (words : List Int) : State :=
  match s.analysed v with
  | none => s
  | some (sl, n, an) =>
    let s := s.modFrame sl n fun f => { f with postStep := stepOf v }
    s.each (words.map (·.toNat)) fun s w =>
      let bs := s.isles[oc.place 8].sp.peek w
      s.each [0, 1] fun s i => s.intake sl n an (candBytes bs i) (2 * (w - opTable oc.op) + i)

/-- VEC_BOXDEC_INTAKE (R161, R162). -/
def State.opIntake (s : State) (k : IsleNo) (c : CtxNo) (run : Option Nat) (us : Upsets) : State :=
  let v := (s.ctx k c).serves
  s.opRow k c (0x67, 1) us (fun op s => s.dataCheck k c op intakeWork) fun op s =>
    s.dataOp k c op run intakeWork fun oc t => t.takeRecords v oc (intakeWork oc).x

/-- A decoded box: the candidate and its corners in quarter pixels (R163). -/
structure Box where
  cand : Candidate
  x0 : Nat
  y0 : Nat
  x1 : Nat
  y1 : Nat
  deriving DecidableEq, Repr

/-- A distance of 2^e pixels in quarter pixels; `e` is at least -2 (R163). -/
def quarter (d : Nat) (e : Int) : Int := d * 2 ^ (e + 2).toNat

/-- Decoding of one record under its head's stride and distance exponents (R163). -/
def decodeBox (an : Bytes) (x : Candidate) : Box :=
  let k := anHeadStride an x.head
  let e := anHeadExp an x.head
  let cx : Int := (2 * x.gx + 1) * 2 ^ (k + 1)
  let cy : Int := (2 * x.gy + 1) * 2 ^ (k + 1)
  let cl (hi : Nat) (v : Int) : Nat := (clampInt 0 (4 * hi : Nat) v).toNat
  { cand := x
    x0 := cl (anWidth an) (cx - quarter x.l e)
    y0 := cl (anHeight an) (cy - quarter x.t e)
    x1 := cl (anWidth an) (cx + quarter x.r e)
    y1 := cl (anHeight an) (cy + quarter x.b e) }

/-- The overlap of two boxes in units of 1/65,536 (R164). -/
def iou16 (a b : Box) : Nat :=
  let iw := min a.x1 b.x1 - max a.x0 b.x0
  let ih := min a.y1 b.y1 - max a.y0 b.y0
  let inter := iw * ih
  let area (x : Box) : Nat := (x.x1 - x.x0) * (x.y1 - x.y0)
  let union := area a + area b - inter
  if union = 0 then 0 else min (inter * 65536 / union) 65535

/-- One visit of the suppressor: kept boxes in order, each with how many records it suppressed (R164). -/
def visit (mode thr : Nat) (kept : List (Box × Nat)) (b : Box) : List (Box × Nat) :=
  let meets (q : Box × Nat) : Bool := (mode == 1 || q.1.cand.cls == b.cand.cls) && thr < iou16 q.1 b
  match kept.findIdx? meets with
  | some i => (List.range kept.length).zip kept |>.map fun (p : Nat × Box × Nat) => if p.1 = i then (p.2.1, p.2.2 + 1) else p.2
  | none => kept ++ [(b, 0)]

/-- The suppressor over the held records; it stops at the keep limit. Kept boxes and the records left unvisited. -/
def suppressAll (mode thr keep : Nat) : List (Box × Nat) → List Box → List (Box × Nat) × Nat
  | kept, [] => (kept, 0)
  | kept, b :: bs => if kept.length = keep then (kept, (b :: bs).length) else suppressAll mode thr keep (visit mode thr kept b) bs

/-- The detection of a kept box, and its record (R165). -/
def detectionOf (q : Box × Nat) : Detection :=
  { x0 := q.1.x0, y0 := q.1.y0, x1 := q.1.x1, y1 := q.1.y1, cls := q.1.cand.cls, score := q.1.cand.score
    head := q.1.cand.head, suppressed := q.2 }
def Detection.bytes (d : Detection) : Bytes :=
  toLe 2 d.x0 ++ toLe 2 d.y0 ++ toLe 2 d.x1 ++ toLe 2 d.y1 ++ [byte d.cls, byte d.score, byte d.head, 0]
    ++ toLe 2 d.suppressed ++ zeros 2

/-- The detections of a frame of slot `k`, and how many held records were left unvisited. -/
def State.suppressed (s : State) (k : SlotNo) (f : Frame) (an : Bytes) : List Detection × Nat :=
  let r := suppressAll f.knobs.mode f.knobs.iou (s.slotNat k 0x4D) [] (f.cands.map (decodeBox an))
  (r.1.map detectionOf, r.2)

/-- What a SUPPRESS writes for the frame its context serves, and how many records it left unvisited. -/
def State.suppressOf (s : State) (v : Serves) : (OpContext → OpWork) × List Detection × Nat :=
  match s.analysed v with
  | none => (fun oc => suppressWork oc 0 [], [], 0)
  | some (sl, n, an) =>
    let r := ((s.slots[sl].frameOf n).map fun f => s.suppressed sl f an).getD ([], 0)
    (fun oc => suppressWork oc (s.slotNat sl 0x4D) (r.1.map (·.bytes)), r)

/-- The detections of a SUPPRESS become the frame's (R163 to R165). -/
def State.setDetections (s : State) (v : Serves) (r : List Detection × Nat) : State :=
  match s.analysed v with
  | none => s
  | some (sl, n, _) =>
    let s := s.modFrame sl n fun f =>
      { f with detections := r.1, detectDone := true, status := setBitIf f.status 25 (r.2 != 0) }
    if r.2 = 0 then s else s.raiseFrame sl n 0x3D03

/-- VEC_BOXDEC_SUPPRESS (R163 to R165): the detections become the frame's, and their records go to Y. -/
def State.opSuppress (s : State) (k : IsleNo) (c : CtxNo) (run : Option Nat) (us : Upsets) : State :=
  let v := (s.ctx k c).serves
  s.opRow k c (0x67, 2) us (fun op s => s.dataCheck k c op (s.suppressOf v).1) fun op s =>
    let r := s.suppressOf v
    s.dataOp k c op run r.1 fun _ t => t.setDetections v r.2

/-- Pixels of a frame's map written by an op; an op of a block counts once for its tile. -/
def Frame.mapped (f : Frame) (v : Serves) (place : Option (Nat × Nat × Nat)) (pixels : Nat) : Frame :=
  if place.any f.mapOps.contains then f
  else { f with mapPixels := f.mapPixels + pixels, mapOps := place.toList ++ f.mapOps, postStep := stepOf v }

/-- VEC_ARGMAX (R167): the map's pixels go to Y. -/
def State.opArgmax (s : State) (k : IsleNo) (c : CtxNo) (run : Option Nat) (us : Upsets) : State :=
  let x := s.ctx k c
  s.opRow k c (0x68, 1) us (fun op s => s.dataCheck k c op argmaxWork) fun op s =>
    s.dataOp k c op run argmaxWork fun oc t =>
      match t.analysed x.serves with
      | none => t
      | some (sl, n, _) =>
        t.modFrame sl n (·.mapped x.serves (x.block.map fun b => (b.counter.val, b.index, x.pos))
          (oc.tile.rows.length * oc.tile.cols.length))

/-- VEC_BOXDEC_INTAKE. -/
def execVecBoxdecIntake (k : IsleNo) (c : CtxNo) (run : Option Nat) (us : Upsets) (s : State) : Answer :=
  live s (s.opIntake k c run us)
/-- VEC_BOXDEC_SUPPRESS. -/
def execVecBoxdecSuppress (k : IsleNo) (c : CtxNo) (run : Option Nat) (us : Upsets) (s : State) : Answer :=
  live s (s.opSuppress k c run us)
/-- VEC_ARGMAX. -/
def execVecArgmax (k : IsleNo) (c : CtxNo) (run : Option Nat) (us : Upsets) (s : State) : Answer :=
  live s (s.opArgmax k c run us)

end Sys2Proof.Machine
end

