-- ==== Sys2Proof/Machine/Contexts.lean ====
section
/-! DEFINITION. Task contexts as the control core and the sequencer act on them (spec/07_isle.md R182 to R187, R207,
R210). -/

namespace Sys2Proof.Machine

/-- The accesses of a context's head op; none for a control op. -/
def State.headAccesses (s : State) (k : IsleNo) (c : CtxNo) : List Access :=
  match (s.ctx k c).head with
  | none => []
  | some q =>
    let oc := s.opContext k c q.bytes
    if (opClass (opCode q.bytes)).all (· == .control) then []
    else if opKey q.bytes = some (0x67, 2) then opAccesses oc ((s.suppressOf (s.ctx k c).serves).1 oc)
    else opAccesses oc (opWork oc)

/-- Whether a wake notice or a retry is still due to a context (R293). -/
def State.wakeDue (s : State) (k : IsleNo) (c : CtxNo) : Bool :=
  (s.isles[k].retries.any (·.ctx == c)) || allIsles.any fun d => s.isles[d].wakes.any fun w => w.src == k && w.ctx == c

/-- Whether what a waiting context waits for has come (R183). -/
def State.causeCleared (s : State) (k : IsleNo) (c : CtxNo) : Bool :=
  let x := s.ctx k c
  let op := (x.head.map (·.bytes)).getD []
  match x.cause with
  | .none => true
  | .claim => false
  | .queue => claimLen op ≤ x.queue.length
  | .tag => !s.wakeDue k c && s.opHold k (s.inRerun x.serves) (s.headAccesses k c) == .go
  | .wait => !s.wakeDue k c && s.tagFull (s.target k c op 8)
  | .fence =>
    match x.unsent, x.fenceGoal with
    | i :: _, _ => wordCount [i] == 0 || s.inFlight k i.dst < 256
    | [], some g => if x.signalled then !s.signalDue k c op else s.fenceMet k c op g
    | [], none => s.opHold k (s.inRerun x.serves) (s.headAccesses k c) == .go

/-- The context made ready once its cause has cleared (R182, R283). -/
def State.wake (s : State) (k : IsleNo) (c : CtxNo) : State :=
  s.modCtx k c fun x => { x with phase := .ready, cause := .none }

/-- TILE_OP_RESUME (R182): a waiting context whose cause has cleared is ready; an op with words to send sends them; a
ready context whose units are free or held at a lower priority takes them. -/
def State.resumeCtx (s : State) (k : IsleNo) (c : CtxNo) (t : Nat) : State :=
  let s := s.at_ t
  let x := s.ctx k c
  if s.nat 0x2700 1 ≠ 0 then s
  else if x.phase = .waiting ∧ s.causeCleared k c then
    if x.sending then s.finishOp k c
    else
      let s := s.wake k c
      if s.mayRun k c then s.takeUnits k c else s
  else if x.asks ∧ x.suspended ∧ s.mayRun k c then
    let s := s.takeUnits k c
    if x.sending then s.finishOp k c else s
  else s

/-- CONTEXT_WAIT_LIMIT (R184): a context that has waited longer than the limit faults. -/
def State.waitLimit (s : State) (k : IsleNo) (c : CtxNo) : State :=
  let x := s.ctx k c
  if x.phase = .waiting then (s.at_ (x.waitSince + s.isles[k].waitLimit + 1)).faultCtx k c 0x310B else s

/-- Whether a queue placement is legal: inside op memory, a multiple of 16, and apart from every other enabled
context's (R186). -/
def State.placementBad (s : State) (k : IsleNo) (c : CtxNo) (base cap : Nat) : Bool :=
  cap < 16 || 512 < cap || cap % 16 != 0 || 512 < base + cap
    || (allCtx.filter (· != c)).any fun d =>
      let y := s.ctx k d
      y.enable && rangesMeet (base, base + cap) (y.opqBase, y.opqBase + y.opqCap)

/-- A write of TILE_CTX_CTRL (R210), its stop and reset bits aside: owner and queue placement change only while the
context is disabled and idle or faulted; setting enable checks the placement (R186), and leaves an op in progress as it is. -/
def State.ctrlWrite (s : State) (k : IsleNo) (c : CtxNo) (v : BitVec 32) (w : Serves) : State :=
  let x := s.ctx k c
  let n := v.toNat
  let free := !x.enable && (x.phase == .idle || x.phase == .faulted)
  let y : Context := { x with
    priority := Fin.ofNat 4 (bitsOf n 4 2)
    owner := if free then Fin.ofNat 16 (bitsOf n 0 4) else x.owner
    opqBase := if free then bitsOf n 9 9 else x.opqBase
    opqCap := if free then bitsOf n 18 10 else x.opqCap }
  if bitOf n 6 then
    if x.enable then s.modCtx k c fun _ => y
    else if x.phase ≠ .idle ∧ x.phase ≠ .faulted then s.modCtx k c fun _ => { y with enable := true }
    else if s.isles[k].health.phase ≠ .available ∨ x.phase = .faulted then s.modCtx k c fun _ => y
    else if s.placementBad k c y.opqBase y.opqCap then
      (s.modCtx k c fun _ => y).raise 0x310C { isle := k }
    else s.modCtx k c fun _ => Context.rest { y with enable := true, serves := w }
  else
    s.modCtx k c fun _ =>
      { y with enable := false, phase := if x.phase = .ready ∧ ¬ x.suspended then .idle else x.phase }

/-- A context's reset: ignored unless idle or faulted (R207, R210, R226). -/
def Context.resetBit (x : Context) : Context :=
  if x.phase = .idle ∨ x.phase = .faulted then
    { x.emptied with ix := Vector.replicate 4 0, seed := 0, faultCode := 0, faultOp := 0 }
  else x

/-- A push of one op (R187): into a full queue it is discarded and faults the context. -/
def State.pushOp (s : State) (k : IsleNo) (c : CtxNo) (op : Bytes) : State :=
  let x := s.ctx k c
  if x.opqCap ≤ x.queue.length then s.faultCtx k c 0x3107
  else
    s.modCtx k c fun x =>
      let y := { x with queue := x.queue ++ [⟨op⟩] }
      if y.phase = .idle ∧ y.enable ∧ ¬ y.stopping then { y with phase := .ready } else y

/-! ### The rows -/

/-- TILE_OP_RESUME. -/
def execTileOpResume (k : IsleNo) (c : CtxNo) (at_ : Nat) (s : State) : Answer := live s (s.resumeCtx k c at_)
/-- CONTEXT_WAIT_LIMIT. -/
def execContextWaitLimit (k : IsleNo) (c : CtxNo) (s : State) : Answer := live s (s.waitLimit k c)
/-- CONTEXT_ENABLE. -/
def execContextEnable (k : IsleNo) (c : CtxNo) (ctrl : BitVec 32) (w : Serves) (s : State) : Answer :=
  live s (s.ctrlWrite k c ctrl w)
/-- CONTEXT_STOP. -/
def execContextStop (k : IsleNo) (c : CtxNo) (s : State) : Answer := live s (s.stopCtx k c)
/-- CONTEXT_RESET. -/
def execContextReset (k : IsleNo) (c : CtxNo) (s : State) : Answer := live s (s.modCtx k c (·.resetBit))
/-- OP_PUSH: the push port accepts 64-byte writes only (R210). -/
def execOpPush (k : IsleNo) (c : CtxNo) (op : Bytes) (s : State) : Answer :=
  live s (if op.length = 64 then s.pushOp k c op else s)

end Sys2Proof.Machine
end

