-- ==== Sys2Proof/Machine/Counters.lean ====
section
/-! DEFINITION. The tile counter unit's commands (spec/11_tiling_and_streaming.md R297 to R304). -/

namespace Sys2Proof.Machine

/-- A write or command the unit refuses (R298, R299). -/
def State.refuseCounter (s : State) : State := s.raise 0x3202

/-- The fields at an offset replaced by a value that keeps R298; none where it sets a reserved bit or leaves a range. The words of next and
done are read-only (R14). -/
def TileCounter.written (t : TileCounter) (off : Fin 8) (v : Nat) : Option TileCounter :=
  match off with
  | 0 =>
    let c := bitsOf v 0 13
    let r := bitsOf v 13 13
    if 4096 < c ∨ 4096 < r ∨ 3 < bitsOf v 26 3 ∨ bitsOf v 29 3 ≠ 0 then none
    else some { t with gridCols := c, gridRows := r, order := bitsOf v 26 3 }
  | 1 =>
    if bitsOf v 20 4 = 0 ∨ bitsOf v 25 7 ≠ 0 then none
    else some { t with limit := bitsOf v 0 20, owner := Fin.ofNat 16 (bitsOf v 20 4), requeueOk := bitOf v 24 }
  | 2 =>
    if bitsOf v 22 10 ≠ 0 then none
    else some { t with isleMask := BitVec.ofNat 16 v, predecessor := Fin.ofNat 64 (bitsOf v 16 6) }
  | 3 => some { t with rowEdge := BitVec.ofNat 32 v }
  | 4 => some { t with colEdge := BitVec.ofNat 32 v }
  | 5 => if bitsOf v 20 12 ≠ 0 then none else some t
  | 6 => if bitsOf v 20 4 ≠ 0 ∨ bitsOf v 27 5 ≠ 0 then none else some t
  | 7 => none

/-- A grid over its limit: the counter is closed, 0x3203 is raised and the frame it serves fails (R299, R316). -/
def State.gridOverrun (s : State) (n : CounterNo) : State :=
  match (s.counters[n]).serves with
  | some (k, f) => (s.raise 0x3203 { slot := k, detail := f }).failShape k f 0x3203
  | none =>
    match s.layerOf n with
    | none => s.raise 0x3203
    | some l => s.raise 0x3203 { slot := l.slot }

/-- A counter opened (R299); claims waiting on it are answered (R301). -/
def State.openCounter (s : State) (n : CounterNo) : State :=
  let r := s.counters[n].opened
  let s := (s.modCounter n fun _ => r.1).answerClaims n
  if r.2 then s.gridOverrun n else s

/-- A command of R299: taken where the counter's state lists it. -/
def State.counterCommand (s : State) (n : CounterNo) (ok : TileCounter → Bool) (f : State → State) : State :=
  if ok s.counters[n] then f s else s.refuseCounter

/-- Command open. -/
def State.counterOpen (s : State) (n : CounterNo) : State := s.counterCommand n (·.phase == .idle) (·.openCounter n)

/-- Command arm. -/
def State.counterArm (s : State) (n : CounterNo) : State :=
  s.counterCommand n (·.phase == .idle) (·.modCounter n fun t => { t with phase := .armed })

/-- Command close. -/
def State.counterClose (s : State) (n : CounterNo) : State :=
  s.counterCommand n (fun t => t.phase == .armed || t.phase == .open_ || t.phase == .exhausted) (·.closeCounter n)

/-- Command reset. -/
def State.counterReset (s : State) (n : CounterNo) : State :=
  s.counterCommand n (fun t => t.phase == .exhausted || t.phase == .closed) (·.modCounter n fun _ => {})

/-- Command requeue (R304). -/
def State.counterRequeue (s : State) (n : CounterNo) (index : Nat) : State :=
  match s.counters[n].requeue index with
  | some t => s.modCounter n fun _ => t
  | none => s.refuseCounter

/-- A write of the command word (R298): its command, refused where a reserved bit is set or the command is reserved. -/
def State.commandWrite (s : State) (n : CounterNo) (v : Nat) : State :=
  if bitsOf v 3 5 ≠ 0 ∨ bitsOf v 28 4 ≠ 0 then s.refuseCounter
  else match bitsOf v 0 3 with
    | 1 => s.counterOpen n
    | 2 => s.counterArm n
    | 3 => s.counterClose n
    | 4 => s.counterReset n
    | 5 => s.counterRequeue n (bitsOf v 8 20)
    | _ => s.refuseCounter

/-- COUNTER_CONFIG_WRITE (R298): word `off` of the counter's registers; fields only while idle, but for isle_mask. -/
def State.counterWrite (s : State) (n : CounterNo) (off : Fin 8) (v : BitVec 32) : State :=
  if off = 7 then s.commandWrite n v.toNat
  else
    let t := s.counters[n]
    match t.written off v.toNat with
    | none => s.refuseCounter
    | some u =>
      let u := { u with isleMask := u.isleMask &&& s.availableMask }
      if t.phase = .idle ∨ (off = 2 ∧ u.predecessor = t.predecessor) then s.modCounter n fun _ => u else s.refuseCounter

/-- COUNTER_OPEN. -/
def execCounterOpen (n : CounterNo) (s : State) : Answer := live s (s.counterOpen n)
/-- COUNTER_ARM. -/
def execCounterArm (n : CounterNo) (s : State) : Answer := live s (s.counterArm n)
/-- COUNTER_CLOSE. -/
def execCounterClose (n : CounterNo) (s : State) : Answer := live s (s.counterClose n)
/-- COUNTER_RESET. -/
def execCounterReset (n : CounterNo) (s : State) : Answer := live s (s.counterReset n)
/-- COUNTER_REQUEUE (R304). -/
def execCounterRequeue (n : CounterNo) (index : Nat) (s : State) : Answer := live s (s.counterRequeue n index)
/-- COUNTER_ARMED_OPEN: an armed counter whose predecessor is complete opens as the command open would (R299, R312). -/
def execCounterArmedOpen (n : CounterNo) (s : State) : Answer :=
  live s (if s.counters[n].phase = .armed ∧ s.counters[s.counters[n].predecessor].complete then s.openCounter n else s)
/-- COUNTER_CONFIG_WRITE. -/
def execCounterConfigWrite (n : CounterNo) (off : Fin 8) (v : BitVec 32) (s : State) : Answer :=
  live s (s.counterWrite n off v)

end Sys2Proof.Machine
end

