-- ==== Sys2Proof/Machine/Straits.lean ====
section
/-! DEFINITION. Attribute regions, scrubbing, atoll registers, and remote access through the straits
(spec/10_scratchpad.md R261, R262, R275, R280 to R285, R288 to R293). -/

namespace Sys2Proof.Machine

/-! ### Attributes (R261, R262) -/

/-- The attribute entries and the default of an isle, as R261 lays them out. -/
structure Attributes where
  entries : List AttrEntry
  hash : Fin 4
  strong : Bool
  deriving DecidableEq, Repr

/-- The attributes in force. -/
def Scratchpad.attributes (p : Scratchpad) : Attributes := ⟨p.attrs.toList, p.defaultHash, p.defaultStrong⟩

/-- Hash mode and guard of a row under some attributes. -/
def Attributes.at_ (a : Attributes) (row : Nat) : Nat × Bool :=
  match a.entries.find? (·.covers row) with
  | some e => (e.hashMode, e.strong)
  | none => (a.hash, a.strong)

/-- The attribute entry a value spells. -/
def attrOf (v : Nat) : AttrEntry :=
  { baseRow := bitsOf v 0 14, rows := bitsOf v 16 14, hashMode := Fin.ofNat 4 (bitsOf v 30 2), strong := bitOf v 32 }

/-- Reserved bits of a write: entry e below 32, else ISLE_SP_DEFAULT, whose format_busy is read-only and not reserved (R14). -/
def attrReserved (e v : Nat) : Bool :=
  if e < 32 then bitsOf v 14 2 != 0 || bitsOf v 33 31 != 0 else bitsOf v 4 60 != 0

/-- Whether two enabled entries would overlap. -/
def attrsOverlap (es : List AttrEntry) : Bool :=
  let on := es.filter fun e => e.rows != 0
  (List.range on.length).any fun i => (List.range on.length).any fun j =>
    i < j && rangesMeet ((on.getD i {}).baseRow, (on.getD i {}).baseRow + (on.getD i {}).rows)
      ((on.getD j {}).baseRow, (on.getD j {}).baseRow + (on.getD j {}).rows)

/-- The attributes after a write. -/
def Attributes.write (a : Attributes) (e v : Nat) : Attributes :=
  if e < 32 then { a with entries := modAt a.entries e fun _ => attrOf v }
  else { a with hash := Fin.ofNat 4 (bitsOf v 0 2), strong := bitOf v 2 }

/-- Whether an isle is busy for an attribute write: a context neither idle nor faulted, or a running channel (R262). -/
def State.isleBusy (s : State) (k : IsleNo) : Bool :=
  (allCtx.any fun c => (s.ctx k c).phase != .idle && (s.ctx k c).phase != .faulted)
    || (engineChans (.isle k)).any fun c => (s.chan (.isle k) c).phase == .running

/-- SP_ATTR_WRITE (R262): refused with 0x4006, or taken, the rows it changes waiting for the format pass. -/
def State.attrWrite (s : State) (k : IsleNo) (e : Fin 33) (v : BitVec 64) : State :=
  let old := s.isles[k].sp.attributes
  let new := old.write e v.toNat
  let a := attrOf v.toNat
  if (e.val < 32 && spRows < a.baseRow + a.rows) || attrReserved e v.toNat || attrsOverlap new.entries || s.isleBusy k then
    s.raise 0x4006 { isle := k }
  else
    let rows := (List.range spRows).filter fun r => old.at_ r != new.at_ r
    s.modSp k fun p =>
      { p with
        attrs := Vector.ofFn fun i => new.entries.getD i.val {}
        defaultHash := new.hash
        defaultStrong := new.strong
        formatBusy := p.formatBusy || rows != []
        toFormat := (p.toFormat ++ rows).dedup }

/-- SP_FORMAT_COMPLETE (R262): the pass has reached every row. -/
def State.formatDone (s : State) (k : IsleNo) : State :=
  s.modSp k fun p => { (p.toFormat.foldl Scratchpad.zeroRow p) with formatBusy := false, toFormat := [] }

/-- An access to a word that comes in through the straits: a row the format pass has not reached is formatted first, and the access takes
the fallback path, as a read-modify-write does (R262, R269, R286). -/
def State.comeIn (s : State) (k : IsleNo) (word : Nat) (whole : Bool) : State :=
  if s.isles[k].sp.toFormat.contains (rowOf word) then (s.modSp k (·.zeroRow (rowOf word))).outerAccess k word true
  else s.outerAccess k word (!whole)

/-! ### Scrubbing (R275) -/

/-- The next strong row from a row on, if any. -/
def Scratchpad.strongFrom (p : Scratchpad) (row : Nat) : Option Nat :=
  ((List.range spRows).drop row).find? fun r => (p.attr r).2

/-- One row scrubbed: its words checked, corrected and written back; an uncorrectable word is charged to no frame. -/
def State.scrub (s : State) (k : IsleNo) (us : Upsets) : State :=
  let s := s.applyUpsets us.sp
  let p := s.isles[k].sp
  match (p.strongFrom p.scrubRow).or (p.strongFrom 0) with
  | none => s
  | some r =>
    if s.isles[k].health.phase = .fenced then s
    else
      let s := s.each ((p.upsets.map (·.1)).filter fun w => rowOf w == r) fun s w =>
        match s.guardWord k w with
        | (some e, s) => if e = 0x4002 then s.noteUncorrectable k r else s
        | (none, s) => s
      let last := (p.strongFrom (r + 1)).isNone
      let s := s.modSp k fun p => { p with scrubRow := if last then 0 else r + 1, scrubbedAt := s.now }
      if last then s.modCnt k fun n => { n with scrubPasses := n.scrubPasses + 1 } else s

/-! ### Atoll registers (R280, R281, R285) -/

/-- The atoll that the two configuration words spell. -/
def atollOf (r0 r4 : Nat) : Atoll :=
  { base := bitsOf r0 0 20, slotWordsM1 := bitsOf r0 20 8, enable := true, slotCount := bitsOf r4 0 13
    readers := bitsOf r4 13 4, creditIsle := Fin.ofNat 16 (bitsOf r4 17 4), creditEnable := bitOf r4 21 }

/-- Whether an enable is refused (R281). -/
def State.atollBad (s : State) (k : IsleNo) (n : AtollNo) (a : Atoll) (thr : Nat) : Bool :=
  let others := ((List.finRange 64).filter (· != n)).map (fun m => s.isles[k].atolls[m]) |>.filter (·.enable)
  outside a.slotCount 1 4096 || 4096 < thr || spWords < a.stop
    || (others.any fun b => rangesMeet (a.base, a.stop) (b.base, b.stop))
    || 16384 < a.slotCount + (others.map (·.slotCount)).sum

/-- The atoll with the fields of its configuration words and its watermark written: the words' fields change only while it is disabled
(R280). -/
def Atoll.configured (a : Atoll) (b : Atoll) (thr : Nat) : Atoll :=
  let a := if a.enable then a
    else { a with
      base := b.base, slotWordsM1 := b.slotWordsM1, slotCount := b.slotCount, readers := b.readers, creditIsle := b.creditIsle
      creditEnable := b.creditEnable }
  if thr ≤ 4096 then { a with wmThreshold := thr } else a

/-- Whether a context waits on a slot of atoll `n` of its isle: the slot of the first operand that holds its op (R183, R281). -/
def State.waitsOn (s : State) (k : IsleNo) (c : CtxNo) (n : AtollNo) : Bool :=
  let x := s.ctx k c
  x.phase == .waiting &&
    match x.cause with
    | .tag => ((s.headAccesses k c).find? fun a => s.heldBy k (s.inRerun x.serves) a != .go).any fun a =>
        !a.far && s.isles[k].atollAt (extentOf a.words).1.toNat == some n
    | .wait =>
      let t := s.target k c ((x.head.map (·.bytes)).getD []) 8
      t.1 == k && s.isles[k].atollAt t.2 == some n
    | _ => false

/-- A write that sets enable to 0 (R281). -/
def State.atollDisable (s : State) (k : IsleNo) (n : AtollNo) : State :=
  if (allCtx.any fun c => s.waitsOn k c n) || (s.isles[k].atolls[n]).linkedBy.isSome then s.raise 0x4008 { isle := k }
  else (s.modAtoll k n fun a => { a with enable := false }).judgeChans k

/-- ATOLL_ENABLE (R280, R281): the words +0x00 and +0x04 and wm_threshold written. Setting enable is refused with 0x4008 or empties every
slot; without it the fields are written alone, and an enabled atoll is disabled. -/
def State.atollEnable (s : State) (k : IsleNo) (n : AtollNo) (r0 r4 : BitVec 32) (thr : Nat) : State :=
  let a := atollOf r0.toNat r4.toNat
  let on := bitOf r0.toNat 28
  let old := (s.isles[k].atolls[n]).enable
  if on && !old && !s.atollBad k n a thr then (s.modAtoll k n fun _ => { a with wmThreshold := thr }).judgeChans k
  else
    let t := s.modAtoll k n fun b => b.configured a thr
    if old && !on then t.atollDisable k n else if on && !old then t.raise 0x4008 { isle := k } else t

/-- ATOLL_NOTICE_CLEAR: a write to +0x10 (R16, R280): notice is cleared by a 1, unless a crossing falls in the same cycle; a zero clears
high_water to the level. -/
def State.noticeClear (s : State) (k : IsleNo) (n : AtollNo) (v : BitVec 32) : State :=
  s.modAtoll k n fun a =>
    { a with
      notice := a.notice && (!bitOf v.toNat 13 || a.noticeAt == some s.now)
      highWater := if bitsOf v.toNat 0 13 = 0 then a.full.length else a.highWater }

/-! ### Remote entries (R291) -/

/-- The state with a remote entry changed. -/
def State.modRemote (s : State) (k : IsleNo) (m : Fin 16) (f : RemoteEntry → RemoteEntry) : State :=
  s.modIsle k fun i => { i with remotes := i.remotes.set m (f i.remotes[m]) }

/-- REMOTE_LINK: enable is written 1 and a link request sent. A linked entry keeps its fields; one whose unlink waits for acknowledgements
asks for the new link once that is done (DEDUCED, log entry 137). -/
def State.linkRequest (s : State) (k : IsleNo) (m : Fin 16) (d : IsleNo) (n : AtollNo) : State :=
  s.modRemote k m fun r =>
    if r.linked then (if r.enable then r else { r with next := some (d, n) })
    else { isle := d, atoll := n, enable := true, requested := true }

/-- Consecutive empty slots of a ring from its tail. -/
def Atoll.emptyRun (a : Atoll) : Nat :=
  ((List.range a.slotCount).takeWhile fun i => !a.full.contains ((a.tail + i) % a.slotCount)).length

/-- LINK_ANSWER: the destination answers a request (R291). -/
def State.linkAnswer (s : State) (k : IsleNo) (m : Fin 16) : State :=
  let r := s.isles[k].remotes[m]
  if !r.requested then s
  else
    let a := s.isles[r.isle].atolls[r.atoll]
    if a.enable && a.creditEnable && a.creditIsle == k then
      (s.modAtoll r.isle r.atoll fun a => { a with linkedBy := some (k, m), owed := 0 }).modRemote k m fun r =>
        { r with
          linked := true
          requested := false
          credits := a.emptyRun
          base := a.base
          slotWordsM1 := a.slotWordsM1
          slotCount := a.slotCount
          nextSlot := a.tail }
    else s.modRemote k m fun r => { r with requested := false }

/-- Whether writes of isle `k` to a linked ring are still unacknowledged. -/
def State.writesDue (s : State) (k : IsleNo) (r : RemoteEntry) : Bool :=
  let hits (i : StraitItem) : Bool := i.src == k && i.dst == r.isle &&
    (match i.msg with | .word w => r.holds w.word | .slotFull n _ => n == r.atoll | .slotRead n _ => n == r.atoll)
  s.isles[r.isle].inbound.any hits || allCtx.any fun c => (s.ctx k c).unsent.any hits

/-- A disabled entry whose writes are acknowledged unlinks both ends. -/
def State.settleUnlink (s : State) (k : IsleNo) (m : Fin 16) : State :=
  let r := s.isles[k].remotes[m]
  if r.enable || s.writesDue k r then s
  else
    let s := if r.linked ∧ (s.isles[r.isle].atolls[r.atoll]).linkedBy = some (k, m.val) then
        s.modAtoll r.isle r.atoll fun a => { a with linkedBy := none, owed := 0 }
      else s
    s.modRemote k m fun r =>
      match r.next with
      | some (d, n) => { isle := d, atoll := n, enable := true, requested := true }
      | none => { isle := r.isle, atoll := r.atoll }

/-- REMOTE_UNLINK. -/
def State.unlink (s : State) (k : IsleNo) (m : Fin 16) : State :=
  (s.modRemote k m fun r => { r with enable := false, requested := false, next := none }).settleUnlink k m

/-! ### Traffic (R288 to R293) -/

/-- A list without its first item that satisfies `p`. -/
def dropFirst {α : Type} (p : α → Bool) : List α → List α
  | [] => []
  | x :: xs => if p x then xs else x :: dropFirst p xs

/-- The change a message makes at its destination: a word is written at its bank, a tag changes (R290, R293). -/
def State.deliver (s : State) (k : IsleNo) (i : StraitItem) : BankAnswer × State :=
  match i.msg with
  | .word w => ((s.comeIn k w.word w.whole).modCnt k fun n => { n with remoteIn := n.remoteIn + 1 }).writeWord w i.owner
  | .slotFull n x => (none, s.fillSlots k (Fin.ofNat 64 n) [x])
  | .slotRead n x => (none, s.readSlots k (Fin.ofNat 64 n) [x])

/-- STRAIT_WRITE_ARRIVAL: the oldest message of isle `src` reaches isle `k`; its transport credit returns, and the op
that sent it goes on or retires (R180, R289). -/
def State.arrive (s : State) (k src : IsleNo) (us : Upsets) : State :=
  let mine (i : StraitItem) : Bool := i.src == src
  match s.isles[k].inbound.find? mine with
  | none => s
  | some i =>
    let s := (s.applyUpsets us.sp).modIsle k fun d => { d with inbound := dropFirst mine d.inbound }
    let (e, s) := s.deliver k i
    let s := match i.ctx with
      | none => s
      | some c =>
        let s := match e, i.msg with
          | some code, .word w =>
            if code = 0x4003 then s.parityMet i.serves (s.ctx src c).stopping k else s.remoteFault i c code w.word
          | _, _ => s
        if (s.ctx src c).sending ∧ (s.ctx src c).phase ≠ CtxPhase.waiting then s.finishOp src c else s
    s.each (List.finRange 16) fun s m => if (s.isles[src].remotes[m]).linked then s.settleUnlink src m else s

/-- STRAIT_READ_REQUEST: the remote reads of a context's head op are served at their destinations and the replies
return; a tag that is empty there is answered as R293 says. -/
def State.remoteReads (s : State) (k : IsleNo) (c : CtxNo) : State :=
  let x := s.ctx k c
  let far := (s.headAccesses k c).filter fun a => a.far && a.rd
  if x.phase ≠ CtxPhase.running ∨ x.fetched = true ∨ far = [] then s
  else
    let hold := s.opHold k false far
    if hold ≠ .go then s.suspend k c hold
    else
      let s := s.each far fun s a =>
        let n := BitVec.ofNat 64 a.addrs.length
        let s := s.each a.addrs fun s w => s.comeIn a.isle w true
        ((s.modCnt a.isle fun m => { m with remoteOut := m.remoteOut + n }).modCnt k fun m =>
          { m with remoteIn := m.remoteIn + n }).charge x.owner 0 (32 * a.addrs.length)
      s.modCtx k c fun x => { x with fetched := true }

/-- SLOT_CREDIT_RETURN: one slot credit owed by an atoll reaches its linked writer (R292). -/
def State.creditReturn (s : State) (k : IsleNo) (n : AtollNo) : State :=
  let a := s.isles[k].atolls[n]
  match a.linkedBy with
  | some (j, m) =>
    if a.owed = 0 then s
    else (s.modAtoll k n fun a => { a with owed := a.owed - 1 }).modRemote j (Fin.ofNat 16 m) fun r =>
      { r with credits := r.credits + 1 }
  | none => s

/-- WAKE_NOTICE: the destination tells a source context that the slot it waits on has filled (R293). -/
def State.wakeNotice (s : State) (k src : IsleNo) (c : CtxNo) : State :=
  let mine (w : WakeNote) : Bool :=
    w.src == src && w.ctx == c && (s.isles[k].atolls[Fin.ofNat 64 w.atoll]).full.contains w.slot
  if s.isles[k].wakes.any mine then
    let s := s.modIsle k fun i => { i with wakes := dropFirst mine i.wakes }
    if (s.ctx src c).phase = .waiting then s.wake src c else s
  else s

/-- REMOTE_RETRY: 256 strait cycles after a "retry" the source asks again (R293). -/
def State.retry (s : State) (k : IsleNo) (c : CtxNo) : State :=
  match s.isles[k].retries.find? (·.ctx == c) with
  | none => s
  | some r =>
    let s := (s.at_ r.due).modIsle k fun i => { i with retries := i.retries.filter (·.ctx != c) }
    let x := s.ctx k c
    if x.phase ≠ .waiting then s
    else if s.causeCleared k c then s.wake k c
    else if x.cause = .wait then
      match s.slotAt (s.target k c ((x.head.map (·.bytes)).getD []) 8) with
      | some (n, i) =>
        s.askWait k c (s.target k c ((x.head.map (·.bytes)).getD []) 8).1 n i
      | none => s
    else s.suspend k c (s.opHold k (s.inRerun x.serves) (s.headAccesses k c))

/-! ### The rows -/

/-- SP_ATTR_WRITE. -/
def execSpAttrWrite (k : IsleNo) (e : Fin 33) (v : BitVec 64) (s : State) : Answer := live s (s.attrWrite k e v)
/-- SP_FORMAT_COMPLETE. -/
def execSpFormatComplete (k : IsleNo) (s : State) : Answer := live s (s.formatDone k)
/-- SCRUB_ROW. -/
def execScrubRow (k : IsleNo) (us : Upsets) (s : State) : Answer := live s (s.scrub k us)
/-- SCRUB_DEADLINE: 8,192 reference cycles after the last row. -/
def execScrubDeadline (k : IsleNo) (us : Upsets) (s : State) : Answer :=
  live s ((s.at_ (s.isles[k].sp.scrubbedAt + 8192)).scrub k us)
/-- ATOLL_ENABLE. -/
def execAtollEnable (k : IsleNo) (n : AtollNo) (r0 r4 : BitVec 32) (thr : Nat) (s : State) : Answer :=
  live s (s.atollEnable k n r0 r4 thr)
/-- ATOLL_DISABLE. -/
def execAtollDisable (k : IsleNo) (n : AtollNo) (s : State) : Answer := live s (s.atollDisable k n)
/-- ATOLL_NOTICE_CLEAR. -/
def execAtollNoticeClear (k : IsleNo) (n : AtollNo) (v : BitVec 32) (s : State) : Answer := live s (s.noticeClear k n v)
/-- REMOTE_LINK. -/
def execRemoteLink (k : IsleNo) (m : Fin 16) (d : IsleNo) (n : AtollNo) (s : State) : Answer :=
  live s (s.linkRequest k m d n)
/-- LINK_ANSWER. -/
def execLinkAnswer (k : IsleNo) (m : Fin 16) (s : State) : Answer := live s (s.linkAnswer k m)
/-- REMOTE_UNLINK. -/
def execRemoteUnlink (k : IsleNo) (m : Fin 16) (s : State) : Answer := live s (s.unlink k m)
/-- STRAIT_WRITE_ARRIVAL. -/
def execStraitWriteArrival (k src : IsleNo) (us : Upsets) (s : State) : Answer := live s (s.arrive k src us)
/-- STRAIT_READ_REQUEST. -/
def execStraitReadRequest (k : IsleNo) (c : CtxNo) (s : State) : Answer := live s (s.remoteReads k c)
/-- SLOT_CREDIT_RETURN. -/
def execSlotCreditReturn (k : IsleNo) (n : AtollNo) (s : State) : Answer := live s (s.creditReturn k n)
/-- WAKE_NOTICE. -/
def execWakeNotice (k src : IsleNo) (c : CtxNo) (s : State) : Answer := live s (s.wakeNotice k src c)
/-- REMOTE_RETRY. -/
def execRemoteRetry (k : IsleNo) (c : CtxNo) (s : State) : Answer := live s (s.retry k c)

end Sys2Proof.Machine
end

