-- ==== Sys2Proof/Machine/MemoryCore.lean ====
section
/-! DEFINITION. Reads of external memory: check bits, patrol scrubbing and the harbour cache
(spec/14_memory_codec_encryption.md R370, R371, R376 to R379), and the codec windows (R386). -/

namespace Sys2Proof.Machine

/-! ### Check bits (R370) -/

/-- The storage upsets of external memory a step meets: a second flip of an atom makes it uncorrectable (R368). -/
def State.applyMemUpsets (s : State) (us : List MemUpset) : State :=
  s.modMem fun m => { m with
    upsets := us.foldl (fun l u => kvPut u.atom (u.hard || l.any (·.1 == u.atom)) l) m.upsets }

/-- Whether an atom is flipped, and how. -/
def MemState.upsetOf (m : MemState) (atom : Nat) : Option Bool := (m.upsets.find? (·.1 == atom)).map (·.2)

/-- One atom read at the controller: whether it is uncorrectable (R370). -/
def State.touchAtom (s : State) (atom : Nat) : Bool × State :=
  match s.mem.upsetOf atom with
  | none => (false, s)
  | some false =>
    (false, (s.modMem fun m => { m with upsets := kvDel atom m.upsets, corrected := m.corrected + 1 }).raiseOnce 0x6001 0)
  | some true => (true, (s.modMem fun m => { m with uncorrectable := m.uncorrectable + 1 }).raise 0x6002)

/-- Atoms read in order; the first uncorrectable one, if any. -/
def State.touchAtoms (s : State) : List Nat → Option Nat × State
  | [] => (none, s)
  | a :: rest =>
    let (bad, s) := s.touchAtom a
    let (e, s) := State.touchAtoms s rest
    ((if bad then some a else none).or e, s)

/-- The atoms of `n` bytes from address `a`. -/
def atomsOf (a n : Nat) : List Nat := if n = 0 then [] else (List.range ((a + n - 1) / 32 - a / 32 + 1)).map (a / 32 + ·)

/-! ### The harbour cache (R376 to R379) -/

/-- The set of a line; a line is its address divided by 128. -/
def cacheSetOf (line : Nat) : Nat := (line ^^^ (line / 2 ^ 13)) % 8192

/-- The lines of a set, most recently used first. -/
def MemState.setLines (m : MemState) (i : Nat) : List Nat := ((m.cache.find? (·.index == i)).map (·.lines)).getD []

/-- The cache with a set's lines replaced, sets ascending. -/
def putSet (i : Nat) (ls : List Nat) : List CacheSet → List CacheSet
  | [] => [⟨i, ls⟩]
  | c :: cs => if c.index < i then c :: putSet i ls cs else if c.index = i then ⟨i, ls⟩ :: cs else ⟨i, ls⟩ :: c :: cs

/-- A line made its set's most recently used; the least recently used of 17 goes (R376). -/
def MemState.useLine (m : MemState) (line : Nat) : MemState :=
  let i := cacheSetOf line
  { m with cache := putSet i ((line :: (m.setLines i).filter (· != line)).take 16) m.cache }

/-- Fills that complete: lines still in flight are installed (R378, R379). -/
def MemState.install (m : MemState) (lines : List Nat) : MemState :=
  let mine := m.fills.filter lines.contains
  { mine.foldl MemState.useLine m with fills := m.fills.filter fun l => !mine.contains l }

/-- A shared read of a line: hit, joined fill, or a fill started; with 128 in flight the oldest completes first (R377,
R379). The answer is the first uncorrectable atom the memory read met. -/
def State.readLine (s : State) (line : Nat) : Option Nat × State :=
  if (s.mem.setLines (cacheSetOf line)).contains line then
    (none, s.modMem fun m => { m.useLine line with hbHits := m.hbHits + 1 })
  else if s.mem.fills.contains line then (none, s.modMem fun m => { m with hbMerged := m.hbMerged + 1 })
  else
    let s := if 128 ≤ s.mem.fills.length then s.modMem fun m => m.install (m.fills.take 1) else s
    let (e, s) := s.touchAtoms (atomsOf (128 * line) 128)
    let s := s.modMem fun m => { m with hbMisses := m.hbMisses + 1 }
    (e, if e.isSome then s else s.modMem fun m => { m with fills := m.fills ++ [line] })

/-- Lines read in order; the first uncorrectable atom met. -/
def State.readLines (s : State) : List Nat → Option Nat × State
  | [] => (none, s)
  | l :: rest =>
    let (e, s) := s.readLine l
    let (f, s) := State.readLines s rest
    (e.or f, s)

/-- The lines of `n` bytes from address `a`. -/
def linesOf (a n : Nat) : List Nat := if n = 0 then [] else (List.range ((a + n - 1) / 128 - a / 128 + 1)).map (a / 128 + ·)

/-- A read of external memory for an owner, through the harbour cache when `shared`: the address of an uncorrectable
atom, or the bytes. -/
def State.readExt (s : State) (o : OwnerNo) (shared : Bool) (a n : Nat) : Option Nat × Bytes × State :=
  let (e, s) := if shared then s.readLines (linesOf a n) else s.touchAtoms (atomsOf a n)
  (e.map (32 * ·), s.extRead o a n, s)

/-! ### Patrol (R371) -/

/-- Physical atoms of the fitted memory (R366). -/
def State.physicalAtoms (s : State) : Nat := s.memTop / 32 / 15 * 16

/-- MEM_PATROL: 40 µs after the last one, the next physical atom is read; the check atom of a group is taken as its last (DEDUCED, log entry
16). -/
def State.patrol (s : State) (us : Upsets) : State :=
  let s := (s.at_ (s.mem.patrolAt + 4000)).applyMemUpsets us.mem
  let p := s.mem.patrolAtom
  let s :=
    if p % 16 = 15 then s
    else
      let a := p / 16 * 15 + p % 16
      match s.mem.upsetOf a with
      | some true => s.raise 0x6003
      | _ => (s.touchAtom a).2
  let last := s.physicalAtoms ≤ p + 1
  s.modMem fun m => { m with
    patrolAtom := if last then 0 else p + 1
    patrolAt := s.now
    scrubPasses := if last then m.scrubPasses + 1 else m.scrubPasses }

/-! ### Codec windows (R386) -/

/-- The codec window a 32-byte write spells. -/
def codecWindowOf (b : Bytes) : CodecWindow :=
  { enable := bitOf (byteAt b 0) 0, type := fieldAt b 0 1 2, maxCodec := fieldAt b 0 3 3
    base := leAt b 8 5, limit := leAt b 16 5 }

/-- Whether a codec-window write is refused (R386). -/
def State.codecWindowBad (s : State) (n : Fin 16) (b : Bytes) : Bool :=
  let w := codecWindowOf b
  b.length != 32 || fieldAt b 0 6 2 != 0 || !allZero (slice b 1 7) || !allZero (slice b 13 3) || !allZero (slice b 21 11)
    || outside w.maxCodec 1 6 || w.limit < w.base || w.base % 4096 != 0 || (w.limit + 1) % 4096 != 0 || s.memTop ≤ w.limit
    || (w.enable && (List.finRange 16).any fun m =>
        m != n && (s.mem.codec[m]).enable
          && rangesMeet (w.base, w.limit + 1) ((s.mem.codec[m]).base, (s.mem.codec[m]).limit + 1))

/-- CODEC_WINDOW_WRITE. -/
def State.codecWindowWrite (s : State) (n : Fin 16) (b : Bytes) : State :=
  if s.codecWindowBad n b then s.raise 0x6005
  else s.modMem fun m => { m with codec := m.codec.set n (codecWindowOf b) }

/-- CODEC_WINDOW_WRITE. -/
def execCodecWindowWrite (n : Fin 16) (b : Bytes) (s : State) : Answer := live s (s.codecWindowWrite n b)
/-- MEM_PATROL. -/
def execMemPatrol (us : Upsets) (s : State) : Answer := live s (s.patrol us)

end Sys2Proof.Machine
end

