-- ==== Sys2Proof/Machine/Transfers.lean ====
section
/-! DEFINITION. The transfer descriptor, its checks and what a transfer moves (spec/12_movers_and_regions.md R321 to
R325, spec/14_memory_codec_encryption.md R385, R387). -/

namespace Sys2Proof.Machine

/-- Reserved address bits of an end of a kind; bit 24 aside for a local scratchpad destination (R321). -/
def addrReserved (kind a : Nat) (mayPush : Bool) : Bool :=
  match kind with
  | 0 => a / 2 ^ 40 != 0
  | 3 => a / 2 ^ 22 != 0
  | _ => (if mayPush then bitsOf a 25 39 else bitsOf a 24 40) != 0

/-- Reserved fields of a descriptor (order 2). -/
def dmaReserved (d : Bytes) : Bool :=
  let t := transferOf d
  fieldAt d 0 0 4 != 0 || fieldAt d 1 4 4 != 0 || fieldAt d 2 3 5 != 0 || fieldAt d 3 3 5 != 0 || fieldAt d 4 6 2 != 0
    || fieldAt d 5 6 2 != 0 || !allZero (slice d 6 2) || addrReserved t.srcKind t.src false
    || addrReserved t.dstKind t.dst (t.dstKind == 1) || byteAt d 27 != 0 || !allZero (slice d 48 16)

/-- Reserved encodings and ranges (order 3; DEDUCED, log entry 17 for the address rules counted here). -/
def dmaEncoding (d : Bytes) : Bool :=
  let t := transferOf d
  t.codec == 7 || (!t.tagSrc && byteAt d 4 != 0) || (!t.tagDst && byteAt d 5 != 0)
    || (t.srcKind == 1 && bitsOf t.src 20 4 != 0)
    || (if t.push then bitsOf t.dst 2 22 != 0 else t.dstKind == 1 && bitsOf t.dst 20 4 != 0)
    || 4096 < t.planes

/-- The source is coded, or the destination. -/
def Transfer.codedSrc (t : Transfer) : Bool := t.codec != 0 && t.srcKind == 0
def Transfer.codedDst (t : Transfer) : Bool := t.codec != 0 && t.dstKind == 0

/-- The sample type of a codec window (R386). -/
def CodecWindow.bec (w : CodecWindow) : BecType := becType (match w.type with | 0 => 0 | 1 => 1 | 2 => 5 | _ => 6)

/-- The external extent of a coded transfer under a sample type (R387). -/
def Transfer.codedSpan (t : Transfer) (b : BecType) : Nat × Nat :=
  let n := t.len / b.raw * b.slot
  if t.codedSrc then endSpan t t.src t.srcLine t.srcPlane n else endSpan t t.dst t.dstLine t.dstPlane n

/-- The enabled codec window that holds a coded transfer's external extent. -/
def State.codecWindow (s : State) (t : Transfer) : Option CodecWindow :=
  s.mem.codec.toList.find? fun w =>
    w.enable && w.base ≤ (t.codedSpan w.bec).1 && (t.codedSpan w.bec).2 ≤ w.limit

/-- The sample type of a transfer. -/
def State.transferType (s : State) (t : Transfer) : BecType := ((s.codecWindow t).map CodecWindow.bec).getD (becType 0)

/-- The extents of a transfer's ends, coded ends at their worst case (R324). -/
def State.srcSpan (s : State) (t : Transfer) : Nat × Nat :=
  if t.codedSrc then t.codedSpan (s.transferType t)
  else endSpan t (endAddr t.srcKind t.src) t.srcLine t.srcPlane (t.units t.srcKind)
def State.dstSpan (s : State) (t : Transfer) : Nat × Nat :=
  if t.codedDst then t.codedSpan (s.transferType t)
  else endSpan t (endAddr t.dstKind t.dst) t.dstLine t.dstPlane (t.units t.dstKind)

/-- Whether a shared-read window is among those that pass an external extent (R377). -/
def State.sharedPass (s : State) (o : OwnerNo) (lo hi : Nat) : Bool :=
  s.windows[o].toList.any fun w => w.space == 1 && w.read && w.sharedRead && w.base ≤ lo && hi ≤ w.limit

/-- The areas of external memory that are never coded: the state of stages, the state of adaptation, the output rings (R138, R385). -/
def State.neverCoded (s : State) : List (Nat × Nat) :=
  allSlots.flatMap fun k =>
    let img := s.slotPlan k
    (((stageDescs ((img.map (·.body)).getD [])).filter stRecurrent).map stateArea) ++ (((img.map (·.adapt)).getD []).map adState)
      ++ [(s.slotNat k 0x50, s.slotNat k 0x50 + s.slots[k].outRing.length * s.outEntrySize k)]

/-- Breaches of the codec's rules by a coded transfer (R322, R385, R387). -/
def State.codecBreaks (s : State) (e : Engine) (o : OwnerNo) (t : Transfer) : Bool :=
  t.codec != 0 &&
    (!((t.srcKind == 0 && t.dstKind == 1) || (t.srcKind == 1 && t.dstKind == 0)) ||
      match s.codecWindow t with
      | none => true
      | some w =>
        let b := w.bec
        let line := if t.codedSrc then t.srcLine else t.dstLine
        let ext := t.codedSpan b
        let sp := if t.codedSrc then s.dstSpan t else s.srcSpan t
        let k := endIsle e 1 0
        let strong := (List.range (rowOf sp.2 + 1 - rowOf sp.1)).any fun r => (s.isles[k].sp.attr (rowOf sp.1 + r)).2
        (s.neverCoded.any fun a => rangesMeet a (ext.1, ext.2 + 1)) || w.maxCodec < t.codec || t.len % b.raw != 0 || line < t.len / b.raw * b.slot
          || (1 < t.codec && (strong || s.sharedPass o ext.1 ext.2)))

/-- The combination rules of R322 (order 4). With one row to a plane the planes alone keep the destination's bytes apart. -/
def State.combinationBad (s : State) (e : Engine) (o : OwnerNo) (t : Transfer) : Bool :=
  let sp := isSp t.srcKind || isSp t.dstKind
  let un (kind : Nat) : Nat := if isSp kind then 32 else 1
  let loose (kind a line plane : Nat) : Bool := sp && !isSp kind && (a % 32 != 0 || line % 32 != 0 || plane % 32 != 0)
  (e == .device && sp)
    || (sp && t.len % 32 != 0)
    || loose t.srcKind t.src t.srcLine t.srcPlane || loose t.dstKind t.dst t.dstLine t.dstPlane
    || (t.tagSrc && t.srcKind != 1) || (t.tagDst && t.dstKind != 1)
    || s.codecBreaks e o t
    || (if t.push then
          (t.srcKind != 0 && t.srcKind != 1) || t.tagDst || t.codec != 0 || t.len % 64 != 0 || t.dstLine != 0 || t.dstPlane != 0
        else
          (1 < t.rows && t.dstLine * un t.dstKind < t.len)
            || (1 < t.planes && (t.dstPlane < t.rows * t.dstLine || (t.rows = 1 && t.dstPlane * un t.dstKind < t.len))))

/-- Whether an extent leaves its space (order 5; writes of Ethernet buffers only into transmit areas, R442). -/
def State.spaceBad (s : State) (kind : Nat) (span : Nat × Nat) (write : Bool) : Bool :=
  match kind with
  | 0 => s.memTop ≤ span.2
  | 3 => 0x400000 ≤ span.2 || (write && (span.1 / 2 ^ 20 != span.2 / 2 ^ 20 || span.1 % 2 ^ 20 < 0xD0000))
  | _ => spWords ≤ span.2

/-- The atoll rules of R325 on a scratchpad end (order 6). -/
def State.atollRule (s : State) (k : IsleNo) (tag : Option AtollNo) (span : Nat × Nat) : Bool :=
  (match tag with
    | some n => !((s.isles[k].atolls[n]).holds span.1 && (s.isles[k].atolls[n]).holds span.2)
    | none => false)
    || (match s.isles[k].atollAt span.1 with
        | some n => !(s.isles[k].atolls[n]).holds span.2
        | none => false)

/-- The window space of a kind (R335). -/
def kindSpace (kind : Nat) : Nat := if kind = 0 then 1 else if kind = 3 then 3 else 2

/-- The window check of an end (order 7). -/
def State.endWindow (s : State) (e : Engine) (o : OwnerNo) (kind a : Nat) (span : Nat × Nat) (write : Bool) : Option Nat :=
  s.windowCheck o (kindSpace kind) (if isSp kind then some (endIsle e kind a) else none) span.1 span.2 (!write) write

/-- Order 7 of R324; for a push the owners must be equal (R322). -/
def State.windowOrder (s : State) (e : Engine) (o : OwnerNo) (t : Transfer) (src dst : Nat × Nat) : Option Nat :=
  (s.endWindow e o t.srcKind t.src src false).or
    (if t.push then
      (match e with
        | .isle k => if (s.ctx k (Fin.ofNat 4 t.dst)).owner = o then none else some 0x5012
        | .device => none)
     else s.endWindow e o t.dstKind t.dst dst true)

/-- The checks of R324 on a transfer that starts: the first failing code. -/
def State.transferCheck (s : State) (e : Engine) (o : OwnerNo) (d : Bytes) : Option Nat :=
  let t := transferOf d
  let src := s.srcSpan t
  let dst := s.dstSpan t
  (firstFailure
    [(fieldAt d 0 4 4 != 1, 0x5001), (dmaReserved d, 0x5002), (dmaEncoding d, 0x5003), (s.combinationBad e o t, 0x5004)]).or
    (if t.zeroSize then none
     else (firstFailure
        [(s.spaceBad t.srcKind src false || (!t.push && s.spaceBad t.dstKind dst true), 0x5005),
         ((isSp t.srcKind && s.atollRule (endIsle e t.srcKind t.src) (if t.tagSrc then some t.srcAtoll else none) src)
            || (isSp t.dstKind && !t.push
                && s.atollRule (endIsle e t.dstKind t.dst) (if t.tagDst then some t.dstAtoll else none) dst), 0x4007)]).or
        (s.windowOrder e o t src dst))

/-- The unit a transfer's progress counts in: whole words with a scratchpad end, whole ops with a push, whole blocks when
coded. -/
def State.progressUnit (s : State) (t : Transfer) : Nat :=
  if t.codec ≠ 0 then (s.transferType t).raw else if t.push then 64 else if isSp t.srcKind || isSp t.dstKind then 32 else 1

end Sys2Proof.Machine
end

