-- ==== Sys2Proof/Machine/Movers.lean ====
section
/-! DEFINITION. The DMA engines' commands and the region windows (spec/12_movers_and_regions.md R318 to R336). -/

namespace Sys2Proof.Machine

/-! ### Waiting, choosing, promoting -/

/-- Whether a channel's transfer may start or resume as far as tags go; those of the device engine have none (R325, R326, R329). -/
def State.mayStart (s : State) (e : Engine) (x : Channel) : Bool :=
  x.begun || match e with
    | .isle k => s.isles[k].tagsReady x
    | .device => true

/-- The phase of a channel whose active set is loaded: waiting on its slots, or queued. -/
def State.queueChan (s : State) (e : Engine) (c : ChanNo) : State :=
  let ready := s.mayStart e (s.chan e c)
  s.modChan e c fun x => { x with phase := if ready then .queued else .waiting, waitSince := s.now }

/-- A valid shadow moves to the active set of an idle, enabled channel that is not paused (R319). -/
def State.promote (s : State) (e : Engine) (c : ChanNo) : State :=
  let x := s.chan e c
  if x.phase = .idle ∧ x.enable ∧ x.shadowValid ∧ ¬ x.pauseBit then
    (s.modChan e c fun x =>
      { x with
        active := x.shadow, shadowValid := false, row := 0, plane := 0, byteIn := 0, begun := false
        serial := x.serial + 1 }).queueChan e c
  else s

/-- Whether the engine may grant a channel (R320, R325). -/
def State.grantable (s : State) (e : Engine) (c : ChanNo) : Bool :=
  let x := s.chan e c
  x.enable && !x.pauseBit && x.phase == .queued && s.mayStart e x

/-- The channel an engine serves next: none while a transfer runs, its isle is out of service, or nothing is queued
(R318, R320). -/
def State.nextChan (s : State) (e : Engine) : Option ChanNo :=
  let busy := (engineChans e).any fun c => (s.chan e c).phase == .running || (s.chan e c).phase == .pausing
  let out := match e with | .isle k => s.isles[k].health.phase == .fenced | .device => false
  let n := (engineChans e).length
  if busy || out then none
  else ((List.range n).map fun i => Fin.ofNat 16 (((s.engine e).lastServed % n + 1 + i) % n)).find? (s.grantable e)

/-! ### Faults of a channel (R332) -/

/-- What a record about a channel's work names. -/
def chanConcern (e : Engine) (v : Serves) : Concern :=
  match v with
  | .frame n f _ => { slot := n, isle := engineIsle e, detail := f }
  | .adapt n _ => { slot := n, isle := engineIsle e }
  | .nothing => { isle := engineIsle e }

/-- The line fills of a channel's reads complete once its reads have returned (R378, R379). -/
def State.endFills (s : State) (e : Engine) (c : ChanNo) : State :=
  let t := transferOf (s.chan e c).active
  if t.srcKind = 0 ∧ ¬ t.zeroSize then
    s.modMem fun m => m.install (linesOf (s.srcSpan t).1 ((s.srcSpan t).2 + 1 - (s.srcSpan t).1))
  else s

/-- A channel becomes faulted with `code`; its core is told; the work it serves fails with `served`. -/
def State.haltChan (s : State) (e : Engine) (c : ChanNo) (code served : Nat) : State :=
  let v := (s.chan e c).serves
  let s := (s.endFills e c).modChan e c fun x =>
    { x with
      phase := .faulted
      aborting := false
      reading := []
      faultCode := if x.faultCode = 0 then code else x.faultCode }
  (s.emit (.notice (engineIsle e) c)).failServed v served

/-- A code raised that faults a channel (R316, R332). -/
def State.faultChan (s : State) (e : Engine) (c : ChanNo) (code : Nat) : State :=
  let v := (s.chan e c).serves
  ((s.raise code (chanConcern e v)).noteOverrun v none code).haltChan e c code code

/-- An uncorrectable external read at an address: the stage state's rule (R145), the adaptation state's (R346), or 0x5023
(R332). -/
def State.memoryFault (s : State) (e : Engine) (c : ChanNo) (addr : Nat) : State :=
  let v := (s.chan e c).serves
  let hits (a : Nat × Nat) : Bool := a.1 ≤ addr && addr < a.2
  match v with
  | .frame k _ _ =>
    let areas := ((stageDescs (((s.slotPlan k).map (·.body)).getD [])).filter stRecurrent).map stateArea
    if areas.any hits then
      ((s.raise 0x3E07 (chanConcern e v)).addReason k 7).haltChan e c 0x5023 0x3E07
    else s.faultChan e c 0x5023
  | .adapt k d =>
    let desc := (((s.slotPlan k).map (·.adapt)).getD []).getD d []
    if hits (adState desc) then
      let s := (s.raise 0x3A04 (chanConcern e v)).modSlot k (·.modAdapt d fun a => { a with resetPending := true })
      s.haltChan e c 0x5023 0x3A04
    else s.faultChan e c 0x5023
  | .nothing => s.faultChan e c 0x5023

/-- A scratchpad read of a channel ended with a code at a word (R272, R274, R278). -/
def State.spFault (s : State) (e : Engine) (c : ChanNo) (code : Nat) (at_ : IsleNo × Nat) : State :=
  let v := (s.chan e c).serves
  let w := { chanConcern e v with isle := at_.1 }
  if code = 0x4002 then (s.noteUncorrectable at_.1 (rowOf at_.2) w).haltChan e c code code
  else if code = 0x4003 then ((s.raise 0x4004 w).noteParity at_.1 true).haltChan e c 0x4004 0x4004
  else s.faultChan e c code

/-! ### Reading (R321, R332) -/

/-- Why a read failed: at an external address, or with a code at a scratchpad word. -/
inductive ReadError where
  | memory (addr : Nat)
  | pad (code : Nat) (at_ : IsleNo × Nat)
  deriving DecidableEq, Repr

/-- A block of a coded source read: its first atom, then the rest (R383, R384). -/
def State.readBlock (s : State) (o : OwnerNo) (t : Transfer) (b : BecType) (shared : Bool) (a : Nat) :
    Option ReadError × Bytes × Nat × State :=
  let (e, head, s) := s.readExt o shared a 32
  match e with
  | some x => (some (.memory x), [], 0, s)
  | none =>
    if becMalformed b t.codec 64 head then (some (.memory a), [], 0, s.raise 0x6004)
    else
      let n := b.atoms 64 (fieldAt head 1 0 5)
      let (e, more, s) := s.readExt o shared (a + 32) (32 * (n - 1))
      let xs := becDecode b 64 (head ++ more)
      let saved := b.saved 64 (32 * n)
      let s := s.modMem fun m => { m with becSaved := m.becSaved + BitVec.ofNat 64 saved }
      (e.map ReadError.memory, xs.flatMap fun x => toLe (b.raw / 64) (unsigned (8 * (b.raw / 64)) x), 32 * n, s)

/-- One row's bytes from offset `b` on: the first error, the bytes and the bytes counted. -/
def State.readRow (s : State) (e : Engine) (o : OwnerNo) (t : Transfer) (shared : Bool) (p r b : Nat) :
    Option ReadError × Bytes × Nat × State :=
  let n := t.len - b
  if t.codedSrc then
    let ty := s.transferType t
    let line := t.src + p * t.srcPlane + r * t.srcLine
    (List.range (n / ty.raw)).foldl
      (fun (acc : Option ReadError × Bytes × Nat × State) j =>
        match acc with
        | (some e, bs, k, s) => (some e, bs, k, s)
        | (none, bs, k, s) =>
          let (e, more, cost, s) := s.readBlock o t ty shared (line + (b / ty.raw + j) * ty.slot)
          (e, bs ++ more, k + cost, s))
      (none, [], 0, s)
  else
    let a := rowAddr t.srcKind t.src t.srcLine t.srcPlane p r b
    match t.srcKind with
    | 0 =>
      let (x, bs, s) := s.readExt o shared a n
      (x.map ReadError.memory, bs, n, s)
    | 3 => (none, cellsRead s.mem.eth a n, n, s)
    | _ =>
      let k := endIsle e t.srcKind t.src
      let ws := (List.range (n / 32)).map fun i => (k, a + i)
      let before := s
      let s := s.each ws fun s w => if t.srcKind = 2 then s.comeIn w.1 w.2 true else s.outerAccess w.1 w.2 false
      let (x, s) := s.readWords o ws
      let bs := ws.flatMap fun w => s.isles[w.1].sp.peek w.2
      let s := if t.srcKind = 2 then
          (s.modCnt k fun m => { m with remoteOut := m.remoteOut + BitVec.ofNat 64 ws.length }).modCnt (endIsle e 1 0) fun m =>
            { m with remoteIn := m.remoteIn + BitVec.ofNat 64 ws.length }
        else s
      (x.map fun code => ReadError.pad code (before.badWord o ws code), bs, n, s)

/-- Where a row's bytes go, in chunks: one per block when coded or pushed, else one (R321, R383). -/
def State.chunksOf (s : State) (e : Engine) (t : Transfer) (order p r b : Nat) (bs : Bytes) (cost : Nat) : List Chunk :=
  if t.push then
    (chunks 64 bs).mapIdx fun i x => ⟨order + 64 * i, .push (Fin.ofNat 4 t.dst), x, 64⟩
  else if t.codedDst then
    let ty := s.transferType t
    let line := t.dst + p * t.dstPlane + r * t.dstLine
    let w := ty.raw / 64
    (chunks ty.raw bs).mapIdx fun i x =>
      let xs := (chunks w x).map fun v => if ty.isSigned then signed (8 * w) (leNat v) else (leNat v : Int)
      let coded := becEncode ty t.codec xs
      ⟨order + ty.raw * i, .ext (line + (b / ty.raw + i) * ty.slot), coded, coded.length⟩
  else
    let a := rowAddr t.dstKind t.dst t.dstLine t.dstPlane p r b
    match t.dstKind with
    | 0 => [⟨order, .ext a, bs, cost⟩]
    | 3 => [⟨order, .eth a, bs, cost⟩]
    | _ => (chunks 32 bs).mapIdx fun i x => ⟨order + 32 * i, .sp (endIsle e t.dstKind t.dst) (a + i), x, cost / (bs.length / 32)⟩

/-- Every row from an offset read in transfer order, up to the first error. -/
def State.readAll (s : State) (e : Engine) (o : OwnerNo) (t : Transfer) (start : Nat) :
    Option ReadError × List Chunk × State :=
  let shared := t.srcKind == 0 && s.sharedPass o (s.srcSpan t).1 (s.srcSpan t).2
  (t.rowsFrom start).foldl
    (fun (acc : Option ReadError × List Chunk × State) row =>
      match acc with
      | (some x, cs, s) => (some x, cs, s)
      | (none, cs, s) =>
        let (x, bs, cost, s) := s.readRow e o t shared row.2.1 row.2.2.1 row.2.2.2
        (x, cs ++ s.chunksOf e t row.1 row.2.1 row.2.2.1 row.2.2.2 bs cost, s))
    (none, [], s)

/-! ### Writing (R327) -/

/-- A chunk written at its destination; the words of another isle come to it through the straits (R334). -/
def State.writeChunk (s : State) (e : Engine) (o : OwnerNo) (x : Chunk) : State :=
  match x.dst with
  | .ext a => s.extWrite o a x.bytes
  | .eth a => s.modMem fun m => { m with eth := cellsWrite m.eth a x.bytes }
  | .push c => match e with
    | .isle k => s.pushOp k c x.bytes
    | .device => s
  | .sp k w =>
    ((s.outerAccess k w false).writeWord
      { isle := k, word := w, op := .plain, bytes := (List.range 32).map fun i => (i, x.bytes.getD i 0) } o).2

/-- The codec's counters after blocks of 64 samples of a type were coded (R390). -/
def MemState.codedBlocks (m : MemState) (b : BecType) (cs : List Chunk) : MemState :=
  { m with
    becBlocks := m.becBlocks + BitVec.ofNat 64 cs.length
    becSaved := m.becSaved + BitVec.ofNat 64 ((cs.map fun x => b.saved 64 x.bytes.length).sum) }

/-- Slots of the destination atoll whose last byte lies before a transfer-order offset and at or after another. -/
def Transfer.slotsDone (t : Transfer) (a : Atoll) (start stop : Nat) : List Nat :=
  let later := t.slotsFrom a true stop
  (t.slotsFrom a true start).filter fun i => !later.contains i

/-- Data receive buffers that a completed transfer has emptied are freed, and their credits returned (R417). -/
def State.freeBuffers (s : State) (lo hi : Nat) : State :=
  let mine (b : DataBuffer) : Bool := lo ≤ b.addr && b.addr + b.len ≤ hi + 1
  let gone := s.sys.buffers.filter mine
  (s.releaseBuffers mine).each (gone.map fun b => (b.src, b.chan)).dedup fun s c => s.sendAck c.1 c.2

/-! ### The rows -/

/-- Place of a transfer-order offset in the progress registers (R328). -/
def Channel.at_ (x : Channel) (n : Nat) : Channel :=
  let t := transferOf x.active
  let per := t.rows * t.len
  { x with plane := n / per, row := n % per / t.len, byteIn := n % t.len }

/-- The transfer-order offset the progress registers name. -/
def Channel.offset (x : Channel) : Nat :=
  let t := transferOf x.active
  (x.plane * t.rows + x.row) * t.len + x.byteIn

/-- A place in a destination, some bytes on. -/
def MovedTo.plus (d : MovedTo) (n : Nat) : MovedTo :=
  match d with
  | .ext a => .ext (a + n)
  | .eth a => .eth (a + n)
  | d => d

/-- What of some chunks lies before a transfer-order offset; a row that is not coded is cut there. -/
def chunksBefore (coded : Bool) (n : Nat) (cs : List Chunk) : List Chunk :=
  (cs.filter fun x => x.order < n).map fun x =>
    if coded || x.order + x.bytes.length ≤ n then x
    else { x with bytes := x.bytes.take (n - x.order), cost := n - x.order }

/-- What of some chunks lies at or after a transfer-order offset. -/
def chunksAfter (coded : Bool) (n : Nat) (cs : List Chunk) : List Chunk :=
  cs.filterMap fun x =>
    if n ≤ x.order then some x
    else if coded || x.order + x.bytes.length ≤ n then none
    else some ⟨n, x.dst.plus (n - x.order), x.bytes.drop (n - x.order), x.order + x.bytes.length - n⟩

/-- Chunks between two transfer-order offsets arrive: they are written, and a destination slot whose last byte is among them becomes full
(R311, R325). -/
def State.land (s : State) (e : Engine) (o : OwnerNo) (t : Transfer) (start stop : Nat) (cs : List Chunk) : State :=
  let k := endIsle e 1 0
  let full := if t.tagDst then t.slotsDone (s.isles[k].atolls[t.dstAtoll]) start stop else []
  let s := s.each cs fun s x => s.writeChunk e o x
  if full = [] then s else s.fillSlots k t.dstAtoll full

/-- What the running transfer of a channel has read before offset `n` leaves the engine and arrives at once, counted for its owner and
for the codec (R327, R328). -/
def State.moveOn (s : State) (e : Engine) (c : ChanNo) (n : Nat) : State :=
  let x := s.chan e c
  let t := transferOf x.active
  let cs := chunksBefore t.codedDst n x.reading
  let s := (s.land e x.owner t x.offset n cs).charge x.owner 0 ((cs.map (·.cost)).sum)
  let s := if t.codedDst then s.modMem fun m => m.codedBlocks (s.transferType t) cs else s
  s.modChan e c fun x => { x.at_ n with reading := chunksAfter t.codedDst n x.reading }

/-- Words for another isle leave the engine in transfer order up to offset `n` while their pool has credits; one without keeps the engine
(R289, R334). -/
def State.sendOut (s : State) (k : IsleNo) (c : ChanNo) (n : Nat) : List Chunk → State
  | [] => s
  | y :: rest =>
    match y.dst with
    | .sp d w =>
      if n ≤ y.order || 256 ≤ s.inFlight k d then s
      else
        let x := s.chan (.isle k) c
        let i : StraitItem :=
          { src := k, ctx := none, owner := x.owner, dst := d, serves := x.serves, sent := some (c, x.serial)
            msg := .word { isle := d, word := w, op := .plain, bytes := (List.range 32).map fun i => (i, y.bytes.getD i 0) } }
        let s := (s.modIsle d fun m => { m with inbound := m.inbound ++ [i] }).modCnt k fun m => { m with remoteOut := m.remoteOut + 1 }
        let s := (s.charge x.owner 0 32).modChan (.isle k) c fun x => { x.at_ (y.order + 32) with reading := x.reading.drop 1 }
        State.sendOut s k c n rest
    | _ => s

/-- What a channel's running transfer has read before offset `n` leaves the engine, as far as its destination lets it at once. -/
def State.leave (s : State) (e : Engine) (c : ChanNo) (n : Nat) : State :=
  match e, (transferOf (s.chan e c).active).dstKind with
  | .isle k, 2 => s.sendOut k c n (s.chan e c).reading
  | _, _ => s.moveOn e c n

/-- The active transfer has completed: counts, source slots, notification, promotion (R319, R323, R325, R327). What it read and has not
yet moved is on its way. -/
def State.completeChan (s : State) (e : Engine) (c : ChanNo) : State :=
  let x := s.chan e c
  let t := transferOf x.active
  let k := endIsle e 1 0
  let s := (s.endFills e c).modChan e c fun x =>
    { x with
      phase := .idle
      completed := x.completed + 1
      arrived := if t.zeroSize then x.arrived + 1 else x.arrived
      active := zeros 64
      row := 0
      plane := 0
      byteIn := 0
      begun := false
      reading := []
      transit := if t.zeroSize then x.transit else x.transit ++ [⟨x.active, x.owner, x.serial, x.offset, x.reading⟩] }
  let s := s.charge x.owner 0 ((x.reading.map (·.cost)).sum)
  let s := if t.tagSrc && !t.zeroSize then s.readSlots k t.srcAtoll (t.slotsFrom (s.isles[k].atolls[t.srcAtoll]) false 0) else s
  let s := if t.srcKind = 3 ∧ ¬ t.zeroSize then s.freeBuffers (s.srcSpan t).1 (s.srcSpan t).2 else s
  let s := if t.codedDst then s.modMem fun m => m.codedBlocks (s.transferType t) x.reading else s
  let s := if t.notify then s.emit (.notice (engineIsle e) c) else s
  s.promote e c

/-- The extent of an end that remains from the progress position; a coded end counts in the slots of its blocks (R329, R387). -/
def Channel.remaining (x : Channel) (coded : Option BecType) (kind a line plane : Nat) (full : Nat × Nat) : Nat × Nat :=
  match coded with
  | some b => (endAddr kind a + x.plane * plane + x.row * line + x.byteIn / b.raw * b.slot, full.2)
  | none => (rowAddr kind a line plane x.plane x.row x.byteIn, full.2)

/-- DMA_TRANSFER_START: the engine grants its next channel, checks the transfer, takes its slots and reads (R323, R324,
R329). -/
def State.startTransfer (s : State) (e : Engine) (us : Upsets) : State :=
  match s.nextChan e with
  | none => s
  | some c =>
    let s := (s.applyUpsets us.sp).applyMemUpsets us.mem
    let s := s.modEngine e fun g => { g with lastServed := c }
    let x := s.chan e c
    let t := transferOf x.active
    let coded (is : Bool) : Option BecType := if is then some (s.transferType t) else none
    let bad := if x.begun then
        s.windowOrder e x.owner t (x.remaining (coded t.codedSrc) t.srcKind t.src t.srcLine t.srcPlane (s.srcSpan t))
          (x.remaining (coded t.codedDst) t.dstKind t.dst t.dstLine t.dstPlane (s.dstSpan t))
      else s.transferCheck e x.owner x.active
    match bad with
    | some code => s.faultChan e c code
    | none =>
      let s := s.modChan e c fun x => { x with phase := .running, begun := true }
      if t.zeroSize then s.completeChan e c
      else match s.readAll e x.owner t x.offset with
        | (none, cs, s) => s.modChan e c fun x => { x with reading := cs }
        | (some (.memory a), _, s) => s.memoryFault e c a
        | (some (.pad code w), _, s) => s.spFault e c code w

/-- The channel whose transfer an engine runs. -/
def State.runningChan (s : State) (e : Engine) : Option ChanNo := (engineChans e).find? fun c => (s.chan e c).phase == .running

/-- DMA_TRANSFER_COMPLETE: the last write of the engine's running transfer leaves (R327). For another isle its words leave as far as
transport credits go, and the transfer completes when all have left (R334). -/
def State.completeTransfer (s : State) (e : Engine) : State :=
  match s.runningChan e with
  | none => s
  | some c =>
    let t := transferOf (s.chan e c).active
    if t.dstKind = 2 then
      let s := s.leave e c t.total
      if (s.chan e c).reading = [] then s.completeChan e c else s
    else s.completeChan e c

/-- Whether words of a channel's transfer are still on their way to another isle. -/
def State.wordsOut (s : State) (e : Engine) (c : ChanNo) (serial : Nat) : Bool :=
  match e with
  | .isle k => allIsles.any fun d => s.isles[d].inbound.any fun i => i.src == k && i.sent == some (c, serial)
  | .device => false

/-- A count of a transfer's bytes, at most all of them, in whole units of its progress. -/
def State.inUnits (s : State) (t : Transfer) (n : Nat) : Nat :=
  if t.total ≤ n then t.total else n / s.progressUnit t * s.progressUnit t

/-- The next place in transfer order, before the transfer's end, with which a destination slot has its last byte (R311, R325). -/
def State.nextSlot (s : State) (e : Engine) (t : Transfer) (start : Nat) : Option Nat :=
  if !t.tagDst then none
  else
    let a := s.isles[endIsle e 1 0].atolls[t.dstAtoll]
    let u := s.progressUnit t
    ((List.range (t.total / u)).map fun i => u * i).find? fun n => start < n && t.slotsDone a start n != []

/-- DMA_ARRIVAL: the oldest completed transfer's data arrives up to the end of the next destination slot, which becomes full, or to its end,
with which the arrived count rises (R311, R325, R327). Without one the running transfer's next slot is filled, since a slot does not wait for
completion (R311). Words for another isle arrive through the straits. How much one command brings is a DESIGN CHOICE, log entry 146. -/
def State.arriveTransfer (s : State) (e : Engine) (c : ChanNo) : State :=
  let x := s.chan e c
  match x.transit with
  | [] =>
    let t := transferOf x.active
    match s.nextSlot e t x.offset with
    | some n => if x.phase = .running ∧ t.dstKind ≠ 2 then s.moveOn e c n else s
    | none => s
  | i :: rest =>
    let t := transferOf i.desc
    let n := (s.nextSlot e t i.upTo).getD t.total
    if s.wordsOut e c i.serial then s
    else
      let s := s.modChan e c fun x =>
        if n < t.total then { x with transit := { i with upTo := n, chunks := chunksAfter t.codedDst n i.chunks } :: rest }
        else { x with transit := rest, arrived := x.arrived + 1, landed := x.landed + 1 }
      s.land e i.owner t i.upTo n (chunksBefore t.codedDst n i.chunks)

/-- DMA_PAUSE (R328). -/
def State.pauseChan (s : State) (e : Engine) (c : ChanNo) : State :=
  s.modChan e c fun x =>
    { x with
      pauseBit := true
      phase := match x.phase with
        | .running => .pausing
        | .waiting => .paused
        | .queued => .paused
        | p => p }

/-- DMA_PAUSED: the reads in flight have returned and their data has left the engine; `n` bytes of the transfer were read (R328, R331). One
whose last read had issued completes. Words for another isle that still want a credit keep the channel pausing. -/
def State.chanPaused (s : State) (e : Engine) (c : ChanNo) (n : Nat) : State :=
  let x := s.chan e c
  if x.phase ≠ .pausing then s
  else
    let t := transferOf x.active
    let n := max x.offset (s.inUnits t n)
    let s := (s.endFills e c).leave e c n
    if (s.chan e c).offset < n then s
    else if x.aborting then (s.modChan e c (·.cleared)).promote e c
    else if t.total ≤ n then s.completeChan e c
    else s.modChan e c fun x => { x with reading := [], phase := if x.pauseBit then .paused else .queued }

/-- DMA_RESUME: the pause bit clears (R329). -/
def State.resumeChan (s : State) (e : Engine) (c : ChanNo) : State :=
  let s := s.modChan e c fun x => { x with pauseBit := false, shedPause := false }
  match (s.chan e c).phase with
  | .paused => s.queueChan e c
  | .idle => s.promote e c
  | _ => s

/-- DMA_WAIT_LIMIT (R326). -/
def State.chanWaitLimit (s : State) (e : Engine) (c : ChanNo) : State :=
  let x := s.chan e c
  match e with
  | .isle k =>
    if x.phase = .waiting ∧ s.mayStart e x = false then
      (s.at_ (x.waitSince + s.isles[k].waitLimit + 1)).faultChan e c 0x5024
    else s
  | .device => s

/-- DMA_SHADOW_WRITE: whole 64-byte writes only (R319, R333). -/
def State.shadowWrite (s : State) (e : Engine) (c : ChanNo) (b : Bytes) : State :=
  if b.length ≠ 64 then s
  else if (s.chan e c).shadowValid then s.raise 0x5021 { isle := engineIsle e }
  else (s.modChan e c fun x => { x with shadow := b, shadowValid := true }).promote e c

/-- DMA_ENABLE: owner and enable of DMA_CTRL; the owner changes only while the channel is idle and its shadow empty
(R333). -/
def State.chanCtrl (s : State) (e : Engine) (c : ChanNo) (ctrl : BitVec 32) (v : Serves) : State :=
  (s.modChan e c fun x =>
    { x with
      owner := if x.phase = .idle ∧ ¬ x.shadowValid then Fin.ofNat 16 (bitsOf ctrl.toNat 0 4) else x.owner
      enable := bitOf ctrl.toNat 4
      serves := if x.phase = .idle ∧ ¬ x.shadowValid then v else x.serves }).promote e c

/-- The channels of an engine; a number it does not have names none (R318). -/
def onChan (e : Engine) (c : ChanNo) (f : State → State) (s : State) : State :=
  if (engineChans e).contains c then f s else s

/-- The window a 32-byte write spells (R335). -/
def windowOf (b : Bytes) : Window :=
  { space := fieldAt b 0 0 2, read := bitOf (byteAt b 0) 2, write := bitOf (byteAt b 0) 3, sharedRead := bitOf (byteAt b 0) 4
    everyIsle := bitOf (byteAt b 0) 5, isle := Fin.ofNat 16 (bitsOf (leAt b 0 2) 6 4), base := leAt b 8 5, limit := leAt b 16 5 }

/-- Whether a window write is refused (R336). -/
def State.windowBad (s : State) (o : OwnerNo) (b : Bytes) (secure : Bool) : Bool :=
  let w := windowOf b
  let ext := w.space == 1 || w.space == 3
  !secure || b.length != 32
    || bitsOf (leAt b 0 4) 10 22 != 0 || !allZero (slice b 4 4) || !allZero (slice b 13 3) || !allZero (slice b 21 11)
    || (w.space != 0 && w.limit < w.base)
    || (ext && (w.base % 4096 != 0 || (w.limit + 1) % 4096 != 0))
    || (w.space == 2 && (w.base % 64 != 0 || (w.limit + 1) % 64 != 0 || spWords ≤ w.limit))
    || (w.space == 1 && s.memTop ≤ w.limit) || (w.space == 3 && 0x400000 ≤ w.limit)
    || (w.sharedRead && (w.write || w.space != 1))
    || ((w.everyIsle || w.isle != 0) && w.space != 2) || (w.everyIsle && w.isle != 0)
    || (ext && allOwners.any fun p => p != o && s.windows[p].toList.any fun v =>
        v.space == w.space && rangesMeet (v.base, v.limit + 1) (w.base, w.limit + 1))

/-- Whether a write grants a scratchpad or Ethernet window while an owner is scrubbed; the security core makes none (R537). -/
def State.grantHeld (s : State) (b : Bytes) : Bool :=
  2 ≤ (windowOf b).space && allOwners.any fun o => s.owners[o].phase == .scrubbing

/-- WINDOW_WRITE (R336). -/
def State.windowWrite (s : State) (o : OwnerNo) (n : Fin 64) (b : Bytes) (secure : Bool) : State :=
  if s.windowBad o b secure then s.raise 0x5020
  else if s.grantHeld b then s
  else { s with windows := s.windows.set o (s.windows[o].set n (windowOf b)) }

/-- DMA_SHADOW_WRITE. -/
def execDmaShadowWrite (e : Engine) (c : ChanNo) (b : Bytes) (s : State) : Answer := live s (onChan e c (·.shadowWrite e c b) s)
/-- DMA_ENABLE. -/
def execDmaEnable (e : Engine) (c : ChanNo) (ctrl : BitVec 32) (v : Serves) (s : State) : Answer :=
  live s (onChan e c (·.chanCtrl e c ctrl v) s)
/-- DMA_TRANSFER_START. -/
def execDmaTransferStart (e : Engine) (us : Upsets) (s : State) : Answer := live s (s.startTransfer e us)
/-- DMA_TRANSFER_COMPLETE. -/
def execDmaTransferComplete (e : Engine) (s : State) : Answer := live s (s.completeTransfer e)
/-- DMA_ARRIVAL. -/
def execDmaArrival (e : Engine) (c : ChanNo) (s : State) : Answer := live s (onChan e c (·.arriveTransfer e c) s)
/-- DMA_PAUSE. -/
def execDmaPause (e : Engine) (c : ChanNo) (s : State) : Answer := live s (onChan e c (·.pauseChan e c) s)
/-- DMA_PAUSED. -/
def execDmaPaused (e : Engine) (c : ChanNo) (n : Nat) (s : State) : Answer := live s (onChan e c (·.chanPaused e c n) s)
/-- DMA_RESUME. -/
def execDmaResume (e : Engine) (c : ChanNo) (s : State) : Answer := live s (onChan e c (·.resumeChan e c) s)
/-- DMA_ABORT (R331). -/
def execDmaAbort (e : Engine) (c : ChanNo) (s : State) : Answer := live s (onChan e c (·.abortChan e c) s)
/-- DMA_RESET: ignored unless idle or faulted (R332, R333). -/
def execDmaReset (e : Engine) (c : ChanNo) (s : State) : Answer :=
  live s (onChan e c (·.modChan e c fun x =>
    if x.phase = .idle ∨ x.phase = .faulted then { x.cleared with faultCode := 0 } else x) s)
/-- DMA_WAIT_LIMIT. -/
def execDmaWaitLimit (e : Engine) (c : ChanNo) (s : State) : Answer := live s (onChan e c (·.chanWaitLimit e c) s)
/-- WINDOW_WRITE. -/
def execWindowWrite (o : OwnerNo) (n : Fin 64) (b : Bytes) (secure : Bool) (s : State) : Answer :=
  live s (s.windowWrite o n b secure)

end Sys2Proof.Machine
end

