-- ==== Sys2Proof/Machine/Adapt.lean ====
section
/-! DEFINITION. The adaptation step (spec/13_adaptation.md R350 to R362). -/

namespace Sys2Proof.Machine

/-- Whether a frame of any slot borrows. -/
def State.someBorrow (s : State) : Bool := allSlots.any fun k => s.slots[k].frames.any fun f => f.borrow.isSome

/-- Whether a step of a slot's descriptor may start (R350 step 1, R359, R360). -/
def State.stepMayStart (s : State) (k : SlotNo) (d : Nat) : Bool :=
  let b := s.adaptDesc k d
  match s.slots[k].adapt.find? (·.desc == d) with
  | none => false
  | some a =>
    b != [] && a.running.isNone && !a.resetPending && s.slotNat k 0x60 == 1 && s.slotNat k 0x63 == 0
      && s.nat 0x2300 0x40 == 1 && s.nat 0x2000 8 == 1 && s.nat 0x2700 1 == 0 && !s.avail.depleted && s.tick.coasted == 0
      && s.fw.activation.isNone && !s.someBorrow && s.slots[k].lastLevel == some 0
      && (match a.readHeader with
          | none => false
          | some h => !(s.slots[k].frames.any fun f => f.sets.any fun x => x.desc == d && x.set == 1 - h.deployedSet))
      && s.slots[k].charge + adCycles b ≤ 1000 * s.slotNat k 0x61 && s.slots[k].steps < s.slotNat k 0x62
      && adBatch b ≤ a.pairs.countP (·.usable)

/-- The slot whose turn it is: the first with a step that may start, after the slot that last committed (R359). -/
def State.stepTurn (s : State) : Option SlotNo :=
  ((List.range 48).map fun i => Fin.ofNat 48 (s.avail.adaptLast + 1 + i)).find? fun k =>
    s.slots[k].adapt.any fun a => s.stepMayStart k a.desc

/-- Pairs without the `n` newest usable ones (R348). -/
def dropUsable : Nat → List SamplePair → List SamplePair
  | _, [] => []
  | 0, ps => ps
  | n + 1, p :: ps => if p.usable then dropUsable n ps else p :: dropUsable (n + 1) ps

/-- The entry of usable pairs (0x30ss:6E). -/
def State.notePairCount (s : State) (k : SlotNo) : State :=
  s.setNum (slotIndex k) 0x6E ((s.slots[k].adapt.map fun a => a.pairs.countP (·.usable)).sum : Nat)

/-- ADAPT_STEP_START: the step is charged, takes its pairs, and marks its write half not valid (R345, R350, R360). -/
def State.stepStart (s : State) (k : SlotNo) (d : Nat) (isles : BitVec 16) : State :=
  if s.stepTurn ≠ some k ∨ s.stepMayStart k d = false then s
  else
    let b := s.adaptDesc k d
    let s := s.modSlot k fun sl =>
      { (sl.modAdapt d fun a =>
          match a.readHalf, a.readHeader with
          | some one, some h =>
            { a with
              running := some ⟨1 - h.deployedSet, s.tick.number, h.stepCount + 1, allIsles.filter fun i => isles.getLsbD i.val,
                adCycles b⟩
              pairs := dropUsable (adBatch b) a.pairs
              half0 := if one then { a.half0 with valid := false } else a.half0
              half1 := if one then a.half1 else { a.half1 with valid := false } }
          | _, _ => a) with
        charge := sl.charge + adCycles b
        steps := sl.steps + 1 }
    (s.writeAdaptHeaders k d).notePairCount k

/-- Whether a loss exceeds baseline x ratio / 16 (R362): both sides brought to the lower exponent. -/
def lossOver (loss lossExp baseline baselineExp : Int) (ratio : Nat) : Bool :=
  let e := min lossExp baselineExp
  baseline * ratio * (2 ^ (baselineExp - e).toNat : Nat) < 16 * loss * (2 ^ (lossExp - e).toNat : Nat)

/-- Whether anything of a step is still in progress: an op, a word on its way, a transfer or its arrival (R350 steps 2 to 8). -/
def State.stepBusy (s : State) (k : SlotNo) (d : Nat) : Bool :=
  allIsles.any (fun i =>
      (s.isles[i].ctx.toList.any fun x => servesAdapt x.serves k d && (x.queue != [] || x.unsent != [] || x.sending))
        || s.isles[i].inbound.any fun m => servesAdapt m.serves k d)
    || allEngines.any fun e => (engineChans e).any fun c =>
        servesAdapt (s.chan e c).serves k d && ((s.chan e c).holds || (s.chan e c).transit != [])

/-- ADAPT_STEP_COMMIT: when the step's ops are done, its remote writes acknowledged and its transfers arrived, the write half's header is
written valid with the refreshed set, its last act (R345, R350 steps 7 to 9), and the loss is compared (R362). -/
def State.stepCommit (s : State) (k : SlotNo) (d : Nat) (loss : BitVec 32) (lossExp : BitVec 8) : State :=
  match s.slots[k].adapt.find? (·.desc == d) with
  | none => s
  | some a =>
    match a.running, a.readHalf, a.readHeader with
    | some st, some one, some h =>
      if s.stepBusy k d then s else
      let l := loss.toInt
      let e := lossExp.toInt
      let i := slotIndex k
      let hdr : AdaptHeader :=
        { valid := true, deployedSet := st.set, generation := a.generation, stepCount := st.stepCount
          commitTick := s.tick.number, loss := l, lossExp := e
          baseline := if h.stepCount = 0 then l else h.baseline
          baselineExp := if h.stepCount = 0 then e else h.baselineExp }
      let ratio := s.slotNat k 0x65
      let bad := if ratio ≠ 0 ∧ lossOver l e hdr.baseline hdr.baselineExp ratio then a.badLosses + 1 else 0
      let s := s.modSlot k (·.modAdapt d fun a =>
        { a with
          running := none
          half0 := if one then hdr else a.half0
          half1 := if one then a.half1 else hdr
          badLosses := if bad = 8 then 0 else bad
          resetPending := a.resetPending || bad == 8 })
      let s := { s with avail := { s.avail with adaptLast := k } }
      let s := (s.writeAdaptHeaders k d).noteSets k
      let s := (((s.setNum i 0x66 l).setNum i 0x6A e).bump i 0x67).setNum i 0x6B (adStage (s.adaptDesc k d))
      if bad = 8 then (s.bump i 0x6D).raise 0x3A03 { slot := k } else s
    | _, _, _ => s

/-- ADAPT_STEP_START. -/
def execAdaptStepStart (k : SlotNo) (d : Fin 2) (isles : BitVec 16) (s : State) : Answer := live s (s.stepStart k d isles)
/-- ADAPT_STEP_COMMIT. -/
def execAdaptStepCommit (k : SlotNo) (d : Fin 2) (loss : BitVec 32) (lossExp : BitVec 8) (s : State) : Answer :=
  live s (s.stepCommit k d loss lossExp)

/-- The act of a write to 0x30ss:64: every stage of the slot is reset at its next frame; running steps are abandoned (R346,
R361 reason 4). -/
def adaptResetAct (k : SlotNo) : Act := always fun _ _ s =>
  let s := s.each s.slots[k].adapt fun s a => s.abandonStep k a.desc 4
  s.modSlot k fun sl => { sl with adapt := sl.adapt.map fun a => { a with resetPending := true } }

/-- ADAPT_RESET_COMMAND. -/
def execAdaptResetCommand (w : Write) (k : SlotNo) (b : Bytes) (s : State) : Answer :=
  live s (s.odRun w (slotIndex k) 0x64 b (adaptResetAct k))

end Sys2Proof.Machine
end

