-- ==== Sys2Proof/Machine/RingCore.lean ====
section
/-! DEFINITION. The frame rings of the memory path: opening, filling and closing entries, the coverage of cells, and the
timers that close them (spec/03_raw_ingest.md R77, R82 to R93, spec/14_memory_codec_encryption.md R388). -/

namespace Sys2Proof.Machine

/-! ### Runs, cells and coverage (R77, R84) -/

/-- Pixel `j` of a payload packed with `bits` per pixel, the first pixel's top bit first (R76). -/
def unpackAt (payload : Bytes) (bits j : Nat) : Nat :=
  beAt payload (j * bits / 8) 4 / 2 ^ (32 - j * bits % 8 - bits) % 2 ^ bits

/-- The segments of a run: line, column, pixels, and the index of the first pixel in the payload (R77). -/
def runSegments (sw line col n : Nat) : List (Nat × Nat × Nat × Nat) :=
  (List.range (ceilDiv (col + n) sw)).map fun i =>
    let c := if i = 0 then col else 0
    let j := if i = 0 then 0 else i * sw - col
    (line + i, c, min (sw - c) (n - j), j)

/-- Pixels merged into a cell. -/
def mergePix (old new : List (Nat × Nat)) : List (Nat × Nat) := new.foldl (fun m p => kvPut p.1 p.2 m) old

/-- The cells with pixels put into the cell of a plane and line. -/
def putCell (p line c : Nat) (pix : List (Nat × Nat)) : List Cell → List Cell
  | [] => [⟨p, line, c, mergePix [] pix⟩]
  | x :: xs => if x.plane = p ∧ x.line = line ∧ x.cell = c then { x with pix := mergePix x.pix pix } :: xs
      else x :: putCell p line c pix xs

/-- Pixels a cell needs to be valid: those below min(source width, W) (R84). -/
def RingEntry.cellNeeds (e : RingEntry) (c : Nat) : Nat := min 64 (min e.srcWidth e.width - 64 * c)

/-- The pixels of a cell that have been written. -/
def RingEntry.cellPix (e : RingEntry) (p line c : Nat) : List (Nat × Nat) :=
  ((e.cells.find? fun x => x.plane == p && x.line == line && x.cell == c).map (·.pix)).getD []

/-- Whether a cell is valid (R84). -/
def RingEntry.cellValid (e : RingEntry) (p line c : Nat) : Bool :=
  e.cellNeeds c != 0 && (e.cellPix p line c).countP (·.1 < e.cellNeeds c) == e.cellNeeds c

/-- Cells of a line of the stored geometry. -/
def RingEntry.lineCells (e : RingEntry) : Nat := ceilDiv e.width 64

/-- Whether every cell below min(source size, stored size) of every exposure sent is valid (R87 item 1). -/
def RingEntry.covered (e : RingEntry) : Bool :=
  (List.range (min e.exposures e.planes)).all fun p =>
    (List.range (min e.srcHeight e.height)).all fun y =>
      (List.range (ceilDiv (min e.srcWidth e.width) 64)).all fun c => e.cellValid p y c

/-- Whether a cell inside the source geometry is missing (gap_fill, R93). -/
def RingEntry.gaps (e : RingEntry) : Bool := !e.covered

/-- Invalid cells within the stored geometry (R85). -/
def RingEntry.invalidCells (e : RingEntry) : Nat :=
  ((List.range e.planes).map fun p =>
    ((List.range e.height).map fun y => (List.range e.lineCells).countP fun c => !e.cellValid p y c).sum).sum

/-- Whether a line of a plane holds a valid pixel of column phase `q`, and whether it holds any (R91). -/
def RingEntry.hasPhase (e : RingEntry) (p y q : Nat) : Bool :=
  (List.range (min e.srcWidth e.width)).any fun x => x % e.cfaPeriod == q && e.cellValid p y (x / 64)
def RingEntry.lineValid (e : RingEntry) (p y : Nat) : Bool := (List.range e.lineCells).any fun c => e.cellValid p y c

/-- Whether repair must write zeros in some plane: a row phase without a valid line, or a column phase that no valid line of
a row phase holds (R91 on the memory path). -/
def RingEntry.noData (e : RingEntry) : Bool :=
  (List.range e.planes).any fun p =>
    (List.range (min e.cfaPeriod e.height)).any fun r =>
      let lines := (List.range e.height).filter fun y => y % e.cfaPeriod == r && e.lineValid p y
      lines.isEmpty || (List.range (min e.cfaPeriod e.width)).any fun q => !lines.any fun y => e.hasPhase p y q

/-! ### Closing (R87 to R93) -/

/-- The status bits a close adds (R93). -/
def RingEntry.closeStatus (e : RingEntry) (reason : Nat) : Word32 :=
  let flags := setBitIf (setBitIf (setBitIf 0 12 (reason == 5)) 13 (reason == 4)) 14 (reason == 2 || reason == 3)
  if e.srcWidth = 0 ∨ e.srcHeight = 0 then setBit flags 7
  else
    let st := setBitIf (e.status ||| flags) 0 (e.srcWidth < e.width)
    let st := setBitIf st 2 (e.srcHeight < e.height || e.exposures < e.planes)
    setBitIf (setBitIf st 4 e.gaps) 6 e.noData

/-- The repair flags: bits 0 to 6 and 11 (R92). -/
def repairMask : Word32 := 0x87F#32

/-- What the close of a frame counts and raises (R92, R94). -/
def State.noteClose (s : State) (k : SlotNo) (n : Nat) (st : Word32) : State :=
  let s := s.setNum (slotIndex k) 0x1B st.toNat
  let s := if st &&& repairMask = 0#32 then s
    else (s.bump (slotIndex k) 0x17).raise 0x2006 { slot := k, detail := n }
  if st.getLsbD 6 then s.raise 0x2007 { slot := k, detail := n } else s

/-- A filling entry closes for a reason, at a reference cycle (R87, R88). -/
def State.closeEntry (s : State) (k : SlotNo) (i reason t : Nat) : State :=
  match s.slots[k].entries[i]? with
  | none => s
  | some e =>
    if e.phase ≠ .filling then s
    else
      let st := e.closeStatus reason
      let s := s.modEntry k i fun e =>
        { e with
          phase := .closed
          closeReason := reason
          status := st
          closeTick := s.tick.number
          closeAt := t
          cellsRepaired := e.invalidCells }
      let s := if reason = 5 then s.raise 0x2008 { slot := k, detail := e.frame } else s
      s.noteClose k e.frame st

/-- When a timer closes an entry, and for which reason (R87 items 2 to 4). Of two timers that run out in one reference cycle the later
item stands: 4 before 3 before 2 (DESIGN CHOICE, log entry 129). -/
def State.entryDue (s : State) (k : SlotNo) (e : RingEntry) : Nat × Nat :=
  let grace := s.slotNat k 0x0B
  let later (a b : Nat × Nat) : Nat × Nat := if b.2 < a.2 then b else a
  let silence := (4, e.lastDatagramAt + s.slotNat k 0x0C)
  let a := match e.laterFrameAt with
    | some t => later silence (3, t + grace)
    | none => silence
  match e.lastFlagAt with
  | some t => later a (2, t + grace)
  | none => a

/-- The filling entries of a slot, oldest frame first. -/
def Slot.filling (sl : Slot) : List Nat :=
  let is := (List.range sl.entries.length).filter fun i => (sl.entries.getD i {}).phase == .filling
  match is with
  | [i, j] => if laterFrame (sl.entries.getD i {}).frame (sl.entries.getD j {}).frame then [j, i] else [i, j]
  | l => l

/-- The reference cycle in which an unauthenticated slot forgets its stream (R82). -/
def State.forgetDue (s : State) (k : SlotNo) : Option Nat :=
  if s.slotNat k 0x0D = 1 then none else s.slots[k].lastAccepted.map fun t => t + 4 * s.slotNat k 0x0C

/-- The slot forgets its newest frame and clears the sequence record (R82). -/
def State.forgetStream (s : State) (k : SlotNo) : State :=
  s.modSlot k fun sl =>
    { sl with newest := none, seq := none, lastAccepted := none, restartPending := true, lost := [] }

/-- The timers of a slot that have run out by a reference cycle: entries close, and the stream is forgotten (R82, R87, R89). -/
def State.settleRing (s : State) (k : SlotNo) (t : Nat) : State :=
  if k = 0 then s
  else
    let s := s.each s.slots[k].filling fun s i =>
      let d := s.entryDue k (s.slots[k].entries.getD i {})
      if d.2 ≤ t then s.closeEntry k i d.1 d.2 else s
    match s.forgetDue k with
    | some u => if u ≤ t then s.forgetStream k else s
    | none => s

end Sys2Proof.Machine
end

