-- ==== Sys2Proof/Machine/Ingest.lean ====
section
/-! DEFINITION. Stripe datagrams: the checks of acceptance, the sequence record, ring entries and pixels
(spec/03_raw_ingest.md R75 to R90, spec/14_memory_codec_encryption.md R388, spec/16_ethernet.md R436, R437,
spec/20_owners_and_ledger.md R532). -/

namespace Sys2Proof.Machine

/-! ### The header (R75) -/

def dgAuth (b : Bytes) : Bool := bitOf (byteAt b 1) 7
def dgLast (b : Bytes) : Bool := bitOf (byteAt b 1) 6
def dgStream (b : Bytes) : Nat := beAt b 2 2
def dgFrame (b : Bytes) : Nat := beAt b 4 4
def dgSeq (b : Bytes) : Nat := beAt b 8 8
def dgPacking (b : Bytes) : Nat := byteAt b 16
def dgExposure (b : Bytes) : Nat := fieldAt b 17 6 2
def dgCount (b : Bytes) : Nat := fieldAt b 17 4 2 + 1
def dgWidth (b : Bytes) : Nat := beAt b 18 2
def dgHeight (b : Bytes) : Nat := beAt b 20 2
def dgLine (b : Bytes) : Nat := beAt b 22 2
def dgColumn (b : Bytes) : Nat := beAt b 24 2
def dgPixels (b : Bytes) : Nat := beAt b 26 2
def dgTime (b : Bytes) : Nat := beAt b 28 8
def dgKeySlot (b : Bytes) : Bool := bitOf (byteAt b 36) 0

/-- Bytes of the datagram's pixel payload. -/
def dgPayload (b : Bytes) : Bytes := (b.drop 40).take (b.length - 40 - (if dgAuth b then 16 else 0))

/-- Check 1 of R78. -/
def dgWellFormed (b : Bytes) : Bool :=
  (if dgAuth b then 56 else 40) ≤ b.length && fieldAt b 0 4 4 == 1 && fieldAt b 0 0 4 == 0 && fieldAt b 1 0 6 == 0
    && fieldAt b 17 0 4 == 0 && fieldAt b 36 1 7 == 0 && allZero (slice b 37 3)
    && 1 ≤ dgPacking b && dgPacking b ≤ 5 && dgWidth b ≤ 8192 && dgHeight b ≤ 8192

/-- Check 7 of R78: the length (R75, R76) and the run (R77). -/
def dgRunOk (b : Bytes) : Bool :=
  let n := dgPixels b
  let stop := dgColumn b + n
  8 * (dgPayload b).length == n * packingBits (dgPacking b)
    && dgWidth b % pixelGroup false (dgPacking b) == 0 && dgExposure b + 1 ≤ dgCount b
    && (if n = 0 then dgLine b == 0 && dgColumn b == 0
      else dgLine b < dgHeight b && dgColumn b < dgWidth b && dgColumn b % 64 == 0
        && (stop % dgWidth b == 0 || stop % dgWidth b % 64 == 0)
        && dgLine b + (stop - 1) / dgWidth b < dgHeight b)

/-- The enabled slot 1 to 47 a datagram names, of an active owner (R529: the slot of another reports state 0); none when its
payload is shorter than 4 bytes. -/
def State.dgSlot (s : State) (b : Bytes) : Option SlotNo :=
  if b.length < 4 then none
  else allSlots.find? fun k =>
    k != 0 && s.slotNat k 1 == 1 && s.slotNat k 2 == dgStream b && s.owners[s.slotOwner k].phase == .active

/-! ### Source filter and authentication (R437, R80) -/

/-- Whether a slot permits a source address (R437). -/
def State.sourceOk (s : State) (k : SlotNo) (src : Bytes) : Bool :=
  let p := (s.entry (slotIndex k) 0x1D).bytes
  allZero p || samePrefix src p (s.slotNat k 0x1E)

/-- The stream key a datagram names. -/
def State.streamKey (s : State) (k : SlotNo) (b : Bytes) : Option LoadedKey :=
  let o := s.owners[s.slotOwner k]
  if dgKeySlot b then o.stream1 else o.stream0

/-- Check 3 of R78. -/
def State.dgAuthentic (s : State) (k : SlotNo) (b : Bytes) : Bool :=
  s.slotNat k 0x0D == 0 ||
    (dgAuth b && (s.streamKey k b).any fun key =>
      (gcmOpen key.key (key.salt ++ slice b 8 8) (b.take (b.length - 16)) [] (b.drop (b.length - 16))).isSome)

/-- Whether a datagram is the first under a newly loaded stream key (R532). -/
def State.dgNewKey (s : State) (k : SlotNo) (b : Bytes) : Bool :=
  s.slotNat k 0x0D == 1 && s.owners[s.slotOwner k].streamNew == some (dgKeySlot b)

/-! ### The sequence record (R79) -/

/-- Whether a sequence passes check 4. -/
def seqFresh (r : Option SeqRecord) (q : Nat) : Bool :=
  match r with
  | none => true
  | some r => r.top < q || (r.top - q ≤ 63 && !r.seen.getLsbD (r.top - q))

/-- The record after a sequence has passed acceptance, and the sequences that left it unseen. -/
def seqNote (r : Option SeqRecord) (q : Nat) : SeqRecord × Nat :=
  match r with
  | none => (⟨q, 1, 1⟩, 0)
  | some r =>
    if r.top < q then
      let d := q - r.top
      let left := (List.range (min 64 r.floor)).countP fun j => 64 ≤ j + d && !r.seen.getLsbD j
      (⟨q, (if 64 ≤ d then 0 else r.seen <<< d) ||| 1, r.floor + d⟩, left + (d - 64))
    else ({ r with seen := r.seen ||| (1 <<< (r.top - q)) }, 0)

/-! ### Entries (R85, R86, R90) -/

/-- The filling entry of a frame. -/
def Slot.fillingOf (sl : Slot) (f : Nat) : Option Nat :=
  sl.filling.find? fun i => (sl.entries.getD i {}).frame == f

/-- Check 5 of R78: the frame has a filling entry, or may open one. -/
def Slot.frameFits (sl : Slot) (f : Nat) : Bool :=
  (sl.fillingOf f).isSome || sl.newest.all fun n => laterFrame f n

/-- The oldest closed entry of a slot. -/
def Slot.oldestClosed (sl : Slot) : Option Nat :=
  (List.range sl.entries.length).foldl (fun (b : Option Nat) i =>
    if (sl.entries.getD i {}).phase ≠ .closed then b
    else match b with
      | none => some i
      | some j => if laterFrame (sl.entries.getD j {}).frame (sl.entries.getD i {}).frame then some i else b) none

/-- An entry of the ring that is free, of those the ring has now (R94). -/
def State.freeEntry (s : State) (k : SlotNo) : Option Nat :=
  (List.range (min (s.slotNat k 9) s.slots[k].entries.length)).find? fun i =>
    (s.slots[k].entries.getD i {}).phase == .free

/-- An entry for a new frame: none while every entry is filling or processing; else the older of two filling entries closes, and the
oldest closed one is reclaimed when none is free (R86, R90; that the exhaustion of R90 is looked at before the forced close of R86 is a
DESIGN CHOICE, log entry 130). -/
def State.makeRoom (s : State) (k : SlotNo) : Option Nat × State :=
  if (s.freeEntry k).isNone ∧ s.slots[k].oldestClosed.isNone then (none, s)
  else
    let s := match s.slots[k].filling with
      | [i, _] => s.closeEntry k i 5 s.now
      | _ => s
    match s.freeEntry k with
    | some i => (some i, s)
    | none =>
      match s.slots[k].oldestClosed with
      | some i => (some i, s.lateEntry k i true)
      | none => (none, s)

/-- The entry of a datagram's frame, opened where the frame has none: its header is written and its coverage map cleared (R83 to R86). A
frame counted as lost is counted once, until a later frame opens an entry (R90). -/
def State.dgEntry (s : State) (k : SlotNo) (b : Bytes) : Option Nat × State :=
  match s.slots[k].fillingOf (dgFrame b) with
  | some i => (some i, s)
  | none =>
    match s.makeRoom k with
    | (none, s) =>
      if s.slots[k].lost.contains (dgFrame b) then (none, s)
      else
        (none, ((s.modSlot k fun sl => { sl with lost := dgFrame b :: sl.lost }).bump (slotIndex k) 0x19).raise 0x2009
          { slot := k, detail := dgFrame b })
    | (some i, s) =>
      let e : RingEntry :=
        { s.freshEntry k with
          phase := .filling
          base := s.ringAt k i
          frame := dgFrame b
          srcWidth := dgWidth b
          srcHeight := dgHeight b
          packing := dgPacking b
          exposures := dgCount b
          firstSeq := dgSeq b
          lastSeq := dgSeq b
          captureTime := dgTime b
          lastDatagramAt := s.now }
      let s := s.modSlot k fun sl =>
        { sl with newest := some (dgFrame b), lost := sl.lost.filter fun n => laterFrame n (dgFrame b) }
      (some i, ((s.modEntry k i fun _ => e).ringWrite k (e.base + 64) (zeros (16 * e.height * e.planes))).2)

/-! ### Pixels (R83, R84, R388) -/

/-- The samples of a cell as a coded ring keeps them: coded and decoded again; pixels below W that never came are unstated. -/
def RingEntry.codedCell (e : RingEntry) (p line c : Nat) : Bytes × List (Nat × Nat) :=
  let t := becOfWidth e.sampleWidth
  let pix := e.cellPix p line c
  let n := min 64 (e.width - 64 * c)
  let xs := (List.range n).map fun j =>
    ((kvGet (Config.unstated (c * 64 + j)).toNat j pix % 2 ^ t.bits : Nat) : Int)
  let blk := becEncode t e.codec xs
  let ys := becDecode t n blk
  (blk, pix.map fun q => (q.1, (ys.getD q.1 0).toNat))

/-- One cell of a segment written: the pixels kept, its bytes stored in the packing of the frame's datagrams; a coded cell is coded
when it is complete. Bytes that would lie beyond the entry, whose size the configured packing gives, are not stored (DESIGN CHOICE,
log entry 38). -/
def State.putPixels (s : State) (k : SlotNo) (i p line c : Nat) (pix : List (Nat × Nat)) (raw : Bytes) : State :=
  match s.slots[k].entries[i]? with
  | none => s
  | some e =>
    let line0 := e.base + e.planeAt p + line * e.stride
    if e.codec = 0 then
      let a := line0 + 8 * c * packingBits e.packing
      let w := if a + raw.length ≤ e.base + (s.freshEntry k).size then s.ringWrite k a raw else (true, s)
      if w.1 then w.2.modSlot k fun sl =>
          { sl with entries := modAt sl.entries i fun e => { e with cells := putCell p line c pix e.cells } }
      else w.2
    else
      let e' := { e with cells := putCell p line c pix e.cells }
      let put (s : State) (x : RingEntry) : State := s.modSlot k fun sl => { sl with entries := modAt sl.entries i fun _ => x }
      if !e'.cellValid p line c then put s e'
      else
        let t := becOfWidth e.sampleWidth
        let done := e'.codedCell p line c
        let w := s.ringWrite k (line0 + c * t.slot) done.1
        if !w.1 then w.2
        else
          let s := w.2.modMem fun m =>
            { m with
              becBlocks := m.becBlocks + 1
              becSaved := m.becSaved + BitVec.ofNat 64 (t.saved (min 64 (e.width - 64 * c)) done.1.length) }
          put s { e' with cells := putCell p line c done.2 e'.cells }

/-- The coverage bit of a cell stored (R83). -/
def State.coverCell (s : State) (k : SlotNo) (i p line c : Nat) : State :=
  match s.slots[k].entries[i]? with
  | none => s
  | some e =>
    if !e.cellValid p line c then s
    else
      let bits := (List.range 8).map fun j => if e.cellValid p line (c / 8 * 8 + j) then 2 ^ j else 0
      (s.ringWrite k (e.base + 64 + 16 * (p * e.height + line) + c / 8) [byte bits.sum]).2

/-- The pixels of a datagram written into its entry; those outside the stored geometry are cut (R84). -/
def State.writeRun (s : State) (k : SlotNo) (i : Nat) (b : Bytes) : State :=
  let e := s.slots[k].entries.getD i {}
  let p := dgExposure b
  let bits := packingBits (dgPacking b)
  let payload := dgPayload b
  let segs := if dgPixels b = 0 then [] else runSegments (dgWidth b) (dgLine b) (dgColumn b) (dgPixels b)
  let long := segs.any fun g => e.width < g.2.1 + g.2.2.1
  let tall := !segs.isEmpty && (e.planes ≤ p || segs.any fun g => e.height ≤ g.1)
  let s := if long || tall then s.modEntry k i fun e =>
      { e with status := setBitIf (setBitIf e.status 1 long) 3 tall } else s
  if e.planes ≤ p then s
  else
    s.each (segs.filter fun g => g.1 < e.height) fun s g =>
      let stop := min e.width (g.2.1 + g.2.2.1)
      s.each ((List.range e.lineCells).filter fun c => g.2.1 < 64 * (c + 1) && 64 * c < stop) fun s c =>
        let j0 := g.2.2.2 + 64 * c - g.2.1
        let n := min 64 (stop - 64 * c)
        let pix := (List.range n).map fun j => (j, unpackAt payload bits (j0 + j))
        (s.putPixels k i p g.1 c pix (slice payload (j0 * bits / 8) (ceilDiv (n * bits) 8))).coverCell k i p g.1 c

/-! ### Acceptance (R78) -/

/-- What an entry records of an accepted datagram. -/
def RingEntry.noteDatagram (e : RingEntry) (b : Bytes) (now : Nat) (restart : Bool) : RingEntry :=
  { e with
    datagrams := (e.datagrams + 1) % 2 ^ 32
    firstSeq := min e.firstSeq (dgSeq b)
    lastSeq := max e.lastSeq (dgSeq b)
    captureTime := if dgSeq b ≤ e.firstSeq then dgTime b else e.captureTime
    lastFlagAt := if e.lastFlagAt.isNone && dgLast b then some now else e.lastFlagAt
    lastDatagramAt := now
    restart := e.restart || restart
    status := setBitIf e.status 15 restart }

/-- An accepted datagram: the stream's restart, its entry, its pixels, the frames it makes older, and a close when the entry is
complete (R82, R84, R87, R88). -/
def State.acceptDatagram (s : State) (k : SlotNo) (i : Nat) (b : Bytes) : State :=
  let restart := s.slots[k].restartPending
  let s := s.bump (slotIndex k) 0x10
  let s := if restart then s.raise 0x200B { slot := k, detail := dgFrame b } else s
  let s := s.modSlot k fun sl => { sl with lastAccepted := some s.now, restartPending := false }
  let s := s.modEntry k i fun e => e.noteDatagram b s.now restart
  let s := s.each s.slots[k].filling fun s j =>
    let e := s.slots[k].entries.getD j {}
    if laterFrame (dgFrame b) e.frame && e.laterFrameAt.isNone then
      s.modEntry k j fun e => { e with laterFrameAt := some s.now }
    else s
  let s := s.writeRun k i b
  let e := s.slots[k].entries.getD i {}
  if e.lastFlagAt.isNone then s
  else if e.srcWidth = 0 ∨ e.srcHeight = 0 then s.closeEntry k i 6 s.now
  else if e.covered then s.closeEntry k i 1 s.now
  else s

/-- The sequence record and the stream key after a datagram has passed acceptance (R79, R532). -/
def State.noteSequence (s : State) (k : SlotNo) (b : Bytes) : State :=
  let o := s.slotOwner k
  let s := if s.dgNewKey k b then
      let s := s.modOwner o fun x =>
        { x with
          streamNew := none
          stream0 := if dgKeySlot b then none else x.stream0
          stream1 := if dgKeySlot b then x.stream1 else none }
      s.each (allSlots.filter fun j => s.slotOwner j == o) fun s j => s.modSlot j fun sl => { sl with seq := none }
    else s
  let r := seqNote s.slots[k].seq (dgSeq b)
  (s.modSlot k fun sl => { sl with seq := some r.1 }).bumpBy (slotIndex k) 0x16 r.2

/-- An entry's status bit set for a datagram of its frame that is dropped. -/
def State.markDropped (s : State) (k : SlotNo) (b : Bytes) (bit : Nat) : State :=
  match s.slots[k].fillingOf (dgFrame b) with
  | some i => s.modEntry k i fun e => { e with status := setBit e.status bit }
  | none => s

/-- Check 6 of R78. -/
def Slot.conflicts (sl : Slot) (b : Bytes) : Bool :=
  match sl.fillingOf (dgFrame b) with
  | some i =>
    let e := sl.entries.getD i {}
    e.packing != dgPacking b || e.exposures != dgCount b || e.srcWidth != dgWidth b || e.srcHeight != dgHeight b
  | none => false

/-- A datagram for a slot, after the timers of the cycle (R78, R89). -/
def State.judgeDatagram (s : State) (k : SlotNo) (src b : Bytes) : State :=
  let i := slotIndex k
  let sl := s.slots[k]
  if !dgWellFormed b then s.bump i 0x11
  else if !s.sourceOk k src then s.bump i 0x11
  else if !s.dgAuthentic k b then ((s.bump i 0x12).markDropped k b 9).raiseOnce 0x200A k { slot := k }
  else if !seqFresh (if s.dgNewKey k b then none else sl.seq) (dgSeq b) then s.bump i 0x13
  else if !sl.frameFits (dgFrame b) then s.bump i 0x14
  else if sl.conflicts b then (s.bump i 0x15).markDropped k b 8
  else if !dgRunOk b then s.bump i 0x11
  else
    let s := s.noteSequence k b
    match s.dgEntry k b with
    | (some e, s) => s.acceptDatagram k e b
    | (none, s) => s

/-- A stripe datagram on an Ethernet port: nothing is received on a port whose link is down, a packet beyond the MTU is
dropped (R434), a shedding device drops it (R561), and so does a port without the ingest role. -/
def State.stripeDatagram (s : State) (p : EthNo) (src b : Bytes) : State :=
  if !s.linkUp p then s
  else
    let s := s.bump (ethIndex p) 0x20
    if s.udpRoom p src < b.length then s
    else if s.nat 0x2700 1 ≠ 0 ∨ !s.hasRole p 0 then s.bump (ethIndex p) 0x26
    else
      match s.dgSlot b with
      | none => s.bump (ethIndex p) 0x24
      | some k => (s.settleRing k s.now).judgeDatagram k src b

/-! ### Timers (R82, R87) -/

/-- When the first timer of an entry that fills runs out, of those with a reason. -/
def State.timerOf (s : State) (k : SlotNo) (silence : Bool) : Option Nat :=
  let due := (s.slots[k].filling.map fun i => s.entryDue k (s.slots[k].entries.getD i {})).filter fun d => (d.1 == 4) == silence
  (due.map (·.2)).min?

/-- The clock moved to a timer of a slot, where one runs; every timer that has run out by then takes effect. -/
def State.runTimer (s : State) (k : SlotNo) (due : Option Nat) : State :=
  match due with
  | none => s
  | some t => (s.at_ t).settleRing k (max t s.now)

/-! ### Commands -/

def execStripeDatagram (at_ : Nat) (p : EthNo) (src payload : Bytes) (s : State) : Answer :=
  live s ((s.at_ at_).stripeDatagram p (slice src 0 16) payload)

def execReorderGraceExpiry (k : SlotNo) (s : State) : Answer := live s (s.runTimer k (s.timerOf k false))

def execSilenceTimeoutExpiry (k : SlotNo) (s : State) : Answer := live s (s.runTimer k (s.timerOf k true))

def execStreamForget (k : SlotNo) (s : State) : Answer := live s (s.runTimer k (s.forgetDue k))

end Sys2Proof.Machine
end

