-- ==== Sys2Proof/Machine/Inline.lean ====
section
/-! DEFINITION. The in-line port of slot 0: frames, lines, breaks (spec/03_raw_ingest.md R66 to R74, R91 on the in-line path,
spec/02_tick.md R49, R56, R57). -/

namespace Sys2Proof.Machine

/-- The state with the in-line port changed. -/
def State.modInline (s : State) (f : InlinePort → InlinePort) : State := s.modSlot 0 fun sl => { sl with inl := f sl.inl }

/-- The in-line port. -/
def State.inline (s : State) : InlinePort := s.slots[(0 : SlotNo)].inl

/-- The number of the frame the port receives or received last (R69). -/
def InlinePort.number (p : InlinePort) : Nat := (p.nextFrame + 2 ^ 32 - 1) % 2 ^ 32

/-- Ingest bit `b` of the frame being received set (R93). -/
def State.inlineBit (s : State) (b : Nat) : State :=
  (s.modInline fun p => { p with status := setBit p.status b }).modFrame 0 s.inline.number fun f =>
    { f with status := setBit f.status b }

/-- An ingest bit set, with a code raised the first time in the frame. -/
def State.inlineBitOnce (s : State) (b code : Nat) : State :=
  if s.inline.status.getLsbD b then s else (s.inlineBit b).raise code { slot := 0, detail := s.inline.number }

/-- A framing fault: of the frame being received, or of the next one (R69). -/
def State.syncFault (s : State) : State :=
  if s.inline.active then s.inlineBitOnce 10 0x2004
  else if s.inline.syncErrorNext then s
  else (s.modInline fun p => { p with syncErrorNext := true }).raise 0x2004 { slot := 0, detail := s.inline.nextFrame }

/-! ### Samples of a line (R66, R70) -/

/-- Pixels per clock of a lane mode. -/
def lanePixels (mode : Nat) : Nat := if mode = 3 then 1 else 2

/-- The samples one clock carries in a lane mode, for a sample width. R66 says which width goes with which mode; R94 lets 0x3000:06 hold
any of 8 to 16. Modes 0 to 2 carry the bits of the mode whatever 0x3000:06 holds (DESIGN CHOICE, log entry 131). -/
def laneSamples (mode width : Nat) (d : BitVec 24) : List Nat :=
  let v := d.toNat
  if mode = 3 then [v % 65536 / 2 ^ (16 - width)]
  else
    let drop := if mode = 0 then 4 else if mode = 1 then 2 else 0
    [v % 4096 / 2 ^ drop, v / 4096 / 2 ^ drop]

/-- The samples of a line. -/
def State.lineSamples (s : State) (words : List (BitVec 24)) : List Nat :=
  words.flatMap (laneSamples s.inline.geo.mode s.inline.geo.sampleWidth)

/-! ### Stripe buffers (R74, R135) -/

/-- The stripes of a frame that hold a front stripe buffer: those with lines the front has yet to process, and those it has
processed that the chain has not released. -/
def Frame.frontUse (f : Frame) (h : Nat) : List Nat :=
  ((f.inlineLines.map fun c => c.line / h).dedup.filter fun i => !f.frontDone.contains i) ++ f.frontHeld.map (·.stripe)

/-- Whether line `y` of a frame of slot 0 finds a stripe buffer. -/
def State.lineBuffer (s : State) (f : Frame) (y : Nat) : Bool :=
  match s.planOf f.plan with
  | none => false
  | some img =>
    let h := stripeHeight img.body
    (f.frontUse h).contains (y / h)
      || ((s.slots[(0 : SlotNo)].frames.map fun g => (g.frontUse h).length).sum < frontBuffers img.body f.level)

/-- A line given to the front, or dropped for want of a buffer (R74); lines of a frame of a coasted tick are discarded (R57). -/
def State.giveLine (s : State) (e y : Nat) (samples : List Nat) : State :=
  let n := s.inline.number
  match s.slots[(0 : SlotNo)].frameOf n with
  | none => s
  | some f =>
    if f.coasted then s
    else if s.lineBuffer f y then
      s.modFrame 0 n fun f =>
        { f with inlineLines := f.inlineLines ++ [⟨e, y, 0, (List.range samples.length).zip samples⟩] }
    else
      (s.modFrame 0 n fun f => { f with dropped := f.dropped ++ [(e, y)] }).inlineBitOnce 11 0x2005

/-! ### Lines (R67, R70) -/

/-- Lines a frame of slot 0 has in all its exposures. -/
def State.inlineTotal (s : State) : Nat := s.inline.geo.exposures * s.inline.geo.height

/-- The frame being received starts, when its first line has come or it is broken (DEDUCED, log entry 122); past its borrow deadline it
ends late instead (R55). -/
def State.openInline (s : State) : State :=
  let n := s.inline.number
  match s.slots[(0 : SlotNo)].frameOf n with
  | none => s
  | some f =>
    if !f.unopened then s
    else
      let g := { f with unopened := false }
      if f.borrow.any fun b => b.2 < s.now then
        ((s.modFrame 0 n fun _ => g).raise 0x1002 { slot := 0, detail := n }).finishFrame 0 n .late 0
      else if f.coasted then s.modFrame 0 n fun _ => g
      else (s.modSlot 0 fun sl => { sl with frames := sl.frames.filter (·.number != n) }).startFrame 0 g

/-- A line that has ended: pulse `k` carries line k / E of exposure k mod E, cut or short (R67, R70). -/
def State.inlineLine (s : State) (words : List (BitVec 24)) : State :=
  let s := s.openInline
  let k := s.inline.pulses
  let s := s.modInline fun p => { p with pulses := k + 1, lowSince := s.now }
  if s.inlineTotal ≤ k then s.inlineBit 3
  else
    let g := s.inline.geo
    let w := g.width
    let px := s.lineSamples words
    let s := if px.length < w then s.inlineBit 0 else s
    let s := if w < px.length then s.inlineBit 1 else s
    s.giveLine (k % g.exposures) (k / g.exposures) (px.take w)

/-! ### The end of a frame (R71, R73, R91 to R93) -/

/-- Pixels of a line of an exposure that reached the front. -/
def Frame.inlinePixels (f : Frame) (e y : Nat) : Nat :=
  ((f.inlineLines.find? fun c => c.plane == e && c.line == y).map (·.pix.length)).getD 0

/-- Whether repair from lines above must write zeros somewhere (R91 on the in-line path). -/
def Frame.inlineNoData (f : Frame) : Bool :=
  let g := f.geo
  (List.range g.exposures).any fun e =>
    (List.range g.height).any fun y =>
      let above := (List.range (y / g.per)).map fun j => f.inlinePixels e (y - (j + 1) * g.per)
      let mine := f.inlinePixels e y
      if mine = 0 then above.all (· == 0)
      else (List.range (min g.per g.width)).any fun q => mine ≤ q && above.all (· ≤ q)

/-- The port stops receiving its frame: the ingest bits are final; an empty frame is done, a frame of a coasted tick ends
late (R57, R71, R92, R93). -/
def State.closeInline (s : State) : State :=
  let n := s.inline.number
  let empty := s.inline.pulses == 0 && !s.inline.status.getLsbD 5
  let s :=
    if empty then
      let s := s.modInline fun p => { p with status := setBit 0 7 }
      s.modFrame 0 n fun f => { f with status := setBit 0 7 }
    else
      let s := if s.inline.pulses < s.inlineTotal then s.inlineBit 2 else s
      match s.slots[(0 : SlotNo)].frameOf n with
      | some f =>
        if !f.coasted && f.inlineNoData then s.inlineBit 6 else s
      | none => s
  let s := (s.modInline fun p => { p with active := false }).noteClose 0 n s.inline.status
  match s.slots[(0 : SlotNo)].frameOf n with
  | some f =>
    if empty ∧ f.coasted then s.finishFrame 0 n .done 0
    else if empty then (s.modFrame 0 n fun f => { f with borrow := none }).openInline
    else if f.coasted then s.finishFrame 0 n .late 0
    else s
  | none => s

/-- The frame is declared broken (R73); `words` are the pixels of the line in progress, if any. -/
def State.breakInline (s : State) (code : Nat) (words : List (BitVec 24)) : State :=
  let s := (s.openInline.inlineBit 5).raise code { slot := 0, detail := s.inline.number }
  let s := if words = [] then s else s.inlineLine words
  (s.bump 0x3000 0x1A).closeInline.modInline fun p => { p with broken := true }

/-- CAM_LV periods beyond which the line is stuck (R72). -/
def State.stuckLimit (s : State) : Nat := 4 * (s.inline.geo.width * s.inline.geo.exposures / lanePixels s.inline.geo.mode) + 64

/-- Whether the line in progress is stuck high, or is one pulse too many (R72). -/
def State.inlineStuck (s : State) (words : List (BitVec 24)) : Bool :=
  s.stuckLimit < words.length || 4 * s.inlineTotal ≤ s.inline.pulses

/-- Whether slot 0's port is in use: ingest enabled and the device not shedding (R561). -/
def State.portOn (s : State) : Bool := s.slotNat 0 1 == 1 && s.nat 0x2700 1 == 0

/-- The frame that begins when CAM_FV rises: slot 0 commits unless a frame of it borrows, and the level is fixed (R49, R56, R57, R116,
R146; DEDUCED, log entry 34). It starts with its first line. -/
def State.beginInline (s : State) (n : Nat) : State :=
  if !s.takesFrames 0 then s
  else
    let idle := s.tick.coasted < 17
    let s := if idle ∧ !s.slots[(0 : SlotNo)].frames.any (·.borrow.isSome) then s.commitSlot 0 else s
    let s := if idle then s.noteFirstUse 0 n else s
    let f : Frame :=
      { number := n
        unopened := true
        coasted := !idle
        level := s.nextLevel 0
        front := s.slots[(0 : SlotNo)].front
        knobs := s.knobs 0
        tick := s.tick.number
        width := s.inline.geo.width
        height := s.inline.geo.height
        status := s.inline.status
        geo := s.inline.geo }
    s.modSlot 0 fun sl => { sl with frames := sl.frames ++ [f] }

/-- CAM_FV rises: the next frame begins (R69). A blanking interval that was too short counts against it. -/
def State.fvRise (s : State) (short : Bool) : State :=
  if !s.portOn || s.inline.broken || s.inline.fv then s
  else
    let s := if short then s.syncFault else s
    let n := s.inline.nextFrame
    let st : Word32 := setBitIf 0 10 s.inline.syncErrorNext
    let s := s.modInline fun p =>
      { p with
        fv := true
        active := true
        nextFrame := (n + 1) % 2 ^ 32
        pulses := 0
        syncErrorNext := false
        lowSince := s.now
        status := st
        geo := s.geometry 0 }
    s.beginInline n

/-- CAM_FV falls: a line still high ends there (R69), and the frame ends. -/
def State.fvFall (s : State) (words : List (BitVec 24)) (short : Bool) : State :=
  if s.inline.broken || !s.inline.fv then s
  else
    let s := if words ≠ [] ∨ short then s.syncFault else s
    let s := if words = [] then s else s.inlineLine words
    s.closeInline.modInline fun p => { p with fv := false }

/-- A line of the port ends: ignored while CAM_FV is low (R69) or the port waits after a break. -/
def State.lineEnd (s : State) (words : List (BitVec 24)) (short : Bool) : State :=
  if s.inline.broken || words = [] then s
  else if !s.inline.active then (if s.portOn then s.syncFault else s)
  else
    let s := if short then s.syncFault else s
    if s.inlineStuck words then s.breakInline 0x2002 (words.take (s.stuckLimit + 1)) else s.inlineLine words

/-! ### Commands -/

def execCamFvRise (at_ : Nat) (short : Bool) (s : State) : Answer := live s ((s.at_ at_).fvRise short)

def execCamFvFall (at_ : Nat) (words : List (BitVec 24)) (short : Bool) (s : State) : Answer :=
  live s ((s.at_ at_).fvFall words short)

def execInlineLine (at_ : Nat) (words : List (BitVec 24)) (short : Bool) (s : State) : Answer :=
  live s ((s.at_ at_).lineEnd words short)

/-- INLINE_CLOCK_LOSS: no CAM_PCLK edge for 64 reference cycles within a frame (R72). -/
def execInlineClockLoss (at_ : Nat) (words : List (BitVec 24)) (s : State) : Answer :=
  live s (if s.inline.active then (s.at_ at_).breakInline 0x2001 words else s)

def execInlineStuck (at_ : Nat) (words : List (BitVec 24)) (s : State) : Answer :=
  live s (if s.inline.active && s.inlineStuck words then (s.at_ at_).breakInline 0x2002 words else s)

/-- INLINE_LINE_GAP: CAM_LV has been low for longer than the limit of 0x3000:0E (R72). -/
def execInlineLineGap (at_ : Nat) (s : State) : Answer :=
  live s (if s.inline.active && s.inline.lowSince + s.slotNat 0 0x0E < at_ then (s.at_ at_).breakInline 0x2003 [] else s)

/-- BROKEN_REARM: CAM_FV has been low for 64 consecutive CAM_PCLK edges (R73). -/
def execBrokenRearm (at_ : Nat) (s : State) : Answer :=
  live s (if s.inline.broken then (s.at_ at_).modInline fun p => { p with broken := false, fv := false } else s)

end Sys2Proof.Machine
end

