-- ==== Sys2Proof/Machine/Front.lean ====
section
/-! DEFINITION. The fixed front: repair of a plane, the pixel steps, the classical demosaic, a stripe of a frame, and the
parameter image (spec/03_raw_ingest.md R91, spec/04_fixed_front.md R96 to R119, spec/05_neural_stages.md R135). -/

namespace Sys2Proof.Machine

/-! ### Repair (R91) -/

/-- The valid pixels of an exposure plane, by line and column. -/
abbrev RawPlane := Nat → Nat → Option Nat

/-- What repair needs of a plane: its size, its CFA period, its pixels, and whether lines below may be used (memory path). -/
structure Repair where
  w : Nat
  h : Nat
  per : Nat
  below : Bool
  pix : RawPlane

/-- Positions `n - per`, `n - 2 per`, … down to 0, and `n + per`, … below a limit, nearest first. -/
def before (n per : Nat) : List Nat := (List.range (n / per)).map fun j => n - (j + 1) * per
def after (n per limit : Nat) : List Nat := ((List.range limit).map fun j => n + (j + 1) * per).filter (· < limit)

/-- Whether a line is valid, and whether it holds a valid pixel of a column phase. -/
def Repair.lineOk (r : Repair) (y : Nat) : Bool := (List.range r.w).any fun x => (r.pix y x).isSome
def Repair.phaseOk (r : Repair) (y q : Nat) : Bool := (List.range r.w).any fun x => x % r.per == q && (r.pix y x).isSome

/-- A pixel of a line that holds its column phase: itself, or the nearest valid one of the phase, to the left first. -/
def Repair.inLine (r : Repair) (y x : Nat) : Nat :=
  match r.pix y x with
  | some v => v
  | none => ((before x r.per ++ after x r.per r.w).findSome? (r.pix y)).getD 0

/-- The nearest line of the same row phase for which `p` holds, above first. -/
def Repair.lineFor (r : Repair) (y : Nat) (p : Nat → Bool) : Option Nat :=
  (before y r.per ++ (if r.below then after y r.per r.h else [])).find? p

/-- A pixel of a valid line. -/
def Repair.onValid (r : Repair) (y x : Nat) : Nat :=
  if r.phaseOk y (x % r.per) then r.inLine y x
  else match r.lineFor y fun l => r.phaseOk l (x % r.per) with
    | some l => r.inLine l x
    | none => 0

/-- A pixel of the repaired plane. -/
def Repair.out (r : Repair) (y x : Nat) : Nat :=
  if r.lineOk y then r.onValid y x
  else match r.lineFor y r.lineOk with
    | some l => r.onValid l x
    | none => 0

/-! ### The parameter image (R118) -/

def imgLut (b : Bytes) : Bool := bitOf (byteAt b 1) 0
def imgStatic (b : Bytes) : Bool := bitOf (byteAt b 1) 1
def imgDynamic (b : Bytes) : Bool := bitOf (byteAt b 1) 2
def imgShading (b : Bytes) : Bool := bitOf (byteAt b 1) 3
def imgThreshold (b : Bytes) : Nat := leAt b 12 4
def imgDefects (b : Bytes) : Nat := leAt b 16 2
def imgRatio (b : Bytes) (e : Nat) : Nat := leAt b (18 + 2 * e) 2
def imgThr (b : Bytes) (e : Nat) : Nat := leAt b (28 + 4 * e) 4
def imgK (b : Bytes) (e : Nat) : Nat := byteAt b (40 + e)
def imgColour (b : Bytes) (p : Nat) : Nat := bitsOf (leAt b 44 4) (2 * p) 2
def imgPlane (b : Bytes) (p : Nat) : Nat := bitsOf (leAt b 48 4) (2 * p) 2
def imgBlack (b : Bytes) (e p : Nat) : Nat := leAt b (64 + 32 * e + 2 * p) 2
def imgLutAt (b : Bytes) (i : Nat) : Nat := leAt b (256 + 4 * i) 4
def imgDefect (b : Bytes) (i : Nat) : Nat := leAt b (16640 + 4 * i) 4
def imgGain (b : Bytes) (c i j : Nat) : Nat := leAt b (33024 + 2 * (1089 * c + 33 * j + i)) 2

/-! ### The pixel steps -/

/-- R99. -/
def frontBlack (img : Bytes) (e p s : Nat) : Nat := s - imgBlack img e p

/-- R100, for sample width `w`. -/
def frontLinear (img : Bytes) (w y : Nat) : Nat :=
  if !imgLut img then y
  else if w ≤ 12 then imgLutAt img (y * 2 ^ (12 - w))
  else
    let i := y / 2 ^ (w - 12)
    let f := y - i * 2 ^ (w - 12)
    let e0 : Int := imgLutAt img i
    let e1 : Int := if i < 4095 then imgLutAt img (i + 1) else leAt img 8 4
    (e0 + rneShr ((e1 - e0) * f) (w - 12)).toNat

/-- The exposure the merge takes: the first from `e` on below its threshold and window (R101). -/
def mergeFrom (img : Bytes) (v : Nat → Nat) (es : Nat) : Nat → Nat → Nat
  | 0, e => e
  | n + 1, e => if e + 1 < es && imgThr img e + 2 ^ imgK img e ≤ v e then mergeFrom img v es n (e + 1) else e

/-- R101: `es` exposures with linear values `v`. -/
def frontMerge (img : Bytes) (es : Nat) (v : Nat → Nat) : Nat :=
  let scaled (e : Nat) : Int := if e = 0 then v 0 else rneShr ((v e * imgRatio img e : Nat) : Int) 8
  let e := mergeFrom img v es es 0
  let k := imgK img e
  if e + 1 < es ∧ imgThr img e ≤ v e then
    let a : Int := (v e - imgThr img e : Nat)
    satU 20 (rneShr (scaled e * ((2 ^ k : Nat) - a) + scaled (e + 1) * a) k)
  else satU 20 (scaled e)

/-- A position moved by `d`, reflected about itself where it would leave the frame (R98). -/
def reflect (n limit : Nat) (d : Int) : Nat :=
  let t := (n : Int) + d
  if 0 ≤ t ∧ t < limit then t.toNat else ((n : Int) - d).toNat

/-- Whether a pixel is listed (R103). -/
def listedAt (img : Bytes) (x y : Nat) : Bool :=
  imgStatic img && (List.range (imgDefects img)).any fun i => imgDefect img i == x + 8192 * y

/-- What defect correction does to a pixel. -/
inductive Defect where
  | none | static | uncorrectable | dynamic
  deriving DecidableEq, Repr

/-- R103 and R104 on the merged plane `m`: the pixel's value, and what was done. -/
def frontDefect (img : Bytes) (w h per : Nat) (m : Nat → Nat → Nat) (x y : Nat) : Nat × Defect :=
  let px (d : Int) := reflect x w (d * per)
  let py (d : Int) := reflect y h (d * per)
  if listedAt img x y then
    let usable := [(px (-1), y), (px 1, y), (x, py (-1)), (x, py 1)].map fun q =>
      if listedAt img q.1 q.2 then Option.none else some (m q.1 q.2)
    match usable with
    | [some a, some b, some c, some d] => ((rneShr ((a + b + c + d : Nat) : Int) 2).toNat, .static)
    | [some a, some b, _, _] => ((rneShr ((a + b : Nat) : Int) 1).toNat, .static)
    | [_, _, some c, some d] => ((rneShr ((c + d : Nat) : Int) 1).toNat, .static)
    | us =>
      match us.findSome? id with
      | some v => (v, .static)
      | Option.none => (m x y, .uncorrectable)
  else if imgDynamic img then
    let ring := [(-1, -1), (0, -1), (1, -1), (-1, 0), (1, 0), (-1, 1), (0, 1), (1, 1)].map fun (d : Int × Int) => m (px d.1) (py d.2)
    let lo := ring.foldl min (ring.headD 0)
    let hi := ring.foldl max 0
    let v := m x y
    if hi + imgThreshold img < v then (hi, .dynamic)
    else if v + imgThreshold img < lo then (lo, .dynamic)
    else (v, .none)
  else (m x y, .none)

/-- R106. -/
def frontShade (img : Bytes) (per x y v : Nat) : Nat :=
  if !imgShading img then v
  else
    let sx := fieldAt img 6 0 4
    let sy := fieldAt img 6 4 4
    let c := imgPlane img (y % per * per + x % per)
    let i := min (x / 2 ^ sx) (byteAt img 4 - 2)
    let j := min (y / 2 ^ sy) (byteAt img 5 - 2)
    let fx := min (x - i * 2 ^ sx) (2 ^ sx)
    let fy := min (y - j * 2 ^ sy) (2 ^ sy)
    let gx := 2 ^ sx - fx
    let gy := 2 ^ sy - fy
    let g := imgGain img c i j * gx * gy + imgGain img c (i + 1) j * fx * gy + imgGain img c i (j + 1) * gx * fy
      + imgGain img c (i + 1) (j + 1) * fx * fy
    satU 20 (rneShr ((v * g : Nat) : Int) (12 + sx + sy))

/-! ### The classical demosaic (R111 to R113) -/

/-- A plane of samples with a colour at each site: 0 R, 1 G, 2 B. -/
structure Mosaic where
  w : Nat
  h : Nat
  c : Nat → Nat → Int
  col : Nat → Nat → Nat

/-- The sample `(dx, dy)` away, reflected. -/
def Mosaic.near (m : Mosaic) (x y : Nat) (dx dy : Int) : Int := m.c (reflect x m.w dx) (reflect y m.h dy)

/-- The gradient and the estimate of green along a direction (R111). -/
def Mosaic.along (m : Mosaic) (x y : Nat) (horizontal : Bool) : Int × Int :=
  let c (d : Int) : Int := if horizontal then m.near x y d 0 else m.near x y 0 d
  (((c (-1) - c 1).natAbs + (2 * c 0 - c (-2) - c 2).natAbs : Nat), rneShr (2 * (c (-1) + c 1) + 2 * c 0 - c (-2) - c 2) 2)

/-- Green at a site. -/
def Mosaic.green (m : Mosaic) (x y : Nat) : Int :=
  if m.col x y = 1 then m.c x y
  else
    let (dh, gh) := m.along x y true
    let (dv, gv) := m.along x y false
    satU 20 (if dh < dv then gh else if dv < dh then gv else rneShr (gh + gv) 1)

/-- Colour difference to green at a neighbour. -/
def Mosaic.diff (m : Mosaic) (x y : Nat) (dx dy : Int) : Int :=
  let x' := reflect x m.w dx
  let y' := reflect y m.h dy
  m.c x' y' - m.green x' y'

/-- Red (0) or blue (2) at a site. -/
def Mosaic.other (m : Mosaic) (k x y : Nat) : Int :=
  let g := m.green x y
  if m.col x y = k then m.c x y
  else if m.col x y = 1 then
    if m.col (reflect x m.w 1) y = k then satU 20 (g + rneShr (m.diff x y (-1) 0 + m.diff x y 1 0) 1)
    else satU 20 (g + rneShr (m.diff x y 0 (-1) + m.diff x y 0 1) 1)
  else satU 20 (g + rneShr (m.diff x y (-1) (-1) + m.diff x y 1 (-1) + m.diff x y (-1) 1 + m.diff x y 1 1) 2)

/-- The three colours of a site. -/
def Mosaic.rgb (m : Mosaic) (x y : Nat) : List Int := [m.other 0 x y, m.green x y, m.other 2 x y]

/-- Whether four colours in raster order are a Bayer arrangement (R111). -/
def isBayer : List Nat → Bool
  | [a, b, c, d] =>
    (a == 1 && d == 1 && ((b == 0 && c == 2) || (b == 2 && c == 0)))
      || (b == 1 && c == 1 && ((a == 0 && d == 2) || (a == 2 && d == 0)))
  | _ => false

/-- Whether the colour map is accepted for a CFA period (R111, R112). -/
def colourOk (img : Bytes) (per : Nat) : Bool :=
  let col p := imgColour img p
  if per = 2 then isBayer [col 0, col 1, col 2, col 3]
  else if per = 4 then
    isBayer [col 0, col 2, col 8, col 10]
      && [0, 2, 8, 10].all fun p => col (p + 1) == col p && col (p + 4) == col p && col (p + 5) == col p
  else true

/-- The half-resolution plane of a quad arrangement (R112). -/
def quadPlane (w h : Nat) (c : Nat → Nat → Int) (img : Bytes) : Mosaic :=
  { w := w / 2
    h := ceilDiv h 2
    c := fun i j =>
      let y := 2 * j
      let a := c (2 * i) y + c (2 * i + 1) y
      if y + 1 < h then rneShr (a + c (2 * i) (y + 1) + c (2 * i + 1) (y + 1)) 2 else rneShr (2 * a) 2
    col := fun i j => imgColour img (2 * j % 4 * 4 + 2 * i % 4) }

/-- The planes the front emits for a pixel before the output shift (R108, R111 to R113). -/
def frontColours (img : Bytes) (per w h : Nat) (classical : Bool) (c : Nat → Nat → Int) (x y : Nat) : List Int :=
  if !classical || per == 1 then [c x y]
  else if !colourOk img per then [c x y, c x y, c x y]
  else if per = 2 then Mosaic.rgb { w := w, h := h, c := c, col := fun x y => imgColour img (y % 2 * 2 + x % 2) } x y
  else (quadPlane w h c img).rgb (x / 2) (y / 2)

/-- R107. -/
def frontShift (shift : Nat) (c : Int) : Int := satU 16 (rneShr c shift)

/-! ### A frame's planes -/

/-- The valid pixels of an exposure of a frame: of its ring entry, or of the lines the in-line port gave (R76, R91). -/
def State.rawPlane (s : State) (k : SlotNo) (f : Frame) (e : Nat) : RawPlane := fun y x =>
  match f.entry with
  | none =>
    (f.inlineLines.find? fun c => c.plane == e && c.line == y).bind fun c => (c.pix.find? (·.1 == x)).map (·.2)
  | some i =>
    let r := s.slots[k].entries.getD i {}
    if x < r.srcWidth ∧ y < r.srcHeight ∧ r.cellValid e y (x / 64) then
      ((r.cellPix e y (x / 64)).find? (·.1 == x % 64)).map fun q => q.2 % 2 ^ r.sampleWidth
    else none

/-- The merged plane of a frame (R91, R99 to R102). -/
def State.mergedPlane (s : State) (k : SlotNo) (f : Frame) (img : Bytes) (x y : Nat) : Nat :=
  let g := f.geo
  let p := y % g.per * g.per + x % g.per
  let v (e : Nat) : Nat :=
    let r : Repair := { w := g.width, h := g.height, per := g.per, below := f.entry.isSome, pix := s.rawPlane k f e }
    frontLinear img g.sampleWidth (frontBlack img e p (r.out y x))
  frontMerge img g.exposures v

/-- What defect correction does at each pixel of a frame. -/
def State.correctedAt (s : State) (k : SlotNo) (f : Frame) (img : Bytes) (x y : Nat) : Nat × Defect :=
  frontDefect img f.geo.width f.geo.height f.geo.per (s.mergedPlane k f img) x y

/-- The shaded plane of a frame (R106). -/
def State.shadedPlane (s : State) (k : SlotNo) (f : Frame) (img : Bytes) (x y : Nat) : Int :=
  frontShade img f.geo.per x y (s.correctedAt k f img x y).1

/-- Planes the front emits for a frame (R108). -/
def frontPlanes (f : Frame) : Nat := if 1 ≤ f.level ∧ f.geo.per ≠ 1 then 3 else 1

/-- The lines of stripe `i` of a frame. -/
def stripeLines (h : Nat) (f : Frame) (i : Nat) : List Nat := (List.range (min h (f.height - h * i))).map (h * i + ·)

/-- The samples the front emits for a stripe: plane, line, column. -/
def State.frontSamples (s : State) (k : SlotNo) (f : Frame) (img body : Bytes) (i : Nat) : List (List (List Int)) :=
  let g := f.geo
  let shift := fieldAt body 3 0 3
  let c := s.shadedPlane k f img
  (List.range (frontPlanes f)).map fun q =>
    (stripeLines (stripeHeight body) f i).map fun y =>
      (List.range g.width).map fun x => frontShift shift ((frontColours img g.per g.width g.height (1 ≤ f.level) c x y).getD q 0)

/-! ### FRONT_STRIPE -/

/-- Lines of the merged plane each produced line depends on, on each side (R115). -/
def frontReach (f : Frame) : Nat :=
  if f.geo.per = 1 then 1 else if f.geo.per = 2 then (if f.level = 0 then 2 else 4) else if f.level = 0 then 4 else 9

/-- Whether the lines a stripe needs have been received: always on the memory path (R115). -/
def State.linesIn (s : State) (f : Frame) (h i : Nat) : Bool :=
  f.entry.isSome || !(s.inline.active && s.inline.number == f.number)
    || (min (h * (i + 1) + frontReach f) f.height) * f.geo.exposures ≤ s.inline.pulses

/-- Whether the front may process stripe `i` of a frame now: stripes in order, a free buffer (R135), its lines in. -/
def State.frontMay (s : State) (k : SlotNo) (f : Frame) (body : Bytes) (i : Nat) : Bool :=
  let h := stripeHeight body
  s.nat 0x2700 1 == 0 && s.slotNat k 0x70 != 2 && !f.coasted && !f.status.getLsbD 7 && i == f.frontDone.length
    && i < stripeCount f.height h && f.frontHeld.length < frontBuffers body f.level && s.linesIn f h i

/-- List entries outside the geometry, counted once per commit or geometry change (R105). They are counted at the first stripe of the next
frame the front works on, and a commit of the image already in force counts no second time (DESIGN CHOICE, log entry 37). -/
def State.countOutside (s : State) (k : SlotNo) (f : Frame) (img : Bytes) : State :=
  if s.slots[k].defectsCounted then s
  else
    let n := (List.range (imgDefects img)).countP fun i =>
      f.geo.width ≤ imgDefect img i % 8192 || f.geo.height ≤ imgDefect img i / 8192
    let s := s.modSlot k fun sl => { sl with defectsCounted := true }
    if n = 0 then s else (s.bumpBy (slotIndex k) 0x2A n).raise 0x2011 { slot := k }

/-- The counts of defect correction over a stripe, and the codes raised once per frame (R103, R104, R113). The two counts of the last frame
start at 0 with a frame's first stripe and show the frame as far as it has come (DESIGN CHOICE, log entry 132). -/
def State.countFront (s : State) (k : SlotNo) (f : Frame) (img : Bytes) (h i : Nat) : State :=
  let done := (stripeLines h f i).flatMap fun y => (List.range f.geo.width).map fun x => (s.correctedAt k f img x y).2
  let bad := done.countP (· == .uncorrectable)
  let x := slotIndex k
  let s := if i = 0 then (s.setNum x 0x28 0).setNum x 0x29 0 else s
  let s := (s.bumpBy x 0x28 (done.countP (· == .static))).bumpBy x 0x29 (done.countP (· == .dynamic))
  let s := if bad = 0 then s else (s.bumpBy x 0x2A bad).raiseFrame k f.number 0x2010
  if 1 ≤ f.level && !colourOk img f.geo.per then s.raiseFrame k f.number 0x2012 else s

/-- The place of a frame's next stripe among those that wait for the front: in-line lines first, borrowing frames at the head of the
programme, then the slots in the order of the tick programme (R54, R114); slots the programme does not name come last, in ascending
number (DEDUCED, log entry 133). -/
def State.frontRank (s : State) (k : SlotNo) (f : Frame) : Nat :=
  if f.entry.isNone then 0
  else if f.borrow.isSome then 1
  else match s.tick.programme with
    | some p => 2 + p.layers.findIdx (·.slot == k) + (if p.layers.any (·.slot == k) then 0 else k.val)
    | none => 2 + k.val

/-- Whether a frame's next stripe has no other before it. -/
def State.frontTurn (s : State) (k : SlotNo) (f : Frame) : Bool :=
  allSlots.all fun j => s.slots[j].frames.all fun g =>
    s.frontRank k f ≤ s.frontRank j g || !s.frontMay j g (s.bodyOf g) g.frontDone.length

/-- The atoms a coded ring spares the reads of a stripe's lines (R388, R390). -/
def State.codedReads (s : State) (k : SlotNo) (f : Frame) (h i : Nat) : State :=
  match f.entry.bind (s.slots[k].entries[·]?) with
  | none => s
  | some e =>
    if e.codec = 0 then s
    else
      let t := becOfWidth e.sampleWidth
      let saved := (List.range e.planes).flatMap fun p => (stripeLines h f i).flatMap fun y =>
        ((List.range (ceilDiv e.width 64)).filter (e.cellValid p y)).map fun c =>
          t.saved (min 64 (e.width - 64 * c)) (e.codedCell p y c).1.length
      s.modMem fun m => { m with becSaved := m.becSaved + BitVec.ofNat 64 saved.sum }

/-- FRONT_STRIPE: a stripe of a frame processed (R96). -/
def State.frontStripe (s : State) (k : SlotNo) (n i : Nat) : State :=
  match s.slots[k].frameOf n with
  | none => s
  | some f =>
    match s.planOf f.plan with
    | none => s
    | some p =>
      if !s.frontMay k f p.body i || !s.frontTurn k f then s
      else
        let img := imageOf f.front
        let h := stripeHeight p.body
        let out := StripeData.pack i 0 (s.frontSamples k f img p.body i)
        let count := f.geo.width * f.geo.exposures * (stripeLines h f i).length
        let s := if i = 0 then s.countOutside k f img else s
        let s := (s.countFront k f img h i).codedReads k f h i
        let s := s.modFrame k n fun f => { f with frontDone := f.frontDone ++ [i], frontHeld := f.frontHeld ++ [out] }
        (s.modTick fun t => { t with frontSamples := t.frontSamples + count }).chargeSamples (s.slotOwner k) count

/-! ### Writes of the parameter image (R118, R119) -/

/-- Whether an image keeps the ranges and reserved bits of R118. -/
def imageOk (b : Bytes) : Bool :=
  let low n := n < 2 ^ 20
  let ds := (List.range (imgDefects b)).map (imgDefect b)
  b.length == 41736 && byteAt b 0 == 1 && fieldAt b 1 4 4 == 0 && byteAt b 2 ≤ 1 && byteAt b 3 == 0
    && !outside (byteAt b 4) 2 33 && !outside (byteAt b 5) 2 33 && !outside (fieldAt b 6 0 4) 3 10
    && !outside (fieldAt b 6 4 4) 3 10 && byteAt b 7 == 0 && low (leAt b 8 4) && low (leAt b 12 4)
    && imgDefects b ≤ 4096 && allZero (slice b 18 2) && [1, 2, 3].all (fun e => imgRatio b e != 0) && allZero (slice b 26 2)
    && [0, 1, 2].all (fun e => low (imgThr b e) && imgK b e ≤ 16) && byteAt b 43 == 0 && allZero (slice b 52 12)
    && allZero (slice b 192 64) && (List.range 4096).all (fun i => low (imgLutAt b i))
    && ds.all (· < 2 ^ 26) && (pairs ds).all fun d => d.1 < d.2

/-- An image with the defect entries beyond its count zero (R118). -/
def imageTrim (b : Bytes) : Bytes :=
  let n := 4 * min 4096 (imgDefects b)
  patch b (16640 + n) (zeros (16384 - n))

/-- An image with a block of R119 written over it. -/
def imageBlock (img : Bytes) (sub : Nat) (b : Bytes) : Bytes :=
  match sub with
  | 0x20 => b
  | 0x21 => patch img 0 b
  | 0x22 => patch img 64 b
  | 0x23 => patch img 256 b
  | 0x24 => patch (patch (patch img 16 (toLe 2 (b.length / 4))) 16640 (zeros 16384)) 16640 b
  | _ => patch img 33024 b

/-- The image a block write would leave in a slot's shadow. -/
def State.shadowWith (s : State) (k : SlotNo) (sub : Nat) (b : Bytes) : Bytes :=
  imageBlock (s.slots[k].frontShadow.getD (s.frontImage k)) sub b

/-- A write of the whole image or a block: checked as though the whole image had been written. -/
def frontAct (k : SlotNo) (sub : Nat) : Act :=
  guarded (fun _ v s => imageOk (s.shadowWith k sub v.bytes)) <| always fun _ v s =>
    s.modSlot k fun sl => { sl with frontShadow := some (imageTrim (s.shadowWith k sub v.bytes)) }

/-- A write of 0x2200:01, the default image. -/
def frontDefaultAct : Act :=
  guarded (fun _ v _ => imageOk v.bytes) <| always fun _ v s => s.setEntry 0x2200 1 (.raw (imageTrim v.bytes))

/-- LOAD_DEFAULTS' act: 0x2200:01 into the shadow. -/
def loadDefaultsAct (k : SlotNo) : Act := always fun _ _ s =>
  s.modSlot k fun sl => { sl with frontShadow := some (imageOf (s.entry 0x2200 1).bytes) }

/-! ### Commands -/

def execFrontStripe (at_ : Nat) (k : SlotNo) (n : BitVec 32) (i : Fin 512) (s : State) : Answer :=
  live s ((s.at_ at_).frontStripe k n.toNat i)

/-- FRONT_IMAGE_WRITE: block 0 is the whole image, 1 to 4 the entries 0x30ss:21 to 23 and 25. -/
def execFrontImageWrite (w : Write) (k : SlotNo) (block : Fin 5) (b : Bytes) (s : State) : Answer :=
  let sub := if block = 4 then 0x25 else 0x20 + block.val
  live s (s.odRun w (slotIndex k) sub b (frontAct k sub))

def execDefectListWrite (w : Write) (k : SlotNo) (b : Bytes) (s : State) : Answer :=
  live s (s.odRun w (slotIndex k) 0x24 b (frontAct k 0x24))

def execLoadDefaults (w : Write) (k : SlotNo) (b : Bytes) (s : State) : Answer :=
  live s (s.odRun w (slotIndex k) 0x26 b (loadDefaultsAct k))

end Sys2Proof.Machine
end

