-- ==== Sys2Proof/Machine/Avail.lean ====
section
/-! DEFINITION. Shedding and restoring streams, the depleted state, weight masks that return
(spec/19_faults_and_availability.md R514 to R518), and the isle clocks and the VDD_CORE setpoint
(spec/21_power_thermal_pins.md R550, R555, R556). -/

namespace Sys2Proof.Machine

/-! ### Load (R514, R515) -/

/-- Isles in a state. -/
def State.countPhase (s : State) (p : IslePhase) : Nat := allIsles.countP fun k => s.isles[k].health.phase == p

/-- Work per second of a slot at a level, as its plan records it (R514). -/
def State.slotLoad (s : State) (k : SlotNo) (level : Nat) : Nat :=
  if s.slotNat k 1 = 1 ∨ s.slotNat k 0x70 = 2 then ((s.slotPlan k).map fun p => p.load.getD level 0).getD 0 else 0

/-- The load of the streams at the levels their next frames would run. -/
def State.load (s : State) : Nat := (allSlots.map fun k => s.slotLoad k (s.nextLevel k)).sum

/-- Whether a load fits on the available isles: at most na × 229.376e12 / 12 (R514). -/
def State.fits (s : State) (load : Nat) : Bool := 12 * load ≤ s.countPhase .available * 229376000000000

/-- The shed priority of a slot (0x2300:50 + slot). -/
def State.shedPriority (s : State) (k : SlotNo) : Nat := s.nat 0x2300 (0x50 + k)

/-- Whether a slot is enabled. -/
def State.slotOn (s : State) (k : SlotNo) : Bool := s.slotNat k 1 == 1 || s.slotNat k 0x70 == 2

/-- The unshed slot with the highest value, ties to the higher slot number (R514). -/
def State.nextShed (s : State) : Option SlotNo :=
  allSlots.foldl (fun (b : Option SlotNo) k =>
    if !s.slotOn k || s.slots[k].shed then b
    else match b with
      | none => some k
      | some j => if s.shedPriority j ≤ s.shedPriority k then some k else some j) none

/-- The shed slot with the lowest value, ties to the lower slot number (R515). -/
def State.nextRestore (s : State) : Option SlotNo :=
  allSlots.foldl (fun (b : Option SlotNo) k =>
    if !s.slots[k].shed then b
    else match b with
      | none => some k
      | some j => if s.shedPriority k < s.shedPriority j then some k else some j) none

/-- Slots shed until the streams fit, at most `n` of them (R514). -/
def State.shedSlots (s : State) : Nat → State
  | 0 => s
  | n + 1 =>
    if s.fits s.load then s
    else match s.nextShed with
      | none => s
      | some k => ((s.modSlot k fun sl => { sl with shed := true }).raise 0x3F04 { slot := k }).shedSlots n

/-- At most one slot restored, where the load with it at its unshed level fits (R515). -/
def State.restoreSlot (s : State) : State :=
  match s.nextRestore with
  | none => s
  | some k =>
    let t := s.modSlot k fun sl => { sl with shed := false }
    if t.fits t.load then t.raise 0x3F05 { slot := k } else s

/-- The test of R514 and R515 at a boundary. -/
def State.shedTest (s : State) : State :=
  if s.avail.secondFault || s.avail.depleted then s.shedSlots 48 else s.restoreSlot

/-! ### Depletion (R513, R516) -/

/-- The depleted state and the second fault brought in line with the isles' states. -/
def State.settleAvail (s : State) : State :=
  let low := 5 ≤ s.countPhase .fenced
  let was := s.avail.depleted
  let s := { s with avail := { s.avail with depleted := low, secondFault := s.avail.secondFault && s.someFencing } }
  let s := if low && !was then s.raise 0x3F06 else if was && !low then s.raise 0x3F07 else s
  s.settleError

/-! ### Masks that return (R517, R518) -/

/-- Bit `k` returned to every counter whose layer may use isle `k` now. -/
def State.returnMask (s : State) (k : IsleNo) : State :=
  s.each allCounters fun s n =>
    match s.layerOf n with
    | some l =>
      if (s.layerMask l).getLsbD k then
        s.modCounter n fun t => { t with isleMask := t.isleMask ||| (1#16 <<< k.val) }
      else s
    | none => s

/-- The reloads that have arrived taken off an isle's list, and the isle's bits restored (R518 step 3). -/
def State.settleReloads (s : State) (k : IsleNo) : State :=
  if s.isles[k].health.reloads.any (·.2) then
    (s.modIsle k fun i =>
      { i with health := { i.health with reloads := i.health.reloads.filter fun r => !r.2 } }).returnMask k
  else s

/-! ### Clocks (R550, R555, R556) -/

/-- The clock the DVFS mode asks of the isles, in MHz (R555). -/
def State.modeClock (s : State) : Nat := if s.nat 0x2700 5 = 0 then 1250 else s.power.level

/-- The clock of an isle: the mode's, under the caps of the thermal loop, 600 MHz while THERM_N is asserted (R555, R556). -/
def State.isleClock (s : State) (k : IsleNo) : Nat :=
  let h := s.isles[k].health
  let cap (c : Nat) : Nat := if c = 0 then 1450 else 1400 - 50 * c
  if s.nat 0x2700 3 = 1 then 600 else max 600 (min s.modeClock (min (cap h.cut) (cap h.cutShared)))

/-- The VDD_CORE setpoint in mV of a clock: the fused curve, linear between its points, rounded up to 5 mV, at most 900
(R550). -/
def setpoint (mhz : Nat) : Nat :=
  let mv100 :=
    if mhz ≤ 1000 then 65000 + (mhz - 600) * 5000 / 400
    else if mhz ≤ 1250 then 70000 + (mhz - 1000) * 5000 / 250
    else 75000 + ceilDiv ((mhz - 1250) * 10000) 150
  min 900 (ceilDiv mv100 500 * 5)

/-- The isle clocks and the setpoint brought up to date: fenced isles have no clock and do not count (R511, R550). -/
def State.settleClocks (s : State) : State :=
  let s := s.each allIsles fun s k =>
    if s.isles[k].health.phase = .fenced then s else s.modIsle k fun i => { i with clock := s.isleClock k }
  let top := ((allIsles.filter fun k => s.isles[k].health.phase != .fenced).map fun k => s.isles[k].clock).foldl max 600
  let mv := setpoint top
  if s.power.vout = mv then s
  else (s.modPower fun p => { p with vout := mv }).emit (.pmbus s.fw.flash.regulator mv)

/-- The choice of the DVFS mode at a boundary (R555). -/
def State.dvfs (s : State) : State :=
  let p := s.power
  let top := s.nat 0x2700 6
  let calm := if p.borrowed then 0 else p.calm + 1
  let level :=
    if s.nat 0x2700 5 = 0 then 1250
    else if p.borrowed then min top (p.level + 50)
    else if 64 ≤ calm then max 1250 (p.level - 50)
    else min top p.level
  (s.modPower fun p => { p with level := level, calm := calm, borrowed := false }).settleClocks

end Sys2Proof.Machine
end

