-- ==== Sys2Proof/Machine/Tick.lean ====
section
/-! DEFINITION. The tick: boundaries, TICK_IN, TICK_OUT, stagger and slew, borrowing and the end of frames
(spec/02_tick.md R36 to R59). -/

namespace Sys2Proof.Machine

/-! ### Periods (R36, R37) -/

/-- The pull limit L. -/
def State.pullLimit (s : State) : Int := (s.period / 16 : Nat)

/-! ### TICK_IN (R51, R52) -/

/-- The sync source in force: by the role in a system, by 0x2100:03 while alone (R399). -/
def State.syncSource (s : State) : Nat := if s.role = 0 then s.nat 0x2100 3 else if s.role = 1 then 0 else 1

/-- The edge window of the boundary at `b`, in offset time, as the first one: it begins half a period before `b` (R51). -/
def State.windowFor (s : State) (b : Nat) : EdgeWindow :=
  let half : Int := (s.period / 2 : Nat)
  { boundary := b, start := b - half, stop := b + half }

/-- The sync state entered as acquiring, with its counts at 0. -/
def State.acquire (s : State) : State := s.modTick fun t => { t with sync := .acquiring, edges := 0, lost := 0 }

/-- The source in force shown in 0x2100:11. -/
def State.showSource (s : State) : State := s.setNum 0x2100 0x11 s.syncSource

/-- The sync state brought in line with the source in force: the first window of acquiring is that of the first boundary at or after
the change (R51, R52). With the internal source no pulse is missing, and 0x2100:07 shows 0 (DESIGN CHOICE, log entry 121). -/
def State.settleSync (s : State) : State :=
  let src := s.syncSource
  let s := s.showSource
  if src = 1 ∧ s.tick.sync = .internal then
    s.acquire.modTick fun t => { t with window := some (s.windowFor (if s.now ≤ t.boundary then t.boundary else t.next)) }
  else if src = 0 then s.modTick fun t => { t with sync := .internal, window := none, edges := 0, lost := 0, missing := 0 }
  else s

/-- The next boundary placed from the last, with a correction (R51). -/
def State.placeNext (s : State) (c : Int) : State :=
  s.modTick fun t => { t with correction := c, next := ((t.boundary + s.period : Nat) + c : Int).toNat }

/-- The correction of a phase error in the present state (R51). -/
def State.correctionFor (s : State) (e : Int) : Int :=
  if s.tick.sync = .locked then clampInt (-s.pullLimit) s.pullLimit e else 0

/-- The window closes: without an edge it is a missing pulse (R52). The window of the boundary after it opens. -/
def State.closeWindow (s : State) : State :=
  match s.tick.window with
  | none => s
  | some w =>
    let s := if w.found then s
      else
        let lost := s.tick.lost + 1
        let s := s.modTick fun t =>
          { t with missing := bumpSat8 t.missing, edges := 0, lost := lost, sync := if t.sync = .locked then .holdover else t.sync }
        if lost = 8 ∧ (s.tick.sync = .acquiring ∨ s.tick.sync = .holdover) then
          (s.modTick fun t => { t with sync := .freeRun }).raise 0x1004
        else s
    let b := if w.boundary = s.tick.boundary then s.tick.next else s.tick.boundary
    s.modTick fun t => { t with window := some { s.windowFor b with start := w.stop } }

/-- The real instant after which a window takes no edge. -/
def State.windowEnd (s : State) (w : EdgeWindow) : Int := w.stop - s.num 0x2100 4

/-- The window closed when its end lies before an instant. -/
def State.closePast (s : State) (t : Int) : State :=
  match s.tick.window with
  | some w => if s.windowEnd w < t then s.closeWindow else s
  | none => s

/-- An edge in a window: the sync state moves, the phase error is recorded, and the next boundary is corrected (R51, R52). -/
def State.edgeAt (s : State) (w : EdgeWindow) (t : Int) : State :=
  let e := t + s.num 0x2100 4 - w.boundary
  let n := s.tick.edges + 1
  let was := s.tick.sync
  let locks := was == .holdover || ((was == .acquiring || was == .freeRun) && 4 ≤ n)
  let s := s.modTick fun x =>
    { x with
      window := some { w with found := true }
      edges := n
      missing := 0
      lost := 0
      sync := if locks then .locked else x.sync }
  let s := (if locks && was == .freeRun then s.raise 0x1005 else s).setNum 0x2100 8 e
  if w.boundary = s.tick.boundary then s.placeNext (s.correctionFor e) else s

/-- A level change of TICK_IN. It counts when the level before it and the level after it each last at least 3 reference cycles; a
shorter pulse is a glitch (R51). The level before began at the last change. -/
def State.tickinEdge (s : State) (after : Nat) (falling : Bool) : State :=
  let before := s.now - s.tick.pinAt
  let s := s.modTick fun t => { t with pinAt := s.now }
  if s.tick.sync = .internal then s
  else if before < 3 ∨ after < 3 then s.raiseOnce 0x1003 0xFF
  else if falling != (s.nat 0x2100 5 == 1) then s
  else
    let s := s.closePast s.now
    match s.tick.window with
    | none => s
    | some w =>
      if (s.now : Int) + s.num 0x2100 4 ≤ w.start then s
      else if w.found then s.raiseOnce 0x1003 0xFF else s.edgeAt w s.now

/-! ### Borrowing and the end of a frame (R54, R55) -/

/-- The borrowing frame of a slot ends late at its deadline (R55). An in-line frame of which no line has come is not known to have a
size: it ends when its first line comes, or done when CAM_FV falls (R35; DEDUCED, log entry 122). -/
def State.lateAtDeadline (s : State) (k : SlotNo) : State :=
  match s.slots[k].borrower with
  | none => s
  | some f => if f.unopened then s else (s.raise 0x1002 { slot := k, detail := f.number }).finishFrame k f.number .late 0

/-- Whether a slot must run a formatter kind: 1 display, 2 coding, 3 machine vision (R157). -/
def State.formatterOn (s : State) (k : SlotNo) (kind : Nat) : Bool :=
  s.slotNat k (if kind = 1 then 0x40 else if kind = 2 then 0x43 else 0x45) != 0

/-- Stripes of a frame under its plan. -/
def frameStripes (img : PlanImage) (f : Frame) : Nat := stripeCount f.height (stripeHeight img.body)

/-- Whether the work of a frame is complete: its chain, its enabled formatters, its analysis, and for the upstream part of
a split stream the acknowledgement of its DATA (R55, R417). -/
def State.frameComplete (s : State) (k : SlotNo) (f : Frame) : Bool :=
  match s.planOf f.plan with
  | none => false
  | some img =>
    let n := frameStripes img f
    let flow := s.flow (s.slotNat k 0x71) (s.slotNat k 0x72)
    f.stages.all (fun r => r.completed.length == n)
      && ([1, 2, 3].all fun kind => !s.formatterOn k kind || (f.formatted.countP (·.1 == kind)) == n)
      && (s.slotNat k 0x49 == 0 || f.analysis == .done || f.analysis == .skipped)
      && (s.slotNat k 0x70 != 1 || (flow.unacked.isEmpty && flow.waiting.isEmpty))

/-- Analysis of a frame ends with its last post-processor write (R160); argmax that is unavailable is not waited for (R168). -/
def State.settleAnalysis (s : State) (k : SlotNo) (f : Frame) : Frame :=
  let an := ((s.slotAnalysis k).map (·.body)).getD []
  if f.analysis = .running ∧ (!anDetect an || f.detectDone) ∧ (!anSegment an || mapDone an f || f.status.getLsbD 23) then
    { f with analysis := .done }
  else f

/-- FRAME_DONE (R55). -/
def State.frameDone (s : State) (k : SlotNo) (n : Nat) : State :=
  let s := s.modFrame k n (s.settleAnalysis k)
  match s.slots[k].frameOf n with
  | some f => if s.frameComplete k f then s.finishFrame k n .done 0 else s
  | none => s

/-! ### The boundary (R41) -/

/-- Steps 2 of R41: a frame without an outcome becomes a borrowing frame; a frame of a coasted tick waits for its end
(R57). -/
def State.drainCheck (s : State) : State :=
  s.each allSlots fun s k =>
    s.each (s.slots[k].frames.filter fun f => f.borrow.isNone && !f.coasted) fun s f =>
      let s := s.modFrame k f.number fun f => { f with borrow := some (s.tick.boundary, s.deadline s.tick.boundary) }
      let s := (s.bump 0x2100 0x0D).bump (slotIndex k) 0x56
      (s.raise 0x1001 { slot := k, detail := f.number }).modPower fun p => { p with borrowed := true }

/-- The deadlines of the frames that began to borrow at this boundary, under the period it opens (R54). -/
def State.placeDeadlines (s : State) : State :=
  s.each allSlots fun s k =>
    s.modSlot k fun sl =>
      { sl with
        frames := sl.frames.map fun f =>
          match f.borrow with
          | some (b, _) => if b = s.tick.boundary then { f with borrow := some (b, s.deadline b) } else f
          | none => f }

/-- Step 4 of R41: RW-F values of entries outside the slot blocks. -/
def State.commitDevice (s : State) : State :=
  let mine := s.od.pendF.filter fun e => !isSlotIndex (e.1 / 256)
  let s := { s with od := { s.od with pendF := s.od.pendF.filter fun e => isSlotIndex (e.1 / 256) } }
  s.each mine fun s e => s.setEntry (e.1 / 256) (e.1 % 256) e.2

/-- A coasted boundary counted for the activation whose scheduler core has switched (R497, 0x2500:0E). -/
def State.countCoast (s : State) : State :=
  match s.fw.coasting with
  | none => s
  | some n => (s.setNum 0x2500 0x0E (min 16 (n + 1) : Nat)).modFw fun w => { w with coasting := some (n + 1) }

/-- Step 6 of R41: the programme is latched, or the boundary is coasted (R57). -/
def State.latch (s : State) (prog : Option Programme) : State :=
  match prog with
  | some p => (s.modTick fun t => { t with programme := some p, coasted := 0 }).modFw fun w => { w with coasting := none }
  | none =>
    let s := s.countCoast
    let n := s.tick.coasted + 1
    let s := s.modTick fun t => { t with coasted := n }
    if n ≤ 16 then s.raise 0x1007 else if n = 17 then s.raise 0x1008 else s

/-- Step 7 of R41: a sync reset is declared, for the causes of R59. -/
def State.syncReset (s : State) (pull period resync : Bool) : State :=
  let s := if pull then (s.bump 0x2100 0x10).raise 0x1006 else s
  let s := if period then s.raise 0x1009 else s
  let s := if resync then s.raise 0x100A else s
  if pull || period || resync then s.each allSlots fun s k => s.addReason k 2 else s

/-- Whether the boundary starts frame work (R57). -/
def State.startsWork (s : State) : Bool := s.tick.coasted < 17

/-- Step 5 of R41 and the start of the tick's frames: a memory-path slot takes its frame (R47, R48), or at a boundary that
starts no work its closed frames end late (R57). -/
def State.takeFrames (s : State) : State :=
  s.each (allSlots.filter (· != 0)) fun s k =>
    if !s.takesFrames k then s
    else if s.startsWork then (if s.slots[k].borrower.isSome then s else s.takeFrame k s.tick.boundary)
    else
      let t := takeable s.slots[k].entries s.tick.boundary
      let s := s.each t.2 fun s i => s.lateEntry k i true
      match t.1 with
      | some i => s.lateEntry k i false
      | none => s

/-- A fencing isle whose fence began in the tick that ends is reset if an op of it still runs (R510 step 6). -/
def State.resetFencing (s : State) : State :=
  s.each allIsles fun s k =>
    let h := s.isles[k].health
    let runs := s.isles[k].ctx.toList.any fun x => x.phase == .running || x.phase == .releasing || x.suspended
    if h.phase = .fencing ∧ h.fenceBegan + 1 = s.tick.number ∧ runs then
      (s.each allCounters fun s n => s.returnTiles k n).resetIsle k
    else s

/-- A result key loaded for an owner takes effect: its result streams start again at 0 (R532). -/
def State.switchResultKeys (s : State) : State :=
  s.each allOwners fun s o =>
    match s.owners[o].resultNext with
    | none => s
    | some key =>
      let s := s.modOwner o fun x => { x with result := some key, resultNext := none }
      s.each (allSlots.filter fun k => s.slotOwner k == o) fun s k =>
        s.modSlot k fun sl => { sl with result := { sl.result with seq := 0 }, stop := { sl.stop with lastSeq := none } }

/-- The charge of the tick that ends shown and cleared (R360). -/
def State.settleCharge (s : State) : State :=
  s.each allSlots fun s k =>
    (s.setNum (slotIndex k) 0x6F (s.slots[k].charge / 1000 : Nat)).modSlot k fun sl => { sl with charge := 0, steps := 0 }

/-- An isle whose ops were frozen for `d` reference cycles. -/
def IsleState.thawed (i : IsleState) (d : Nat) : IsleState :=
  { i with
    ctx := i.ctx.map fun (x : Context) => if x.phase = .running then { x with runSince := x.runSince + d } else x }

/-- Recovery from a shed at the boundary: the pauses clear, the ledger's counters resume, and the time ops were frozen does not
count as running (R508, R561). -/
def State.endRecovery (s : State) : State :=
  if s.nat 0x2700 1 = 2 then
    let d := s.now - s.power.shedAt.getD s.now
    let s := { s with isles := s.isles.map fun (i : IsleState) => i.thawed d }
    let s := ((s.setNum 0x2700 1 0).modLedger fun l => { l with frozen := false }).modPower fun p => { p with shedAt := none }
    s.each allEngines fun s e => s.each (engineChans e) fun s c => if (s.chan e c).shedPause then s.resumeChan e c else s
  else s

/-- The yield of a manager at its next boundary (R397). -/
def State.yieldIfDue (s : State) : State :=
  if s.sys.yieldDue then
    (((s.takeRole 4).setNum 0x2900 6 0xFF).modSys fun y => { y with yieldDue := false, joinSent := false, members := [] }).raise 0x7002
  else s

/-- The flows whose FLOW_RESET begins at this boundary (R414). -/
def State.startFlowResets (s : State) : State :=
  s.modSys fun y =>
    { y with flows := y.flows.map fun f => if f.resetDue && f.resetAt.isNone then { f with resetAt := some s.now } else f }

/-- Borrowing frames whose deadline has passed end late (R55). -/
def State.settleDeadlines (s : State) : State :=
  s.each allSlots fun s k =>
    match s.slots[k].borrower with
    | some f => if f.borrow.any fun b => b.2 < s.tick.next then (s.at_ ((f.borrow.getD (0, 0)).2)).lateAtDeadline k else s
    | none => s

/-- The load of the front in the tick that ends, in per mille of 80 samples per reference cycle (R114). -/
def State.frontLoad (s : State) : State :=
  (s.setNum 0x2200 3 (1000 * s.tick.frontSamples / (80 * max 1 (s.tick.next - s.tick.boundary)) : Nat)).modTick fun t =>
    { t with frontSamples := 0 }

/-- The window of this boundary, ending under the period the boundary opens. -/
def State.rewindow (s : State) : State :=
  match s.tick.window with
  | none => s
  | some w =>
    let w' : EdgeWindow := { w with stop := (s.windowFor w.boundary).stop }
    if w.boundary = s.tick.boundary then s.modTick fun t => { t with window := some w' } else s

/-- TICK_BOUNDARY: R41, with what the other chapters do at a boundary. -/
def State.boundary (s : State) (prog : Option Programme) : State :=
  let s := (s.closePast s.tick.next).settleDeadlines
  let s := s.at_ s.tick.next
  let s := s.each allSlots fun s k => s.settleRing k s.now
  let s := s.frontLoad
  let pull : Bool := decide (s.period / 64 < s.tick.correction.natAbs)
  let oldPeriod := s.period
  let resync := s.tick.resync || s.tick.load.isSome
  -- step 1
  let s := s.modTick fun t =>
    { t with number := t.load.getD ((t.number + 1) % 2 ^ 48), boundary := t.next, load := none, resync := false }
  let s := { s with ev := { s.ev with onceTick := [] } }
  let s := s.settleCharge
  let s := s.abandonWhere 1 fun _ _ => true
  let s := s.dvfs
  -- steps 2 and 3
  let s := s.drainCheck
  let s := s.epochIfDue
  let s := s.placeDeadlines
  let s := s.yieldIfDue.settleSync
  let s := s.rewindow
  let early := s.tick.window.any fun w => w.found && w.boundary == s.tick.boundary
  let s := s.placeNext (if early then s.correctionFor (s.num 0x2100 8) else 0)
  -- steps 4, 6 and 7
  let s := s.commitDevice
  let s := s.latch prog
  let s := s.syncReset pull (oldPeriod != s.period) resync
  -- the boundary's part in other rules
  let s := s.switchResultKeys
  let s := s.each allIsles fun s k => s.settleReloads k
  let s := s.resetFencing.setWaitLimits
  let s := s.settleAvail.shedTest
  let s := s.endRecovery
  let s := s.startFlowResets.modSys fun y => { y with counted := false, expired := false }
  -- steps 5 and 8
  let s := s.takeFrames
  let s := { s with isles := s.isles.map fun (i : IsleState) => { i with slotOpen := false } }
  s.settleError

/-! ### Stagger and slew (R43 to R45, R560) -/

/-- STAGGER_SLOT_OPEN: isle `k` may issue array work from 4 µs × k after the boundary, unless it is fenced or the device
sheds (R43, R511, R564). -/
def State.openStagger (s : State) (k : IsleNo) : State :=
  let s := s.at_ (s.tick.boundary + 400 * k.val)
  let h := s.isles[k].health.phase
  if s.isles[k].slotOpen ∨ h = .fenced ∨ h = .testing ∨ s.nat 0x2700 1 ≠ 0 then s
  else s.modIsle k fun i => { i with slotOpen := true, slotOpenAt := s.now }

/-- The eighths of array issue an isle's running ops supply; none while the device sheds. -/
def State.supplied (s : State) (k : IsleNo) : Nat :=
  if s.nat 0x2700 1 ≠ 0 then 0
  else
    let run := s.isles[k].ctx.toList.filter fun x => x.phase == .running || x.phase == .releasing
    (List.range 8).countP fun a => run.any fun x => (x.units.map (·.val)).contains a

/-- The isles whose limiter steps are granted in a window, of those that ask to rise or to fall (R45, R560). -/
def State.grants (s : State) : List IsleNo :=
  let up (k : IsleNo) : Bool := s.isles[k].activity < s.supplied k
  let down (k : IsleNo) : Bool := s.supplied k < s.isles[k].activity
  if s.nat 0x2700 1 ≠ 0 then allIsles.filter down
  else
    let first (k : IsleNo) : Bool := s.isles[k].slotOpen && s.now < s.isles[k].slotOpenAt + 400 && (up k || down k)
    let order := allIsles.filter first ++ (allIsles.filter fun k => !first k && down k)
      ++ (allIsles.filter fun k => !first k && up k)
    order.take 4

/-- SLEW_GOVERNOR_WINDOW: a window of 500 ns ends; granted isles move by one eighth; an isle held above its supply runs
null product cycles (R44, R45). The spec does not say where the windows start: they follow one another every 50 reference cycles from
reset release, unaligned to boundaries and slots (DESIGN CHOICE, log entry 123). -/
def State.slewWindow (s : State) : State :=
  let s := s.at_ (s.tick.windowAt + 50)
  let gs := s.grants
  let s := s.each allIsles fun s k =>
    if s.supplied k < s.isles[k].activity then
      let (d, s) := s.draw
      s.modCnt k fun c => { c with nullCycles := c.nullCycles + BitVec.ofNat 64 (Config.nullCycles d) }
    else s
  let s := s.each gs fun s k =>
    s.modIsle k fun i => { i with activity := if i.activity < s.supplied k then i.activity + 1 else i.activity - 1 }
  s.modTick fun t => { t with windowAt := s.now, granted := gs.length }

/-! ### TICK_OUT (R53) -/

/-- TICK_OUT_PULSE: the pulse runs from the boundary plus the offset, for the pulse width; under a negative offset the boundary is the
next one. -/
def State.tickOut (s : State) : State :=
  let q := s.num 0x2100 9
  let b := if q < 0 then s.tick.next else s.tick.boundary
  let rise := ((b : Int) + q).toNat
  (s.at_ rise).modTick fun t => { t with pulse := some (rise, rise + s.nat 0x2100 0x0A) }

/-- Whether the TICK_OUT pin is high: driven only while 0x2100:0B is TRUE. -/
def State.tickOutPin (s : State) : Bool :=
  s.nat 0x2100 0x0B != 0 && s.tick.pulse.any fun p => p.1 ≤ s.now && s.now < p.2

/-! ### Commands -/

/-- RESYNC_COMMAND's act (R52, R59). -/
def resyncAct : Act := always fun _ _ s =>
  let s := if s.tick.sync = .internal then s else s.acquire
  s.modTick fun t => { t with resync := true }

def execTickBoundary (prog : Option Programme) (s : State) : Answer := live s (s.boundary prog).pump

def execStaggerSlotOpen (k : IsleNo) (s : State) : Answer := live s (s.openStagger k)

def execSlewGovernorWindow (s : State) : Answer := live s s.slewWindow

def execTickOutPulse (s : State) : Answer := live s s.tickOut

def execTickinEdge (at_ after : Nat) (falling : Bool) (s : State) : Answer := live s ((s.at_ at_).tickinEdge after falling)

def execTickinWindowClose (s : State) : Answer :=
  live s (match s.tick.window with
    | some w => (s.at_ (s.windowEnd w).toNat).closeWindow
    | none => s)

def execResyncCommand (w : Write) (b : Bytes) (s : State) : Answer := live s (s.odRun w 0x2100 0x0C b resyncAct)

def execBorrowDeadline (k : SlotNo) (s : State) : Answer :=
  live s (match s.slots[k].borrower with
    | some f => ((s.at_ ((f.borrow.getD (0, 0)).2)).lateAtDeadline k).pump
    | none => s)

def execFrameDone (k : SlotNo) (n : BitVec 32) (at_ : Nat) (s : State) : Answer := live s ((s.at_ at_).frameDone k n.toNat).pump

end Sys2Proof.Machine
end

