-- ==== Sys2Proof/Machine/Stages.lean ====
section
/-! DEFINITION. The stage chain: stripes that start and complete, buffers that are released, cut stripes that leave, plan
entries, forced warming (spec/05_neural_stages.md R124 to R135, R142, spec/06_outputs_and_analysis.md R150, R159,
spec/15_system.md R416). -/

namespace Sys2Proof.Machine

/-! ### Consumers of a stripe (R130, R150) -/

/-- The place in its level of the stage that carries tap L, or tap P. -/
def tapStage (body : Bytes) (level : Nat) (p : Bool) : Option Nat :=
  ((List.range (levelStages body level).length).find? fun j =>
    (levelStages body level)[j]?.any fun d => if p then stTapP d.2 else stTapL d.2)

/-- Whether a formatter kind reads tap P (R150): display and coding do; machine vision reads tap L for linear RGB, and the
tap 0x30ss:46 selects for the tensor. -/
def State.readsTapP (s : State) (k : SlotNo) (kind : Nat) : Bool :=
  kind != 3 || (s.slotNat k 0x45 == 2 && s.slotNat k 0x46 == 1)

/-- The stage a formatter kind reads. -/
def State.tapOf (s : State) (k : SlotNo) (f : Frame) (kind : Nat) : Option Nat :=
  tapStage (s.bodyOf f) f.level (s.readsTapP k kind)

/-- The enabled formatters that read a stage. -/
def State.tapReaders (s : State) (k : SlotNo) (f : Frame) (j : Nat) : List Nat :=
  [1, 2, 3].filter fun kind => s.formatterOn k kind && s.tapOf k f kind == some j

/-- Whether stripe `i` of a producer is still needed by the stage after it, `j` (R130). -/
def Frame.nextNeeds (f : Frame) (body : Bytes) (j i : Nat) : Bool :=
  match (levelStages body f.level)[j]?, f.stages[j]? with
  | some d, some r => !r.completed.contains (i + stripesAbove d.2 (stripeHeight body))
  | _, _ => false

/-- Stripes that no consumer needs any more released from every buffer of a frame. -/
def State.release (s : State) (k : SlotNo) (n : Nat) : State :=
  match s.slots[k].frameOf n with
  | none => s
  | some f =>
    let body := s.bodyOf f
    let h := stripeHeight body
    -- chroma of a last stripe of one line reads the line above (R155)
    let below (kind i : Nat) : Bool := kind == 2 && f.height % h == 1 && h * (i + 1) + 1 == f.height && !f.formatted.contains (kind, i + 1)
    let keep (j : Nat) (x : StripeData) : Bool :=
      f.nextNeeds body (j + 1) x.stripe
        || (s.tapReaders k f j).any fun kind => !f.formatted.contains (kind, x.stripe) || below kind x.stripe
    s.modFrame k n fun f =>
      { f with
        frontHeld := f.frontHeld.filter fun x => f.nextNeeds body 0 x.stripe
        stages := (List.range f.stages.length).zip f.stages |>.map fun p =>
          { p.2 with held := p.2.held.filter (keep p.1) } }

/-! ### Starting and completing a stripe (R130) -/

/-- Whether stage `j` may start stripe `i` of a frame: in order, its producer far enough, an output buffer free. -/
def State.stageMay (s : State) (f : Frame) (body : Bytes) (j i : Nat) : Bool :=
  let h := stripeHeight body
  let count := stripeCount f.height h
  match (levelStages body f.level)[j]?, f.stages[j]? with
  | some d, some r =>
    let need := min (i + stripesBelow d.2 h) (count - 1)
    let made : List Nat := if j = 0 then f.frontDone else ((f.stages[j - 1]?).map (·.completed)).getD []
    s.nat 0x2700 1 == 0 && !f.coasted && i == r.started.length && i < count && made.contains need
      && r.held.length + (r.started.length - r.completed.length) < stBuffers d.2
  | _, _ => false

/-- A frame's stage with its progress changed. -/
def Frame.modStage (f : Frame) (j : Nat) (g : StageRun → StageRun) : Frame :=
  { f with stages := (List.range f.stages.length).zip f.stages |>.map fun p => if p.1 = j then g p.2 else p.2 }

/-- Whether a borrowing frame could start a stripe of a stage: its work stands at the head of the tick programme (R54). -/
def State.headWaits (s : State) : Bool :=
  allSlots.any fun k => s.slots[k].frames.any fun g =>
    g.borrow.isSome && (List.range g.stages.length).any fun j =>
      s.stageMay g (s.bodyOf g) j ((g.stages[j]?).elim 0 (·.started.length))

/-- STAGE_STRIPE_START: a stripe of a frame of the new tick starts after those a borrowing frame can start. -/
def State.startStripe (s : State) (k : SlotNo) (n j i : Nat) : State :=
  match s.slots[k].frameOf n with
  | none => s
  | some f =>
    if s.stageMay f (s.bodyOf f) j i && (f.borrow.isSome || !s.headWaits) then s.modFrame k n (·.modStage j fun r => { r with started := r.started ++ [i] }) else s

/-! ### What a stage computes (R127, R132, R133, R138, R143) -/

/-- The line of a frame of `n` lines that is supplied for line `y`; none for a line of zeros (R132). -/
def padLine (mode per n : Nat) (y : Int) : Option Nat :=
  if 0 ≤ y ∧ y < n then some y.toNat
  else if mode = 0 then some (if y < 0 then 0 else n - 1)
  else if mode = 1 then some (if y < 0 then min y.natAbs (n - 1) else (max (2 * ((n : Int) - 1) - y) 0).toNat)
  else if mode = 2 then some (if y < 0 then (y % (per : Int)).toNat else n - 1 - (((n : Int) - 1 - y) % (per : Int)).toNat)
  else none

/-- Lines of zeros, one for each channel. -/
def zeroLine (channels width : Nat) : List (List Int) := List.replicate channels (List.replicate width 0)

/-- Line `y` of a tensor of which these stripes of `h` lines are held, channel by channel. -/
def heldLine (held : List StripeData) (h y : Nat) : List (List Int) :=
  match held.find? (·.stripe == y / h) with
  | some d => (List.range d.channels).map fun c => d.line c (y % h)
  | none => []

/-- The stripes of a stage's producer that are held: the front's, or those of the stage before it. -/
def Frame.produced (f : Frame) (j : Nat) : List StripeData :=
  if j = 0 then f.frontHeld else ((f.stages[j - 1]?).map (·.held)).getD []

/-- The input lines `lo` to `hi` of stage `j` with descriptor `d`, those outside the frame supplied under its pad_mode. -/
def Frame.inputLines (f : Frame) (body d : Bytes) (j : Nat) (lo hi : Int) : List (List (List Int)) :=
  (List.range (hi + 1 - lo).toNat).map fun i =>
    match padLine (stPad d) (byteAt body 8) f.height (lo + i) with
    | some y => heldLine (f.produced j) (stripeHeight body) y
    | none => zeroLine (stInChannels d) f.width

/-- Columns and lines of a stage's state, and its bytes an element (R138). -/
def stateWidth (d : Bytes) (f : Frame) : Nat := ceilDiv f.width (2 ^ stDecimation d)
def stateHeight (d : Bytes) (f : Frame) : Nat := ceilDiv f.height (2 ^ stDecimation d)

/-- The address of a line of a state plane in a half (R138). -/
def stateLineAt (d : Bytes) (f : Frame) (one : Bool) (c y : Nat) : Nat :=
  stStateBase d + (if one then stStateHalf d else 0) + 4096
    + (c * stateHeight d f + y) * roundUp (stateWidth d f * tensorBytes (stStateType d)) 64

/-- A line of a stage's state as external memory holds it: uncompressed elements of state_type (R138). -/
def State.stateLine (s : State) (k : SlotNo) (f : Frame) (d : Bytes) (one : Bool) (y : Nat) : List (List Int) :=
  let n := tensorBytes (stStateType d)
  (List.range (stStateChannels d)).map fun c =>
    (chunks n (s.extRead (s.slotOwner k) (stateLineAt d f one c y) (stateWidth d f * n))).map (tensorElem (stStateType d))

/-- What a recurrent stage reads as its state for input lines `lo` to `hi`: the lines of its read half they meet, and in a warming frame zero
elements or its own current input (R140, R143). A stage that is not recurrent reads none. -/
def State.stateLines (s : State) (k : SlotNo) (f : Frame) (desc : Nat) (body d : Bytes) (j : Nat) (lo hi : Int) :
    List (List (List Int)) :=
  let q : Int := (2 ^ stDecimation d : Nat)
  if !stRecurrent d then []
  else if f.warming && stSubstitute d then f.inputLines body d j lo hi
  else
    (List.range (hi / q + 1 - lo / q).toNat).map fun i =>
      match (f.halves.find? (·.desc == desc)).bind (·.read),
          padLine (stPad d) (byteAt body 8) (stateHeight d f) (lo / q + i) with
      | some one, some y => if f.warming then zeroLine (stStateChannels d) (stateWidth d f) else s.stateLine k f d one y
      | _, _ => zeroLine (stStateChannels d) (stateWidth d f)

/-- What names the weights a stage of a frame runs under: those of its image, or the deployed set of its adaptation (R343). -/
def Frame.weights (f : Frame) (img : PlanImage) (desc : Nat) : List Nat :=
  match (f.sets.find? fun x => adStage (img.adapt.getD x.desc []) == desc) with
  | some x => [x.desc, x.set, x.generation, x.steps]
  | none => []

/-- A value narrowed to a tensor type. -/
def narrow (type : Nat) (v : Int) : Int :=
  if type = 0 then clampInt 0 65535 v else if type = 1 then satS 16 v else satS 8 v

/-- Stripe `i` of a stage's output: each element is the reference computation on the input lines and the state of its line, so that
neither the stripe height nor the order of tiles enters (R127, R133). What the layers compute is Linry's programme: a free function of
Config (DESIGN CHOICE, log entry 119). -/
def State.stageOutput (s : State) (k : SlotNo) (f : Frame) (img : PlanImage) (desc : Nat) (d : Bytes) (j i : Nat) :
    List (List (List Int)) :=
  let body := img.body
  (List.range (stOutChannels d)).map fun c =>
    (stripeLines (stripeHeight body) f i).map fun (y : Nat) =>
      let lo : Int := (y : Int) - stHaloTop d
      let hi : Int := (y : Int) + stHaloBottom d
      let win := f.inputLines body d j lo hi
      let st := s.stateLines k f desc body d j lo hi
      (List.range f.width).map fun x =>
        narrow (stOutType d) (Config.stageElem ⟨img.hash, desc, f.weights img desc, win, st, y, c, x⟩)

/-- The lines of state a stripe of output covers. -/
def stateStripe (d body : Bytes) (f : Frame) (i : Nat) : List Nat :=
  let h := stripeHeight body
  let q := 2 ^ stDecimation d
  (List.range (stateHeight d f)).filter fun y => h * i ≤ y * q && y * q < h * (i + 1)

/-- A line of new state of a recurrent stage. -/
def State.newState (s : State) (k : SlotNo) (f : Frame) (img : PlanImage) (desc : Nat) (d : Bytes) (j c y : Nat) : List Int :=
  let q := 2 ^ stDecimation d
  let lo : Int := ((y * q : Nat) : Int) - stHaloTop d
  let hi : Int := ((y * q + q - 1 : Nat) : Int) + stHaloBottom d
  let win := f.inputLines img.body d j lo hi
  let st := s.stateLines k f desc img.body d j lo hi
  (List.range (stateWidth d f)).map fun x =>
    narrow (stStateType d) (Config.stateElem ⟨img.hash, desc, f.weights img desc, win, st, y, c, x⟩)

/-- The new state of a stripe written into the frame's write half, uncompressed (R138, R141). -/
def State.writeState (s : State) (k : SlotNo) (f : Frame) (img : PlanImage) (desc : Nat) (d : Bytes) (j i : Nat) : State :=
  match f.halves.find? (·.desc == desc) with
  | none => s
  | some h =>
    let lines := (List.range (stStateChannels d)).flatMap fun c =>
      (stateStripe d img.body f i).map fun y =>
        (stateLineAt d f h.write c y, (s.newState k f img desc d j c y).flatMap fun v =>
          toLe (tensorBytes (stStateType d)) (unsigned (8 * tensorBytes (stStateType d)) v))
    s.each lines fun s l => s.extWrite (s.slotOwner k) l.1 l.2

/-! ### The cut (R416) -/

/-- The elements of a stripe in the layout of R128, line ends included. -/
def stripeElements (d : StripeData) : List Int := (chunks (tensorBytes d.type) d.bytes).map (tensorElem d.type)

/-- Coded blocks gathered into frames of at most 8,192 bytes; each frame's bytes and how many blocks it holds. -/
def gatherBlocks : List Bytes → Bytes → Nat → List (Bytes × Nat)
  | [], acc, n => if n = 0 then [] else [(acc, n)]
  | b :: bs, acc, n =>
    if n ≠ 0 ∧ 8192 < acc.length + b.length then (acc, n) :: gatherBlocks bs b 1 else gatherBlocks bs (acc ++ b) (n + 1)

/-- The segments of a stripe: offset before coding, and data. -/
def cutSegments (codec : Nat) (d : StripeData) : List (Nat × Bytes) :=
  if codec = 0 then
    (chunks 8192 d.bytes).foldl (fun (p : List (Nat × Bytes) × Nat) c => (p.1 ++ [(p.2, c)], p.2 + c.length)) ([], 0)
      |>.1
  else
    let blocks := (chunks 64 (stripeElements d)).map (becEncode (tensorBec d.type) codec)
    (gatherBlocks blocks [] 0).foldl (fun (p : List (Nat × Bytes) × Nat) c =>
      (p.1 ++ [(p.2, c.1)], p.2 + c.2 * 64 * tensorBytes d.type)) ([], 0) |>.1

/-- A completed cut stripe of the upstream part sent as DATA frames. -/
def State.sendCut (s : State) (k : SlotNo) (f : Frame) (last : Bool) (d : StripeData) : State :=
  let segs := cutSegments (s.slotNat k 0x74) d
  let s := s.each ((List.range segs.length).zip segs) fun s g =>
    let flags := (if g.1 + 1 = segs.length then 1 else 0) + if last then 2 else 0
    s.enqueue (s.slotNat k 0x71) (s.slotNat k 0x72) ⟨1, s.dataHead k f d.stripe g.1 flags g.2.1 ++ g.2.2⟩
  s.pump

/-- Addresses and lengths of the state lines that a stripe of a recurrent stage reads from its read half; none in a warming frame (R138,
R140, R143). -/
def stateReads (f : Frame) (desc : Nat) (body d : Bytes) (i : Nat) : List (Nat × Nat) :=
  match (f.halves.find? (·.desc == desc)).bind (·.read) with
  | none => []
  | some one =>
    if !stRecurrent d || f.warming then []
    else
      let q : Int := (2 ^ stDecimation d : Nat)
      let ls := stripeLines (stripeHeight body) f i
      let lo : Int := ((ls.headD 0 : Nat) : Int) - stHaloTop d
      let hi : Int := ((ls.getLastD 0 : Nat) : Int) + stHaloBottom d
      let ys := (List.range (hi / q + 1 - lo / q).toNat).filterMap fun n =>
        padLine (stPad d) (byteAt body 8) (stateHeight d f) (lo / q + n)
      ys.dedup.flatMap fun y => (List.range (stStateChannels d)).map fun c =>
        (stateLineAt d f one c y, stateWidth d f * tensorBytes (stStateType d))

/-- The atoms of those lines read at the memory controller: whether one was uncorrectable (R145, R370). -/
def State.readState (s : State) (rs : List (Nat × Nat)) : Bool × State :=
  let r := s.touchAtoms (rs.flatMap fun a => atomsOf a.1 a.2)
  (r.1.isSome, r.2)

/-- STAGE_STRIPE_COMPLETE: the stripe the stage has computed is held for its consumers, its new state stands in the write half; its
producer's stripe is released; a cut stripe is sent. A state read that meets an uncorrectable atom ends the frame (R145). -/
def State.completeStripe (s : State) (k : SlotNo) (n j i : Nat) : State :=
  match s.slots[k].frameOf n with
  | none => s
  | some f =>
    match s.planOf f.plan with
    | none => s
    | some img =>
      let body := img.body
      match (levelStages body f.level)[j]?, f.stages[j]? with
      | some d, some r =>
        if s.nat 0x2700 1 ≠ 0 ∨ !r.started.contains i ∨ r.completed.contains i then s
        else
          let out := StripeData.pack i (stOutType d.2) (s.stageOutput k f img d.1 d.2 j i)
          let (bad, s) := s.readState (stateReads f d.1 body d.2 i)
          if bad then ((s.raise 0x3E07 { slot := k, detail := n }).addReason k 7).finishFrame k n .failed 0x3E07 else
          let s := s.writeState k f img d.1 d.2 j i
          let s := s.modFrame k n (·.modStage j fun r => { r with completed := r.completed ++ [i], held := r.held ++ [out] })
          let s := s.release k n
          let cut := s.slotNat k 0x70 == 1 && j + 1 == (levelStages body f.level).length
          if cut then s.sendCut k f (i + 1 == stripeCount f.height (stripeHeight body)) out else s
      | _, _ => s

/-! ### Plan entries (R124, R148, R159, R342) -/

/-- A refused write of a plan entry: its code is raised (R24). -/
def State.refusePlan (s : State) (k : SlotNo) (code : Nat) : Nat × State := (0x06090030, s.raise code { slot := k })

/-- PLAN_WRITE's act. -/
def planAct (k : SlotNo) : Act := fun _ v s =>
  let store := s.storeEntry (slotIndex k) 0x30 v
  if v.int = 0 then (0, store)
  else match s.planOf v.int.toNat with
    | none => s.refusePlan k 0x3E03
    | some img =>
      match (s.planCheck k img.body).or (s.adaptCheck k img) with
      | some c => s.refusePlan k c
      | none => (0, store)

/-- ANALYSIS_PLAN_WRITE's act: on 0x30ss:49 or, for the source, on 0x30ss:4A. -/
def analysisAct (k : SlotNo) (sub : Nat) : Act := fun _ v s =>
  let i := slotIndex k
  let store := s.storeEntry i sub v
  let plan := if sub = 0x49 then v.int.toNat else (s.coming i 0x49).toNat
  let src : SlotNo := Fin.ofNat 48 (if sub = 0x4A then v.int.toNat else (s.coming i 0x4A).toNat)
  if plan = 0 then (0, store)
  else match s.analysisOf plan with
    | none => s.refusePlan k 0x3E03
    | some img =>
      match s.analysisCheck k src img.body with
      | some c => s.refusePlan k c
      | none => (0, store)

/-- A plan image that has been loaded (DESIGN CHOICE, log entry 14). -/
def State.loadPlan (s : State) (img : Option PlanImage) : State :=
  match img with
  | none => s
  | some p => { s with plans := addPlan s.plans p }

/-- FORCE_WARMING's act (R142 reason 8). -/
def forceWarmingAct (k : SlotNo) : Act := always fun _ _ s => s.addReason k 8

/-! ### Commands -/

def execPlanWrite (w : Write) (k : SlotNo) (b : Bytes) (img : Option PlanImage) (s : State) : Answer :=
  live s ((s.loadPlan img).odRun w (slotIndex k) 0x30 b (planAct k))

/-- ANALYSIS_PLAN_WRITE: of the plan, or of the source slot. -/
def execAnalysisPlanWrite (w : Write) (k : SlotNo) (source : Bool) (b : Bytes) (img : Option PlanImage) (s : State) : Answer :=
  let sub := if source then 0x4A else 0x49
  live s ((s.loadPlan img).odRun w (slotIndex k) sub b (analysisAct k sub))

def execEpochApply (s : State) : Answer := live s s.epochIfDue

def execStageStripeStart (at_ : Nat) (k : SlotNo) (n : BitVec 32) (j : Fin 16) (i : Fin 512) (s : State) : Answer :=
  live s ((s.at_ at_).startStripe k n.toNat j i)

def execStageStripeComplete (at_ : Nat) (k : SlotNo) (n : BitVec 32) (j : Fin 16) (i : Fin 512) (us : Upsets)
    (s : State) : Answer :=
  live s (((s.at_ at_).applyMemUpsets us.mem).completeStripe k n.toNat j i)

def execForceWarming (w : Write) (k : SlotNo) (b : Bytes) (s : State) : Answer :=
  live s (s.odRun w (slotIndex k) 0x3B b (forceWarmingAct k))

end Sys2Proof.Machine
end

