-- ==== Sys2Proof/Machine/Capture.lean ====
section
/-! DEFINITION. Sample capture (spec/13_adaptation.md R347). -/

namespace Sys2Proof.Machine

/-- The stripe a capture takes of a frame `f` that began in tick `t` (R347). -/
def captureStripe (t slot stage f stripes : Nat) : Nat := srBits t (256 * slot + stage) f % stripes

/-- The lines of a tensor as a capture lays them out: line by line, channel by channel, each in whole words. -/
def captureBytes (type : Nat) (ls : List (List (List Int))) : Bytes := ls.flatMap fun l => l.flatMap (lineBytes type)

/-- What a stage reads for stripe `i` of a frame: its input lines with their halos, and for a recurrent stage the lines of its read half they
meet (R347). -/
def State.captured (s : State) (k : SlotNo) (f : Frame) (body d : Bytes) (desc j i : Nat) : Bytes :=
  let h := stripeHeight body
  let lo : Int := ((h * i : Nat) : Int) - stHaloTop d
  let hi : Int := ((min f.height (h * (i + 1)) : Nat) : Int) - 1 + stHaloBottom d
  captureBytes (stInType d) (f.inputLines body d j lo hi) ++ captureBytes (stStateType d) (s.stateLines k f desc body d j lo hi)

/-- The stripes a stripe of a stage reads. -/
def stripesRead (d : Bytes) (h count i : Nat) : List Nat :=
  (List.range count).filter fun x => i ≤ x + stripesAbove d h && x ≤ i + stripesBelow d h

/-- The entry of the sample ring a new pair takes: the next one that no pair holds, else the next (R347, R348). -/
def AdaptStage.freeEntry (a : AdaptStage) (n : Nat) : Nat :=
  (((List.range n).map fun i => (a.nextEntry + i) % n).find? fun e => !(a.pairs.any (·.entry == e))).getD (a.nextEntry % n)

/-- A stage with a captured frame noted: an even frame opens a pair in the next entry, the frame after it completes the pair. -/
def AdaptStage.noted (a : AdaptStage) (n stripe entries : Nat) : AdaptStage :=
  if n % 2 = 0 then
    let e := a.freeEntry entries
    { a with
      pairs := { frame := n, stripe := stripe, entry := e, first := true, second := false } :: a.pairs.filter (·.entry != e)
      nextEntry := (e + 1) % entries }
  else { a with pairs := a.pairs.map fun p => if p.frame + 1 = n ∧ p.first then { p with second := true } else p }

/-- SAMPLE_CAPTURE: one stripe of an adaptable stage's input, of an even frame or of the frame after it, moves to the sample ring (R347),
charged to the stream's owner (R360). The two frames of an entry lie in its halves (DESIGN CHOICE, log entry 142). While the stripe's lines
are not held there is nothing to capture. -/
def State.capture (s : State) (k : SlotNo) (n d : Nat) : State :=
  match s.slots[k].frameOf n, s.slotPlan k, s.slots[k].adapt.find? (·.desc == d) with
  | some f, some img, some a =>
    let b := s.adaptDesc k d
    let st := stageDesc img.body (adStage b)
    let h := stripeHeight img.body
    let count := stripeCount f.height h
    let pair := a.pairs.find? fun p => p.frame + 1 == n && p.first
    let stripe := if n % 2 = 0 then captureStripe f.tick k (adStage b) n count else (pair.map (·.stripe)).getD 0
    match (levelList img.body 0).findIdx? (· == adStage b) with
    | none => s
    | some j =>
      let held := (stripesRead st h count stripe).all fun x => (f.produced j).any (·.stripe == x)
      if f.level ≠ 0 ∨ s.slotNat k 0x60 = 0 ∨ b = [] ∨ !held ∨ (n % 2 ≠ 0 ∧ pair = none) then s
      else
        let a := a.noted n stripe (adSamples b)
        let e := ((a.pairs.find? fun p => p.frame == n || p.frame + 1 == n).map (·.entry)).getD 0
        let bytes := (s.captured k f img.body st (adStage b) j stripe).take (adSampleBytes b / 2)
        let s := s.extWrite (s.slotOwner k) (adSampleBase b + e * adSampleBytes b + n % 2 * (adSampleBytes b / 2)) bytes
        (s.charge (s.slotOwner k) 0 bytes.length).modSlot k (·.modAdapt d fun _ => a)
  | _, _, _ => s

/-- SAMPLE_CAPTURE. -/
def execSampleCapture (k : SlotNo) (n : BitVec 32) (d : Fin 2) (s : State) : Answer := live s (s.capture k n.toNat d)

end Sys2Proof.Machine
end

