-- ==== Sys2Proof/Machine/Digest.lean ====
section
/-! DEFINITION. Canonical serialisations and digests, readiness for an epoch, and the DIGEST report (spec/15_system.md R420,
R424 to R428). -/

namespace Sys2Proof.Machine

/-! ### Serialisation (R425, R426) -/

/-- The CiA 1301 index of a data type (R460). -/
def OdType.cia : OdType → Nat
  | .bool => 1 | .i8 => 2 | .i16 => 3 | .i32 => 4 | .u8 => 5 | .u16 => 6 | .u32 => 7 | .str => 9
  | .octets _ _ _ => 0xA | .domain _ _ _ => 0xF | .u48 => 0x19 | .u64 => 0x1B

/-- Whether an entry is of the system scope (R426). -/
def systemScope (i sub : Nat) : Bool := (i == 0x2100 && sub == 1) || (i == 0x2900 && (sub == 3 || sub == 4)) || i == 0x2901

/-- Whether an entry has access RW-E. -/
def isRwe (i sub : Nat) : Bool := (odFind i sub).any (·.acc == .rwe)

/-- The record of an entry. -/
def configRecord (i sub : Nat) (v : OdVal) : Bytes :=
  match odFind i sub with
  | none => []
  | some r =>
    let b := r.type.encode v
    toBe 2 i ++ [byte sub] ++ toBe 2 r.type.cia ++ toBe 4 b.length ++ b

/-- The canonical serialisation of a scope: its entries that differ from their defaults, then the hashes. -/
def serialise (device : Bool) (vals : List (Nat × OdVal)) (hashes : List Bytes) : Bytes :=
  let mine := vals.filter fun e => isRwe (e.1 / 256) (e.1 % 256) && systemScope (e.1 / 256) (e.1 % 256) != device
  let hs := if device then hashes else []
  ascii "SVCD" ++ [1, if device then 1 else 0, 0, 0] ++ mine.flatMap (fun e => configRecord (e.1 / 256) (e.1 % 256) e.2)
    ++ [0xFF, 0xFF, 0xFF] ++ toBe 2 hs.length ++ hs.flatten

/-- A hash put into an ascending list without repeats. -/
def insertHash (h : Bytes) : List Bytes → List Bytes
  | [] => [h]
  | x :: xs => if beNat h < beNat x then h :: x :: xs else if h = x then x :: xs else x :: insertHash h xs

/-- The plan identifiers that plan entries name, of the chain and of analysis. -/
def namedPlans (vals : List (Nat × OdVal)) : List (Nat × Bool) :=
  vals.filterMap fun e =>
    if isSlotIndex (e.1 / 256) && (e.1 % 256 == 0x30 || e.1 % 256 == 0x49) && e.2.int != 0 then
      some (e.2.int.toNat, e.1 % 256 == 0x49)
    else none

/-- The image a plan entry names. -/
def State.namedImage (s : State) (p : Nat × Bool) : Option PlanImage := if p.2 then s.analysisOf p.1 else s.planOf p.1

/-- The hashes of the images that plan entries name, unique and ascending. -/
def State.hashesOf (s : State) (vals : List (Nat × OdVal)) : List Bytes :=
  (namedPlans vals).foldl (fun hs p => match s.namedImage p with
    | some img => insertHash img.hash hs
    | none => hs) []

/-- Values of the store brought over by pending ones. -/
def overlay (vals pend : List (Nat × OdVal)) : List (Nat × OdVal) :=
  pend.foldl (fun m e => kvSet (odDefault (e.1 / 256) (e.1 % 256)) e.1 e.2 m) vals

/-- The device's values as they will be after the epoch (DEDUCED, log entry 41). -/
def State.comingVals (s : State) : List (Nat × OdVal) := overlay s.od.vals s.od.pendE

/-- The serialisations in force and pending. -/
def State.configOf (s : State) (device : Bool) : Bytes := serialise device s.od.vals (s.hashesOf s.od.vals)
def State.pendingOf (s : State) (device : Bool) : Bytes := serialise device s.comingVals (s.hashesOf s.comingVals)

/-- The configuration images (0x2900:0D, 0x2900:0E). -/
def State.configImage (s : State) : Bytes := s.configOf false ++ s.configOf true
def State.pendingImage (s : State) : Bytes := s.pendingOf false ++ s.pendingOf true

/-- The records of a serialisation from an offset: values, hashes and what follows; none where it does not parse. -/
def parseRecords : Nat → Bytes → List (Nat × OdVal) → Option (List (Nat × OdVal) × List Bytes × Bytes)
  | 0, _, _ => none
  | n + 1, b, acc =>
    if slice b 0 3 = [0xFF, 0xFF, 0xFF] then
      let k := beAt b 3 2
      some (acc, chunks 32 (slice b 5 (32 * k)), b.drop (5 + 32 * k))
    else
      let i := beAt b 0 2
      let sub := byteAt b 2
      let len := beAt b 5 4
      if b.length < 9 + len then none
      else match (odFind i sub).bind fun r => r.type.decode (slice b 9 len) with
        | none => none
        | some v => parseRecords n (b.drop (9 + len)) (kvPut (odKey i sub) v acc)

/-- The values and hashes of a configuration image. -/
def parseImage (b : Bytes) : Option (List (Nat × OdVal) × List Bytes) :=
  if slice b 0 5 ≠ ascii "SVCD" ++ [1] then none
  else match parseRecords (b.length + 1) (b.drop 8) [] with
    | none => none
    | some (vs, _, rest) =>
      if slice rest 0 5 ≠ ascii "SVCD" ++ [1] then none
      else (parseRecords (rest.length + 1) (rest.drop 8) vs).map fun r => (r.1, r.2.1)

/-! ### The manager's mirror of a member -/

/-- The hashes of a mirror: of the images its plan entries name where the manager holds them all, else those the member's
image carried. -/
def State.mirrorHashes (s : State) (m : MemberState) (vals : List (Nat × OdVal)) : List Bytes :=
  if (namedPlans vals).all fun p => (s.namedImage p).isSome then s.hashesOf vals else m.hashes

/-- The device digest of a mirror, in force or pending. -/
def State.mirrorDigest (s : State) (m : MemberState) (pending : Bool) : Bytes :=
  let vals := if pending then overlay m.mirror m.pending else m.mirror
  sha256 (serialise true vals (s.mirrorHashes m vals))

/-! ### Readiness (R424, R500) -/

/-- Whether a pending value passes the checks of its chapter. The rule of 0x30ss:F0 is one of the write alone (R477). -/
def State.pendingPasses (s : State) (i sub : Nat) (v : OdVal) : Bool :=
  match odFind i sub with
  | none => false
  | some r =>
    (sub == 0xF0 || s.entryRule ⟨.relay, true, s.now⟩ r i sub v) &&
      (!(isSlotIndex i && v.int != 0) ||
        (let k : SlotNo := Fin.ofNat 48 (i - 0x3000)
         if sub = 0x30 then
           (s.planOf v.int.toNat).any fun img => ((s.planCheck k img.body).or (s.adaptCheck k img)).isNone
         else if sub = 0x49 then
           (s.analysisOf v.int.toNat).any fun img =>
             (s.analysisCheck k (Fin.ofNat 48 (s.coming i 0x4A).toNat) img.body).isNone
         else true))

/-- Whether the device is ready for the scheduled epoch. -/
def State.ready (s : State) : Bool :=
  s.fw.activation.isNone && (s.role ≤ 1 || s.sys.namedEpoch.isSome)
    && s.od.pendE.all fun e => s.pendingPasses (e.1 / 256) (e.1 % 256) e.2

/-! ### The report (R420, R427) -/

/-- Slots 1 to 47 that no stream uses, in force or pending. -/
def State.freeSlots (s : State) : Nat :=
  (allSlots.filter fun k => k != 0 && s.coming (slotIndex k) 1 == 0 && s.coming (slotIndex k) 0x70 == 0).length

/-- The design load that the unfenced isles can still take, in per mille of a device's design load (R32, R420). -/
def State.freeLoad (s : State) : Nat :=
  let isles := 16 - s.countPhase .fenced
  1000 * (isles * 229376000000000 / 12 - s.load) / 229376000000000

/-- What the device reports for its tick. -/
def State.report (s : State) : DigestReport :=
  let scheduled := s.epochTick.isSome
  let dev := sha256 (s.configOf true)
  let sys := sha256 (s.configOf false)
  { tick := s.tick.number
    epoch := s.nat 0x2900 9
    depleted := s.avail.depleted
    ready := scheduled && s.ready
    freeSlots := s.freeSlots
    freeLoad := s.freeLoad
    device := dev.take 8
    system := sys.take 8
    pendDevice := if scheduled then (sha256 (s.pendingOf true)).take 8 else zeros 8
    pendSystem := if scheduled then (sha256 (s.pendingOf false)).take 8 else zeros 8
    full := if s.tick.number % 64 = 0 then dev ++ sys else [] }

/-- The DIGEST payload of a report. -/
def DigestReport.bytes (r : DigestReport) : Bytes :=
  toBe 6 r.tick ++ toBe 4 r.epoch ++ [byte ((if r.depleted then 1 else 0) + if r.ready then 8 else 0), byte r.freeSlots]
    ++ toBe 2 r.freeLoad ++ r.device ++ r.system ++ r.pendDevice ++ r.pendSystem ++ zeros 2 ++ r.full

/-- The report of a DIGEST payload. -/
def reportOf (b : Bytes) : DigestReport :=
  { tick := beAt b 0 6
    epoch := beAt b 6 4
    depleted := fieldAt b 10 0 3 == 1
    ready := bitOf (byteAt b 10) 3
    freeSlots := byteAt b 11
    freeLoad := beAt b 12 2
    device := slice b 14 8
    system := slice b 22 8
    pendDevice := slice b 30 8
    pendSystem := slice b 38 8
    full := b.drop 48 }

end Sys2Proof.Machine
end

