-- ==== Sys2Proof/Machine/RelayCore.lean ====
section
/-! DEFINITION. The manager's side of relayed access: requests to members and what it keeps of them (spec/15_system.md R404,
R418, R424, spec/17_object_dictionary.md R467, R476). The bytes of a USDO request and of its answer are those of CiA 1301,
taken from outside the spec (PRESUMED, log entry 42). -/

namespace Sys2Proof.Machine

/-! ### USDO messages -/

/-- The head of a USDO message: destination, command, session, subindex, index, data type, size. -/
def usdoHead (cmd i sub type n : Nat) : Bytes := [0, byte cmd, 0, byte sub] ++ toLe 2 i ++ [byte type, byte n]

/-- A write request, and a read request. -/
def usdoWrite (i sub : Nat) (b : Bytes) : Bytes :=
  usdoHead 0x01 i sub (((odFind i sub).map (·.type.cia)).getD 0) b.length ++ b
def usdoRead (i sub : Nat) : Bytes := usdoHead 0x11 i sub 0 0

/-- The answers: a write done, a value read, an abort. -/
def usdoWritten (i sub : Nat) : Bytes := usdoHead 0x21 i sub 0 0
def usdoValue (i sub type : Nat) (b : Bytes) : Bytes := usdoHead 0x31 i sub type b.length ++ b
def usdoAbort (i sub code : Nat) : Bytes := [0, 0x7F, 0, byte sub] ++ toLe 2 i ++ toLe 4 code

def usdoCmd (b : Bytes) : Nat := byteAt b 1
def usdoSub (b : Bytes) : Nat := byteAt b 3
def usdoIndex (b : Bytes) : Nat := leAt b 4 2
def usdoData (b : Bytes) : Bytes := b.drop 8

/-! ### Relay payloads (R418) -/

/-- The payloads that carry a request or an answer: each names the transaction, the node and the length of the whole. -/
def relayFrames (transaction node : Nat) (b : Bytes) : List Bytes :=
  let head := toBe 2 transaction ++ [byte node, 0] ++ toBe 4 b.length
  if b = [] then [head] else (chunks 8192 b).map (head ++ ·)

/-- A request sent to a member. -/
def State.relayTo (s : State) (node : Nat) (request : Bytes) : State :=
  let t := s.sys.nextTransaction
  let s := s.modSys fun y =>
    { y with
      nextTransaction := (t + 1) % 2 ^ 16
      relays := y.relays ++ [{ transaction := t, member := node, sentAt := s.now, request := request }] }
  s.each (relayFrames t node request) fun s b => s.cwReliableSend 7 node 1 b

/-- What the manager keeps of a node, and the state with it changed. -/
def State.member (s : State) (node : Nat) : Option MemberState := s.sys.members.find? (·.node == node)
def State.modMember (s : State) (node : Nat) (f : MemberState → MemberState) : State :=
  s.modSys fun y => { y with members := y.members.map fun m => if m.node = node then f m else m }

/-- The member's relay requester is agreed on the manager's own version (R467). -/
def State.negotiate (s : State) (node : Nat) : State := s.relayTo node (usdoWrite 0x2001 1 [0, 1])

/-- A node's configuration image is read into the mirror, in force and pending (R404, R424). -/
def State.readImage (s : State) (node : Nat) : State :=
  (s.relayTo node (usdoRead 0x2900 0x0D)).relayTo node (usdoRead 0x2900 0x0E)

/-- Domains of a node claimed, and the token of the claim read (R476). -/
def State.claimOn (s : State) (node mask : Nat) : State :=
  (s.relayTo node (usdoWrite 0x2010 1 [byte mask])).relayTo node (usdoRead 0x2010 2)

/-! ### Membership (R400, R404) -/

/-- The membership mask, and the state with it set. -/
def State.membership (s : State) : Nat := leNat (s.entry 0x2900 8).bytes
def State.setMembership (s : State) (m : Nat) : State := s.setEntry 0x2900 8 (.raw (toLe 6 m))

/-- Whether a node is a member. -/
def State.isMember (s : State) (node : Nat) : Bool := s.membership.testBit node

/-- A node added to a mask, and taken from it. -/
def withBit (m i : Nat) : Nat := if m.testBit i then m else m + 2 ^ i
def withoutBit (m i : Nat) : Nat := if m.testBit i then m - 2 ^ i else m

/-- The nodes whose addresses the table holds, but the device itself. -/
def State.otherNodes (s : State) : List Nat := (List.range 48).filter fun k => k != s.sys.node && !allZero (s.nodeAddr k)

/-- The standby: the first node of the order, other than the manager, that is a member (R396). -/
def State.standbyNode (s : State) : Nat :=
  (((s.entry 0x2900 3).bytes.map (·.toNat)).find? fun k => k != s.sys.node && s.isMember k).getD 0xFF

/-- The mismatch bit of a node (0x2900:0F). -/
def State.mismatched (s : State) (node : Nat) : Bool := (leNat (s.entry 0x2900 0x0F).bytes).testBit node
def State.setMismatch (s : State) (node : Nat) (on : Bool) : State :=
  let m := leNat (s.entry 0x2900 0x0F).bytes
  s.setEntry 0x2900 0x0F (.raw (toLe 6 (if on then withBit m node else withoutBit m node)))

/-! ### Answers (R404, R418, R420, R525) -/

/-- An answer joined: the whole of it once its last part has come. -/
def State.joinAnswer (s : State) (transaction : Nat) (p : Bytes) : Option (RelayOpen × Bytes) × State :=
  match s.sys.relays.find? (·.transaction == transaction) with
  | none => (none, s)
  | some r =>
    let got := r.got ++ p.drop 8
    if got.length < beAt p 4 4 then
      (none, s.modSys fun y =>
        { y with relays := y.relays.map fun x => if x.transaction = transaction then { x with got := got } else x })
    else (some (r, got), s.modSys fun y => { y with relays := y.relays.filter (·.transaction != transaction) })

/-- The image of a node taken into the mirror; a node that is joining becomes a member (R404). -/
def State.takeImage (s : State) (node : Nat) (b : Bytes) : State :=
  match s.member node, parseImage b with
  | some m, some (vs, hs) =>
    let s := s.modMember node fun m => { m with mirror := vs, hashes := hs, known := true }
    if m.joined then s
    else
      let s := s.modMember node fun m => { m with joined := true, since := s.tick.number }
      (s.setMembership (withBit s.membership node)).raise 0x7009 { detail := node }
  | _, _ => s

/-- The pending image of a node taken into the mirror: what differs from the values in force. -/
def State.takePending (s : State) (node : Nat) (b : Bytes) : State :=
  match parseImage b with
  | none => s
  | some (vs, _) =>
    s.modMember node fun m =>
      let now := vs.filter fun e => !m.mirror.contains e
      let back := m.mirror.filter fun e => !(vs.any (·.1 == e.1))
      { m with pending := back.foldl (fun p e => kvPut e.1 (odDefault (e.1 / 256) (e.1 % 256)) p) now }

/-- The records of a member's log copied: those not seen before, of the forward threshold and above; a jump in their
numbers raises 0x800B (R525). -/
def State.copyEvents (s : State) (node : Nat) (b : Bytes) : State :=
  match s.member node with
  | none => s
  | some m =>
    let recs := chunks 24 b
    let after (r : Bytes) : Bool := laterFrame (leAt r 0 4) m.events
    let new := recs.filter after
    let jump := match new with
      | r :: _ => leAt r 0 4 != (m.events + 1) % 2 ^ 32
      | [] => false
    let s := if jump then s.raise 0x800B { detail := node } else s
    let last := (new.getLast?.map fun r => leAt r 0 4).getD m.events
    let s := s.modMember node fun m => { m with events := last }
    let keep := new.filter fun r => s.nat 0x2600 3 ≤ fieldAt r 6 0 2
    s.each keep fun s r =>
      s.log ⟨0, leAt r 4 2, fieldAt r 6 0 2, true, byteAt r 7, byteAt r 8, byteAt r 9, leAt r 10 6, leAt r 16 4⟩

/-- What the manager makes of a member's answer to its request. -/
def State.takeAnswer (s : State) (r : RelayOpen) (b : Bytes) : State :=
  let i := usdoIndex r.request
  let sub := usdoSub r.request
  let data := usdoData b
  if usdoCmd b = 0x7F then
    if isSlotIndex i ∨ (i = 0x2300 ∧ 0x50 ≤ sub) then s.modMember r.member fun m => { m with failed := true } else s
  else if usdoCmd r.request = 0x01 then
    if isRwe i sub then
      match (odFind i sub).bind fun x => x.type.decode (usdoData r.request) with
      | some v => s.modMember r.member fun m => { m with pending := kvPut (odKey i sub) v m.pending }
      | none => s
    else s
  else if i = 0x2900 ∧ sub = 0x0D then s.takeImage r.member data
  else if i = 0x2900 ∧ sub = 0x0E then s.takePending r.member data
  else if i = 0x2010 ∧ sub = 2 then
    s.modMember r.member fun m => { m with claim := if leNat data = 0 then none else some (leNat data), renewAt := s.now }
  else if i = 0x2600 ∧ sub = 1 then
    if (s.member r.member).any fun m => m.events != leNat data then s.relayTo r.member (usdoRead 0x2600 5) else s
  else if i = 0x2600 ∧ sub = 5 then s.copyEvents r.member data
  else s

end Sys2Proof.Machine
end

