-- ==== Sys2Proof/Machine/Placement.lean ====
section
/-! DEFINITION. Placement of the stream table's records on members (spec/15_system.md R415, R419 to R421,
spec/17_object_dictionary.md R462, R476). -/

namespace Sys2Proof.Machine

/-! ### Records (R419) -/

def recPriority (r : Bytes) : Nat := byteAt r 1
def recPinned (r : Bytes) : Bool := bitOf (byteAt r 2) 4
def recPreferred (r : Bytes) : Nat := byteAt r 3

/-- The values a record's image gives, at index 0x3000. -/
def recImage (r : Bytes) : List (Nat × OdVal) :=
  ((parseRecords (r.length + 1) (r.drop 16 ++ [0xFF, 0xFF, 0xFF, 0, 0]) []).map (·.1)).getD []

/-- Whether a record is one of slot 0: its image holds an entry that only slot 0 has (DEDUCED, log entry 43). -/
def recSlot0 (r : Bytes) : Bool := (recImage r).any fun e => (odFind (e.1 / 256) (e.1 % 256)).any (·.slot0 == some true)

/-- Whether record `a` is placed before record `b` (R420). -/
def recBefore (a b : Bytes) : Bool :=
  if recPriority a != recPriority b then recPriority a < recPriority b
  else if recKey a != recKey b then recKey a < recKey b
  else recPart a ≤ recPart b

/-- The records in the order of placement. -/
def recOrder (rs : List Bytes) : List Bytes :=
  rs.foldl (fun (acc : List Bytes) r => acc.takeWhile (fun x => recBefore x r) ++ r :: acc.dropWhile (fun x => recBefore x r)) []

/-! ### Candidates -/

/-- A node as placement sees it. -/
structure Room where
  node : Nat
  depleted : Bool
  /-- Load it can still take, in per mille. -/
  load : Nat
  /-- Slots that no record holds yet. -/
  slots : List Nat
  deriving DecidableEq, Repr

/-- Whether a slot of a configuration is used by a stream that no placement put there. -/
def slotUsed (vals : List (Nat × OdVal)) (k : Nat) : Bool :=
  let v (sub : Nat) : Int := (kvGet (odDefault (0x3000 + k) sub) (odKey (0x3000 + k) sub) vals).int
  v 1 != 0 || v 0x70 != 0

/-- The load of the streams the table has placed on a node. -/
def State.placedLoad (s : State) (rs : List Bytes) (node : Nat) : Nat :=
  ((s.sys.placements.filter (·.node == node)).map fun p =>
    ((rs.find? fun r => recKey r == p.stream && recPart r == p.part).map recLoad).getD 0).sum

/-- A node's room: what it reports, and what the streams placed on it take. -/
def State.roomOf (s : State) (rs : List Bytes) (node : Nat) (depleted : Bool) (free : Nat) (vals : List (Nat × OdVal)) : Room :=
  let mine (k : Nat) : Bool := s.sys.placements.any fun p => p.node == node && p.slot == k
  ⟨node, depleted, free + s.placedLoad rs node, (List.range 48).filter fun k => mine k || !slotUsed vals k⟩

/-- The rooms of the manager and of every member, ascending. -/
def State.rooms (s : State) (rs : List Bytes) : List Room :=
  (List.range 48).filterMap fun k =>
    if k = s.sys.node then some (s.roomOf rs k s.avail.depleted s.freeLoad s.comingVals)
    else match s.member k with
      | some m =>
        match m.reports with
        | r :: _ => if m.joined then some (s.roomOf rs k r.depleted r.freeLoad (overlay m.mirror m.pending)) else none
        | [] => none
      | none => none

/-- A place for a record on a room: its slot there. -/
def Room.slotFor (x : Room) (s : State) (r : Bytes) : Option Nat :=
  match s.sys.placements.find? fun p => p.node == x.node && p.stream == recKey r && p.part == recPart r with
  | some p => if x.slots.contains p.slot then some p.slot else x.slots.find? (· != 0)
  | none => if recSlot0 r then x.slots.find? (· == 0) else x.slots.find? (· != 0)

/-- The rooms a record may go to, in the order it tries them (R420 items 1 to 4); `apart` is the node of its other part. -/
def State.choicesFor (s : State) (rooms : List Room) (r : Bytes) (apart : Option Nat) : List Room :=
  let ok := rooms.filter fun x => some x.node != apart
  if recPinned r then ok.filter (·.node == recPreferred r)
  else
    let fit := ok.filter fun x => !x.depleted && (recEligible r).testBit x.node && recLoad r ≤ x.load
    let here := (s.sys.placements.find? fun p => p.stream == recKey r && p.part == recPart r).map (·.node)
    fit.filter (fun x => some x.node == here) ++ fit.filter (·.node == recPreferred r) ++ fit

/-- One record placed: the placement, if any, and the rooms left. -/
def State.placeOne (s : State) (rooms : List Room) (r : Bytes) (apart : Option Nat) : Option Placement × List Room :=
  match (s.choicesFor rooms r apart).find? fun x => (x.slotFor s r).isSome with
  | none => (none, rooms)
  | some x =>
    let slot := (x.slotFor s r).getD 0
    (some ⟨recKey r, recPart r, x.node, slot⟩,
      rooms.map fun y =>
        if y.node = x.node then { y with load := y.load - recLoad r, slots := y.slots.filter (· != slot) } else y)

/-- Every record placed; both parts of a split stream, or neither. -/
def State.placeAll (s : State) : List Bytes → List Room → List Placement → List Placement
  | [], _, done => done
  | r :: rs, rooms, done =>
    let apart := (done.find? (·.stream == recKey r)).map (·.node)
    match s.placeOne rooms r apart with
    | (some p, rooms) => s.placeAll rs rooms (done ++ [p])
    | (none, rooms) => s.placeAll rs rooms done

/-- The placements but those of a split stream of which a part found no place. -/
def wholePairs (rs : List Bytes) (ps : List Placement) : List Placement :=
  ps.filter fun p => p.part == 0 || (rs.filter fun r => recKey r == p.stream).all fun r =>
    ps.any fun q => q.stream == p.stream && q.part == recPart r

/-! ### The writes -/

/-- The lowest channel free between two nodes, of those the channels given so far use (R415). -/
def freeChannel (used : List (Nat × Nat × Nat)) (a b : Nat) : Nat :=
  let mine := used.filterMap fun u => if u.1 = min a b ∧ u.2.1 = max a b then some u.2.2 else none
  ((List.range 254).map (· + 2)).find? (fun c => !mine.contains c) |>.getD 2

/-- The channels of the split streams, in the order of the placements. -/
def channelsOf (ps : List Placement) : List (Nat × Nat) :=
  (ps.foldl (fun (acc : List (Nat × Nat) × List (Nat × Nat × Nat)) p =>
    if p.part != 1 then acc
    else match ps.find? fun q => q.stream == p.stream && q.part == 2 with
      | none => acc
      | some q =>
        let c := freeChannel acc.2 p.node q.node
        ((p.stream, c) :: acc.1, (min p.node q.node, max p.node q.node, c) :: acc.2)) ([], [])).1

/-- The values a placed record gives its slot: its image, its owner, and its split part (R415, R420). -/
def slotValues (ps : List Placement) (r : Bytes) (p : Placement) : List (Nat × OdVal) :=
  let base := (recImage r).filterMap fun e => if e.1 / 256 = 0x3000 then some (e.1 % 256, e.2) else none
  let peer := ps.find? fun q => q.stream == p.stream && q.part != p.part
  let split := match peer with
    | some q =>
      [(0x70, OdVal.num (p.part : Nat)), (0x71, .num (q.node : Nat)), (0x72, .num ((kvGet 2 p.stream (channelsOf ps) : Nat) : Int))]
    | none => []
  [(0xF0, OdVal.num ((recOwner r : Nat) : Int))] ++ base.filter (fun e => e.1 != 1 && e.1 != 0xF0) ++ split
    ++ base.filter (·.1 == 1)

/-- The writes that bring a slot from its pending values to the wanted ones: owner first, enable last. -/
def slotWrites (vals : List (Nat × OdVal)) (k : Nat) (want : List (Nat × OdVal)) : List (Nat × Nat × OdVal) :=
  let i := 0x3000 + k
  let now (sub : Nat) : OdVal := kvGet (odDefault i sub) (odKey i sub) vals
  let gone := vals.filterMap fun e =>
    if e.1 / 256 = i ∧ isRwe i (e.1 % 256) ∧ !(want.any (·.1 == e.1 % 256)) then some (i, e.1 % 256, odDefault i (e.1 % 256))
    else none
  gone ++ want.filterMap fun e => if now e.1 = e.2 then none else some (i, e.1, e.2)

/-- The writes that disable a slot. -/
def slotOff (k : Nat) : List (Nat × Nat × OdVal) :=
  [(0x3000 + k, 1, .num 0), (0x3000 + k, 0x70, .num 0), (0x3000 + k, 0x72, .num 0)]

/-- Writes made on a node: by the firmware on the manager itself, through the relay on a member, under a claim of domain 7
and, for shed priorities, of domain 2 (R462, R476). -/
def State.writeOn (s : State) (node : Nat) (ws : List (Nat × Nat × OdVal)) (shed : List (Nat × Nat × OdVal)) : State :=
  if node = s.sys.node then s.each (ws ++ shed) fun s w => s.storeEntry w.1 w.2.1 w.2.2
  else
    let send (s : State) (w : Nat × Nat × OdVal) : State :=
      s.relayTo node (usdoWrite w.1 w.2.1 (((odFind w.1 w.2.1).map fun r => r.type.encode w.2.2).getD []))
    let s := if ws = [] ∧ shed = [] then s else s.claimOn node 0x80
    let s := s.each ws send
    if shed = [] then s else (s.claimOn node 0x04).each shed send

/-- The pending values of a node as the manager knows them. -/
def State.nodeVals (s : State) (node : Nat) : List (Nat × OdVal) :=
  if node = s.sys.node then s.comingVals else ((s.member node).map fun m => overlay m.mirror m.pending).getD []

/-- The writes of a node under new placements. -/
def State.nodeWrites (s : State) (rs : List Bytes) (ps : List Placement) (node : Nat) :
    List (Nat × Nat × OdVal) × List (Nat × Nat × OdVal) :=
  let vals := s.nodeVals node
  let here := ps.filter (·.node == node)
  let old := s.sys.placements.filter fun p => p.node == node && !(here.any (·.slot == p.slot))
  let rec_ (p : Placement) : Bytes := (rs.find? fun r => recKey r == p.stream && recPart r == p.part).getD []
  (old.flatMap (fun p => slotOff p.slot) ++ here.flatMap fun p => slotWrites vals p.slot (slotValues ps (rec_ p) p),
    here.filterMap fun p =>
      let sub := 0x50 + p.slot
      let v : OdVal := .num ((recPriority (rec_ p) : Nat) : Int)
      if kvGet (odDefault 0x2300 sub) (odKey 0x2300 sub) vals = v then none else some (0x2300, sub, v))

/-- STREAM_PLACEMENT: every record placed, the changes written, moves and unplaced streams raised (R420). -/
def State.place (s : State) : State :=
  let e := s.nat 0x2900 0x0A
  if 1 < s.role ∨ e = 0 ∨ e ≤ s.tick.number + 2 ∨ s.sys.placedFor = some e then s
  else
    let rs := recOrder ((streamTable (s.comingRaw 0x2903 1)).getD [])
    let ps := wholePairs rs (s.placeAll rs (s.rooms rs) [])
    let old := s.sys.placements
    let lost := rs.filter fun r => !(ps.any fun p => p.stream == recKey r && p.part == recPart r)
    let moved := ps.filter fun p => old.any fun q => q.stream == p.stream && q.part == p.part && q.node != p.node
    let nodes := (List.range 48).filter fun k => (ps ++ old).any (·.node == k)
    let s := s.modSys fun y => { y with members := y.members.map fun m => { m with failed := false } }
    let s := s.each nodes fun s k =>
      let w := s.nodeWrites rs ps k
      s.writeOn k w.1 w.2
    let s := s.modSys fun y => { y with placements := ps, placedFor := some e }
    let s := s.each (moved.map (·.stream)).dedup fun s _ => s.raise 0x7011
    s.each (lost.map recKey).dedup fun s k => s.raise 0x7010 { detail := k }

end Sys2Proof.Machine
end

