-- ==== Sys2Proof/Machine/System.lean ====
section
/-! DEFINITION. The forty-eight device system: roles, beacons, membership, takeover, digests and epochs (spec/15_system.md R393
to R406, R420 to R428). -/

namespace Sys2Proof.Machine

/-! ### Receiving a frame of a type -/

/-- A frame of a type received: none for a frame of another type, on a device that is alone, and where acceptance fails. -/
def State.cwTake (s : State) (type : Nat) (p : EthNo) (src b : Bytes) : Option CwFrame × State :=
  if s.role = 0 ∨ (byteAt b 1 ≠ type ∧ 1 ≤ byteAt b 1 ∧ byteAt b 1 ≤ 9) then (none, s)
  else s.cwReceive p src b

/-! ### Becoming manager (R395, R399, R406) -/

/-- The manager's role taken under a term one above the highest seen. -/
def State.becomeManager (s : State) : State :=
  let s := (s.takeRole 1).setNum 0x2900 6 (s.sys.node : Int)
  let s := s.setNum 0x2900 7 ((s.nat 0x2900 7 + 1) % 2 ^ 32 : Nat)
  let s := s.setMembership (withBit s.membership s.sys.node)
  (s.modSys fun y => { y with listenUntil := none, joinSent := false, uncounted := 0, heldRaised := false }).settleSync

/-- MANAGER_ELECTION: a device that starts as manager takes the worker role when it has heard a beacon, and becomes manager
when 8 periods have passed without one (R395). -/
def State.election (s : State) : State :=
  match s.sys.listenUntil with
  | none => s
  | some t =>
    if s.role ≠ 4 then s
    else if s.sys.heard then (s.modSys fun y => { y with listenUntil := none }).raise 0x7002
    else if t ≤ s.tick.number then (s.setMembership 0).becomeManager
    else s

/-! ### Beacons (R396, R400, R401) -/

/-- The beacon payload of this boundary. -/
def State.beacon (s : State) : Bytes :=
  let t := (s.nsAtCycle s.tick.boundary).toNat
  let e := s.nat 0x2900 0x0A
  let flags := (if e = 0 then 0 else 1) + if e ≠ 0 ∧ s.sys.confirmed = some e then 2 else 0
  toBe 6 s.tick.number ++ toBe 4 s.period ++ toBe 6 (t / 1000000000) ++ toBe 4 (t % 1000000000)
    ++ toBe 4 (s.nat 0x2900 7) ++ toBe 4 (s.nat 0x2900 9) ++ toBe 6 e ++ [byte s.standbyNode, byte flags]
    ++ toBe 6 s.membership ++ zeros 6

/-- BEACON_TRANSMIT: 10 µs after a boundary the manager sends one beacon to each node of its table (R400; DEDUCED, log entry 45). -/
def State.sendBeacons (s : State) : State :=
  if s.role ≠ 1 ∨ s.sys.beaconTick = some s.tick.number ∨ s.tick.boundary + 20000 < s.now then s
  else
    let s := s.at_ (s.tick.boundary + 1000)
    let b := s.beacon
    let s := s.modSys fun y => { y with beaconTick := some s.tick.number, standby := s.standbyNode }
    s.each s.otherNodes fun s k => s.cwOnce 3 k 0 0 b

/-- The alignment of a boundary, in ns, and the state with it recorded (R401 items 2 and 3); a value outside 32 bits is not
stated. -/
def State.noteAlignment (s : State) (b : Bytes) : State :=
  let a := s.nsAtCycle s.tick.boundary - ((beAt b 10 6 * 1000000000 + beAt b 16 4 : Nat) : Int)
  let s := if -2147483648 ≤ a ∧ a ≤ 2147483647 then s.setNum 0x2900 0x11 a
    else
      let (d, s) := s.draw
      s.setNum 0x2900 0x11 (signed 32 (unsigned 32 (Config.unstated d)))
  let y := s.sys
  if 1000 < a.natAbs then
    let far := y.farRun + 1
    let s := s.modSys fun y => { y with farRun := far, nearRun := 0, alignRaised := y.alignRaised || 8 ≤ far }
    if 8 ≤ far ∧ ¬ y.alignRaised then s.raise 0x7006 else s
  else
    let near := y.nearRun + 1
    s.modSys fun y => { y with farRun := 0, nearRun := near, alignRaised := y.alignRaised && near < 8 }

/-- What a JOIN carries: protocol version, tick number, stored term, truncation of the device digest (R404; DEDUCED, log entry 44). -/
def State.joinPayload (s : State) : Bytes :=
  [0x10, 0] ++ toBe 6 s.tick.number ++ toBe 4 (s.nat 0x2900 7) ++ (sha256 (s.configOf true)).take 8

/-- The role a counted beacon gives a device that is not the manager (R396, R404, R405). -/
def State.settleRole (s : State) (manager : Nat) : State :=
  if s.isMember s.sys.node then
    (s.takeRole (if s.sys.standby = s.sys.node then 2 else 3)).modSys fun y => { y with joinSent := false }
  else
    let s := if s.role = 4 then s else (s.takeRole 4).modSys fun y => { y with joinSent := false }
    if s.sys.joinSent ∨ s.tick.sync ≠ .locked then s
    else (s.modSys fun y => { y with joinSent := true }).cwReliableSend 5 manager 1 s.joinPayload

/-- A beacon counted for this boundary (R401). -/
def State.countBeacon (s : State) (src : Nat) (b : Bytes) : State :=
  let n := beAt b 0 6
  let flags := byteAt b 35
  let known := s.nat 0x2900 6
  let isolated := s.role = 5
  let s := if n ≠ s.tick.number then (s.modTick fun t => { t with load := some ((n + 1) % 2 ^ 48) }).raise 0x7005 else s
  let s := s.noteAlignment b
  let s := ((s.setNum 0x2900 6 src).setNum 0x2900 7 (max (s.nat 0x2900 7) (beAt b 20 4) : Nat)).setMembership (beAt b 36 6)
  let s := s.modSys fun y =>
    { y with
      counted := true
      uncounted := 0
      heldRaised := false
      standby := byteAt b 34
      joinSent := y.joinSent && known == src
      namedEpoch := if bitOf flags 0 then some (beAt b 28 6) else none
      confirmed := if bitOf flags 0 && bitOf flags 1 then some (beAt b 28 6) else y.confirmed }
  let s := s.settleLate
  if isolated then (s.takeRole 4).modSys fun y => { y with joinSent := false } else s.settleRole src

/-- BEACON: by the manager it may make it yield (R397); while the device listens it is heard (R395); else it is counted when it
comes within its time and from the manager (R401; DEDUCED, log entry 45 for a device that knows none). -/
def State.beaconCame (s : State) (p : EthNo) (src b : Bytes) : State :=
  match s.cwTake 3 p src b with
  | (none, s) => s
  | (some f, s) =>
    let term := beAt f.payload 20 4
    let mine := s.nat 0x2900 7
    if s.role = 1 then
      if mine < term ∨ (term = mine ∧ f.src < s.sys.node) then s.modSys fun y => { y with yieldDue := true } else s
    else if s.sys.listenUntil.isSome then
      (s.setNum 0x2900 7 (max mine term : Nat)).modSys fun y => { y with heard := true }
    else
      let known := s.nat 0x2900 6
      let trusted := mine < term || known == f.src || (known == 0xFF && mine ≤ term)
      let inTime := s.tick.boundary < s.now && s.now ≤ s.tick.boundary + s.period / 2
      if trusted && inTime && !(s.sys.counted && known == f.src) then s.countBeacon f.src f.payload else s

/-- BEACON_WINDOW_EXPIRY: no beacon has been counted for this boundary (R401, R406). -/
def State.beaconMissed (s : State) : State :=
  if s.role ≤ 1 ∨ s.sys.counted ∨ s.sys.expired ∨ s.tick.boundary + s.period / 2 < s.now then s
  else
    let s := s.at_ (s.tick.boundary + s.period / 2)
    let n := s.sys.uncounted + 1
    let s := (s.modSys fun y => { y with uncounted := n, expired := true }).bump 0x2900 0x12
    let s := if n = 3 ∧ (s.role = 2 ∨ s.role = 3) then s.raise 0x7003 else s
    if s.role = 2 ∧ 3 ≤ n ∧ s.tick.sync ≠ .holdover ∧ s.tick.sync ≠ .freeRun ∧ ¬ s.sys.heldRaised then
      (s.modSys fun y => { y with heldRaised := true }).raise 0x7004
    else s

/-- MANAGER_TAKEOVER: the standby becomes manager at a boundary (R406). -/
def State.takeover (s : State) : State :=
  if s.role ≠ 2 ∨ s.sys.uncounted < 3 ∨ (s.tick.sync ≠ .holdover ∧ s.tick.sync ≠ .freeRun) ∨ s.now ≠ s.tick.boundary then s
  else
    let others := (List.range 48).filter fun k => k != s.sys.node && s.isMember k
    let s := s.becomeManager.raise 0x7001
    let s := s.modSys fun y =>
      { y with members := others.map fun k => ({ node := k, joined := true, since := s.tick.number - 2 } : MemberState), placements := [] }
    let s := match s.sys.confirmed, s.sys.namedEpoch with
      | some e, _ => if s.tick.number ≤ e then s.setNum 0x2900 0x0A (e : Int) else s
      | none, some _ => (s.modSys fun y => { y with namedEpoch := none }).settleLate.raise 0x700D { detail := s.sys.node }
      | none, none => s
    s.each others fun s k => (s.negotiate k).readImage k

/-- ISOLATED: a worker that has counted no beacon for 8 consecutive boundaries (R405). -/
def State.isolate (s : State) : State :=
  if (s.role = 2 ∨ s.role = 3) ∧ 8 ≤ s.sys.uncounted then (s.takeRole 5).raise 0x7013 else s

/-! ### Membership (R404, R405) -/

/-- Whether a digest of a tick has come from a member. -/
def MemberState.reported (m : MemberState) (n : Nat) : Bool := m.reports.any (·.tick == n)

/-- MEMBER_LOST: a member from which no digest came for 3 consecutive ticks is dropped. After a takeover the ticks before it
count: their digests went to the manager that was lost. -/
def State.dropMember (s : State) (node : Nat) : State :=
  match s.member node with
  | none => s
  | some m =>
    let n := s.tick.number
    let silent := m.joined && 3 ≤ n && [1, 2, 3].all fun i => !m.reported (n - i)
    if s.role ≠ 1 ∨ !silent ∨ n < m.since + 3 then s
    else
      (((s.setMembership (withoutBit s.membership node)).setMismatch node false).modSys fun y =>
        { y with members := y.members.filter (·.node != node) }).raise 0x7008 { detail := node }

/-- JOIN: refused for a node number in use (1) or an unknown protocol version (2); else the device's image is read (R404). -/
def State.joinCame (s : State) (p : EthNo) (src b : Bytes) : State :=
  match s.cwTake 5 p src b with
  | (none, s) => s
  | (some f, s) =>
    let s := s.sendAck f.src f.chan
    if s.role ≠ 1 then s
    else
      let n := s.tick.number
      let used := (s.member f.src).any fun m => m.joined && [0, 1, 2].any fun i => i ≤ n && m.reported (n - i)
      let reason := if used then 1 else if byteAt f.payload 0 / 16 ≠ 1 then 2 else 0
      let s := s.cwReliableSend 6 f.src 1 (byte reason :: zeros 7)
      if reason ≠ 0 then s
      else
        let s := s.modSys fun y =>
          { y with members := y.members.filter (·.node != f.src) ++ [{ node := f.src }] }
        (s.negotiate f.src).readImage f.src

/-- JOIN_ACCEPT: a refusal raises 0x7007 (R404). -/
def State.joinAnswered (s : State) (p : EthNo) (src b : Bytes) : State :=
  match s.cwTake 6 p src b with
  | (none, s) => s
  | (some f, s) =>
    let s := s.sendAck f.src f.chan
    if s.role = 4 ∧ byteAt f.payload 0 ≠ 0 then s.raise 0x7007 { detail := s.sys.node } else s

/-! ### Digests (R427, R428) -/

/-- DIGEST_SEND: a member's report for its tick, no later than floor(P/4) after the boundary. -/
def State.sendDigest (s : State) : State :=
  if (s.role ≠ 2 ∧ s.role ≠ 3) ∨ s.sys.digestTick = some s.tick.number ∨ s.tick.boundary + s.period / 4 < s.now then s
  else
    let b := s.report.bytes
    (s.modSys fun y => { y with digestTick := some s.tick.number }).cwOnce 4 (s.nat 0x2900 6) 0 0 b

/-- DIGEST: a member's report is kept; a member that becomes depleted has an epoch scheduled at the earliest tick (R421). -/
def State.digestCame (s : State) (p : EthNo) (src b : Bytes) : State :=
  match s.cwTake 4 p src b with
  | (none, s) => s
  | (some f, s) =>
    match s.member f.src with
    | none => s
    | some m =>
      if s.role ≠ 1 ∨ !m.joined then s
      else
        let r := reportOf f.payload
        let was := (m.reports.head?.map (·.depleted)).getD false
        let s := s.modMember f.src fun m => { m with reports := (r :: m.reports).take 4 }
        if r.depleted ∧ ¬ was ∧ s.nat 0x2900 0x0A = 0 then s.setNum 0x2900 0x0A (s.tick.number + 16 : Nat) else s

/-- Whether a member's report agrees with the manager's view of it. -/
def State.reportMatches (s : State) (m : MemberState) (r : DigestReport) : Bool :=
  let sys := sha256 (s.configOf false)
  let dev := s.mirrorDigest m false
  r.epoch == s.nat 0x2900 9 &&
    (if r.full.length = 64 then (!m.known || r.full.take 32 == dev) && r.full.drop 32 == sys
     else (!m.known || r.device == dev.take 8) && r.system == sys.take 8)

/-- DIGEST_COMPARE: floor(P/2) after the boundary the manager compares each report of the tick; its own depleted state counts as a
member's (R421). -/
def State.compareDigests (s : State) : State :=
  if s.role ≠ 1 ∨ s.sys.compareTick = some s.tick.number ∨ s.tick.boundary + s.period / 2 < s.now then s
  else
    let s := s.at_ (s.tick.boundary + s.period / 2)
    let low := s.avail.depleted
    let s := if low ∧ ¬ s.sys.ownDepleted ∧ s.nat 0x2900 0x0A = 0 then s.setNum 0x2900 0x0A (s.tick.number + 16 : Nat) else s
    let s := s.modSys fun y => { y with compareTick := some s.tick.number, ownDepleted := low }
    s.each s.sys.members fun s m =>
      match m.reports.find? (·.tick == s.tick.number) with
      | none => s
      | some r =>
        if !m.joined then s
        else if s.reportMatches m r then
          (if s.mismatched m.node then (s.setMismatch m.node false).raise 0x700B { detail := m.node } else s)
        else if s.mismatched m.node then s
        else (s.setMismatch m.node true).raise 0x700A { detail := m.node }

/-! ### Epochs (R422 to R424) -/

/-- Whether readiness has closed for the scheduled epoch. -/
def State.readinessClosed (s : State) : Bool := s.nat 0x2900 0x0A ≤ s.tick.number + 2

/-- The act of a write to 0x2900:0A: a tick at least 16 ahead where none is scheduled, or 0 before readiness closes; a worker
refuses it. -/
def epochAct : Act :=
  guarded (fun _ v s =>
    s.role ≤ 1 &&
      (if v.int = 0 then s.nat 0x2900 0x0A == 0 || !s.readinessClosed
       else s.nat 0x2900 0x0A == 0 && s.tick.number + 16 ≤ v.int.toNat)) <|
    always fun _ v s =>
      let s := (s.setNum 0x2900 0x0A v.int).settleLate
      if v.int = 0 then s.modSys fun y => { y with confirmed := none } else s

/-- The first node that holds the epoch back: the manager itself, or a member (R423). -/
def State.holdsBack (s : State) (e : Nat) : Option Nat :=
  let sys := (sha256 (s.pendingOf false)).take 8
  (List.range 48).find? fun k =>
    if k = s.sys.node then !s.ready
    else match s.member k with
      | none => false
      | some m =>
        m.joined && !(m.known && !m.failed && m.reports.any fun r =>
          r.tick + 3 == e && r.ready && r.pendSystem == sys && r.pendDevice == (s.mirrorDigest m true).take 8)

/-- The claims the manager holds on members are released (R476). -/
def State.releaseClaims (s : State) : State :=
  s.each s.sys.members fun s m =>
    match m.claim with
    | none => s
    | some t => (s.relayTo m.node (usdoWrite 0x2010 3 (toLe 4 t))).modMember m.node fun m => { m with claim := none }

/-- EPOCH_READINESS_CLOSE: at boundary E - 2 the epoch is confirmed, or the schedule is cleared and 0x700D raised. -/
def State.closeReadiness (s : State) : State :=
  let e := s.nat 0x2900 0x0A
  if 1 < s.role ∨ e = 0 ∨ e ≠ s.tick.number + 2 ∨ s.sys.confirmed = some e ∨ s.tick.boundary + 1000 < s.now then s
  else
    let back := if s.role = 0 then (if s.ready then none else some s.sys.node) else s.holdsBack e
    let s := match back with
      | none => s.modSys fun y => { y with confirmed := some e }
      | some k => (s.setNum 0x2900 0x0A 0).settleLate.raise 0x700D { detail := k }
    s.releaseClaims

/-- The act of a write to 0x2900:10: the manager reads a member's image afresh; a worker refuses it. -/
def rereadAct : Act :=
  guarded (fun _ _ s => s.role ≤ 1) <|
    always fun _ v s => if (s.member v.int.toNat).any (·.joined) then s.readImage v.int.toNat else s

/-! ### Commands -/

def execManagerElection (s : State) : Answer := live s s.election
def execBeaconTransmit (s : State) : Answer := live s s.sendBeacons
def execBeacon (at_ : Nat) (p : EthNo) (src b : Bytes) (s : State) : Answer := live s ((s.at_ at_).beaconCame p src b)
def execBeaconWindowExpiry (s : State) : Answer := live s s.beaconMissed
def execManagerTakeover (s : State) : Answer := live s s.takeover
def execIsolated (s : State) : Answer := live s s.isolate
def execMemberLost (node : Fin 48) (s : State) : Answer := live s (s.dropMember node)
def execJoin (at_ : Nat) (p : EthNo) (src b : Bytes) (s : State) : Answer := live s ((s.at_ at_).joinCame p src b)
def execJoinAccept (at_ : Nat) (p : EthNo) (src b : Bytes) (s : State) : Answer := live s ((s.at_ at_).joinAnswered p src b)
def execDigestSend (s : State) : Answer := live s s.sendDigest
def execDigest (at_ : Nat) (p : EthNo) (src b : Bytes) (s : State) : Answer := live s ((s.at_ at_).digestCame p src b)
def execDigestCompare (s : State) : Answer := live s s.compareDigests
def execEpochSchedule (w : Write) (b : Bytes) (s : State) : Answer := live s (s.odRun w 0x2900 0x0A b epochAct)
def execEpochCancel (w : Write) (s : State) : Answer := live s (s.odRun w 0x2900 0x0A (zeros 6) epochAct)
def execStreamPlacement (s : State) : Answer := live s s.place
def execEpochReadinessClose (s : State) : Answer := live s s.closeReadiness
def execRereadMember (w : Write) (b : Bytes) (s : State) : Answer := live s (s.odRun w 0x2900 0x10 b rereadAct)

end Sys2Proof.Machine
end

