-- ==== Sys2Proof/Machine/Links.lean ====
section
/-! DEFINITION. The flows of causeway as commands: DATA of a cut tensor, acknowledgements, retransmission, failed flows, and the
manager's end of the relay (spec/15_system.md R412 to R418, spec/16_ethernet.md R438, R440, spec/17_object_dictionary.md R476). -/

namespace Sys2Proof.Machine

/-! ### DATA (R416, R417) -/

/-- The address of buffer `i` of port `p`'s data receive buffer (R442). -/
def dataAt (p : EthNo) (i : Nat) : Nat := 0x100000 * p.val + 0x8000 + 8192 * i

/-- A free receive buffer of a port: 32 of 8 KiB (R438). -/
def State.freeBuffer (s : State) (p : EthNo) : Option Nat :=
  ((List.range 32).map (dataAt p)).find? fun a => s.sys.buffers.all fun b => b.addr != a

/-- Data put into a receive buffer; a pause is sent when the port's data buffer reaches 160 KiB (R440). -/
def State.fillBuffer (s : State) (p : EthNo) (a : Nat) (k : SlotNo) (f : CwFrame) : State :=
  let data := f.payload.drop 32
  let s := s.modMem fun m => { m with eth := cellsWrite m.eth a data }
  let s := s.modSys fun y => { y with buffers := y.buffers ++ [⟨a, k, data.length, f.src, f.chan, f.seq⟩] }
  let s := s.modPort p fun q => { q with dataFill := q.dataFill + 8192 }
  if 163840 ≤ s.eth.ports[p].dataFill ∧ ¬ s.eth.ports[p].pausing then
    (s.modPort p fun q => { q with pausing := true, pausedAt := s.now }).sendPfc p 0xFFFF
  else s

/-- The downstream frame ends with the upstream outcome; its fault code is not told. -/
def State.abandonFrame (s : State) (k : SlotNo) (b : Bytes) : State :=
  match s.abandonOutcome b with
  | (o, code, s) => s.finishFrame k (beAt b 0 4) o code

/-- What an accepted DATA frame does to its slot: the first of a frame starts it, or waits for the slot's borrowing frame to end
(R54, R417). -/
def State.takeData (s : State) (p : EthNo) (a : Nat) (k : SlotNo) (f : CwFrame) : State :=
  let b := f.payload
  let n := beAt b 0 4
  let begun := (s.slots[k].frameOf n).isSome
  let due := !begun && s.cutInTime b && s.takesFrames k && !(s.slots[k].finished.any (·.number == n))
  let abandon := bitOf (byteAt b 15) 2
  if due && s.slots[k].borrower.isSome then
    (if abandon then s else s.fillBuffer p a k f).modSlot k fun sl => { sl with cutWait := sl.cutWait ++ [b] }
  else
    let s := if due then (s.commitSlot k).beginCut k b else s
    if abandon then s.abandonFrame k b
    else if (s.slots[k].frameOf n).isNone then s
    else if due then s.fillBuffer p a k f
    else (s.fillBuffer p a k f).takeSegment k b

/-- DATA: into a receive buffer of the channel; a full receive buffer drops it (R438). -/
def State.dataCame (s : State) (p : EthNo) (src b : Bytes) : State :=
  match s.freeBuffer p with
  | none => if byteAt b 1 = 1 ∧ s.role ≠ 0 ∧ s.linkUp p then s.raiseOnce 0x7022 p else s
  | some a =>
    match s.cwTake 1 p src b with
    | (none, s) => s
    | (some f, s) =>
      match s.flowSlot 2 f.src f.chan with
      | none => s
      | some k => (s.takeData p a k f).sendAck f.src f.chan

/-! ### Acknowledgements and failed flows (R413, R414) -/

/-- ACK. -/
def State.ackCame (s : State) (p : EthNo) (src b : Bytes) : State :=
  match s.cwTake 2 p src b with
  | (none, s) => s
  | (some f, s) => s.takeAck f.src f.payload

/-- ACK_PERIODIC: 100 µs after the last ACK of a channel. -/
def State.ackAgain (s : State) (src chan : Nat) : State :=
  match s.rxChannel src chan with
  | none => s
  | some x => if s.role = 0 then s else (s.at_ (x.ackedAt + 10000)).sendAck src chan

/-- FLOW_RESET_SEND: once per 100 µs from the boundary after the failure. -/
def State.sendFlowReset (s : State) (dest chan : Nat) : State :=
  let f := s.flow dest chan
  match f.resetDue, f.resetAt with
  | true, some t =>
    let s := (s.at_ t).setFlow { f with resetAt := some (max s.now t + 10000) }
    s.cwOnce 9 dest chan (s.chanOwner dest chan) []
  | _, _ => s

/-- FLOW_RESET: the receiver's window is discarded, its frames in progress fail, and a fresh ACK answers. -/
def State.flowResetCame (s : State) (p : EthNo) (src b : Bytes) : State :=
  match s.cwTake 9 p src b with
  | (none, s) => s
  | (some f, s) =>
    let s := s.modSys fun y =>
      { y with
        spaces := y.spaces.map fun x => if x.src == f.src && x.chan == f.chan && !x.ack then { x with next := 0, held := [] } else x }
    let s := s.releaseBuffers fun u => u.src == f.src && u.chan == f.chan
    let s := match s.flowSlot 2 f.src f.chan with
      | some k => s.failFrames k 0x700E
      | none => s
    s.sendAck f.src f.chan

/-! ### The manager's end of the relay (R418, R476, R525) -/

/-- RELAY_RESPONSE. -/
def State.answerCame (s : State) (p : EthNo) (src b : Bytes) : State :=
  match s.cwTake 8 p src b with
  | (none, s) => s
  | (some f, s) =>
    let s := s.sendAck f.src f.chan
    match s.joinAnswer (beAt f.payload 0 2) f.payload with
    | (some (r, got), s) => if r.member = f.src then s.takeAnswer r got else s
    | (none, s) => s

/-- RELAY_TIMEOUT: 100 ms after it was sent, a request without an answer is abandoned; a write of a placement has failed. -/
def State.relayLate (s : State) (transaction : Nat) : State :=
  match s.sys.relays.find? (·.transaction == transaction) with
  | none => s
  | some r =>
    let s := (s.at_ (r.sentAt + 10000000)).modSys fun y => { y with relays := y.relays.filter (·.transaction != transaction) }
    s.takeAnswer r (usdoAbort (usdoIndex r.request) (usdoSub r.request) 0x05040000)

/-- RELAY_LEASE_RENEWAL: 500 ms after the last renewal of a claim held on the manager's own account. -/
def State.renewClaim (s : State) (node : Nat) : State :=
  match s.member node with
  | none => s
  | some m =>
    match m.claim with
    | none => s
    | some t =>
      if s.role ≠ 1 then s
      else
        let s := s.at_ (m.renewAt + 50000000)
        (s.modMember node fun m => { m with renewAt := s.now }).relayTo node (usdoWrite 0x2010 4 (toLe 4 t))

/-- EVENT_LOG_POLL: the manager asks a member for the number of its records. -/
def State.pollEvents (s : State) (node : Nat) : State :=
  if s.role = 1 ∧ (s.member node).any (·.joined) then s.relayTo node (usdoRead 0x2600 1) else s

/-! ### Commands -/

def execData (at_ : Nat) (p : EthNo) (src b : Bytes) (s : State) : Answer := live s ((s.at_ at_).dataCame p src b).pump
def execAck (at_ : Nat) (p : EthNo) (src b : Bytes) (s : State) : Answer := live s ((s.at_ at_).ackCame p src b)
def execAckPeriodic (src : Fin 48) (chan : BitVec 8) (s : State) : Answer := live s (s.ackAgain src chan.toNat)
def execCausewayRetransmit (dest : Fin 48) (chan : BitVec 8) (s : State) : Answer := live s (s.retransmit dest chan.toNat).pump
def execFlowResetSend (dest : Fin 48) (chan : BitVec 8) (s : State) : Answer := live s (s.sendFlowReset dest chan.toNat)
def execFlowReset (at_ : Nat) (p : EthNo) (src b : Bytes) (s : State) : Answer := live s ((s.at_ at_).flowResetCame p src b).pump
def execRelayResponse (at_ : Nat) (p : EthNo) (src b : Bytes) (s : State) : Answer := live s ((s.at_ at_).answerCame p src b)
def execRelayTimeout (transaction : BitVec 16) (s : State) : Answer := live s (s.relayLate transaction.toNat)
def execRelayLeaseRenewal (node : Fin 48) (s : State) : Answer := live s (s.renewClaim node)
def execEventLogPoll (node : Fin 48) (s : State) : Answer := live s (s.pollEvents node)

end Sys2Proof.Machine
end

