-- ==== Sys2Proof/Machine/Outputs.lean ====
section
/-! DEFINITION. Formatters, the start of analysis and result datagrams (spec/06_outputs_and_analysis.md R150 to R174,
spec/16_ethernet.md R435, R443). -/

namespace Sys2Proof.Machine

/-! ### Pixel formats (R153 to R158) -/

/-- R153: a tap value reduced to `n` bits. -/
def tapQuant (v : Int) (n : Nat) : Nat := (roundDiv (v * ((2 ^ n : Nat) - 1)) 65535).toNat

/-- kr and kb of R154: BT.709, or BT.2020. -/
def lumaWeights (bt2020 : Bool) : Int × Int := if bt2020 then (17216, 3886) else (13933, 4732)

/-- yacc of R154. -/
def lumaSum (w : Int × Int) (r g b : Int) : Int := w.1 * r + (65536 - w.1 - w.2) * g + w.2 * b

/-- Offsets and spans of R154: off_y, span_y, off_c, span_c. -/
def rangeOf (full : Bool) (n : Nat) : Int × Int × Int × Int :=
  let p : Int := (2 ^ (n - 8) : Nat)
  if full then (0, (2 ^ n : Nat) - 1, (2 ^ (n - 1) : Nat), (2 ^ n : Nat) - 1) else (16 * p, 219 * p, 128 * p, 224 * p)

/-- Y of a pixel (R154). -/
def lumaOf (w : Int × Int) (full : Bool) (n : Nat) (p : Int × Int × Int) : Nat :=
  let o := rangeOf full n
  satU n (o.1 + roundDiv (o.2.1 * lumaSum w p.1 p.2.1 p.2.2) (65536 * 65535))

/-- Cb (`blue`) or Cr over a window of weighted pixels (R154). -/
def chromaOf (w : Int × Int) (full blue : Bool) (n : Nat) (win : List (Int × (Int × Int × Int))) : Nat :=
  let o := rangeOf full n
  let k := if blue then w.2 else w.1
  let part (p : Int × Int × Int) : Int := 65536 * (if blue then p.2.2 else p.1) - lumaSum w p.1 p.2.1 p.2.2
  let total := (win.map fun e => e.1 * part e.2).sum
  let weight := (win.map (·.1)).sum
  satU n (o.2.2.1 + roundDiv (o.2.2.2 * total) (2 * (65536 - k) * 65535 * weight).toNat)

/-- The chroma window of sample `j` over some lines (R155), of an image `px` of `w` columns and `h` lines. -/
def chromaWindow (w h : Nat) (px : Nat → Nat → Int × Int × Int) (j : Nat) (lines : List Nat) : List (Int × (Int × Int × Int)) :=
  let col (x : Int) : Nat := if x < 0 then x.natAbs else if (w : Int) ≤ x then w - 2 else x.toNat
  lines.flatMap fun y =>
    let y := if h ≤ y then h - 2 else y
    [((1 : Int), px (col (2 * j - 1)) y), (2, px (col (2 * j)) y), (1, px (col (2 * j + 1)) y)]

/-- A line's bytes filled up with zeros to its stride. -/
def strided (b : Bytes) : Bytes := b ++ List.replicate (roundUp b.length 64 - b.length) 0

/-- The INT8 element of a tap value (R158). -/
def tensorElement (shift : Nat) (v : Int) : Byte := byte (unsigned 8 (satS 8 (rneShr v shift)))

/-- What formatting a stripe needs: the frame's size, its lines, its display alpha, and the tap's pixels. -/
structure TapStripe where
  alpha : Nat
  w : Nat
  h : Nat
  lines : List Nat
  px : Nat → Nat → Int × Int × Int

/-- The display section of a stripe: line and bytes of each (R157). -/
def State.displayLines (s : State) (k : SlotNo) (t : TapStripe) : List (Nat × Bytes) :=
  let wt := lumaWeights false
  let full := s.slotNat k 0x44 == 1
  t.lines.map fun y =>
    (y, strided <|
      if s.slotNat k 0x40 = 1 then
        (List.range t.w).flatMap fun x =>
          let p := t.px x y
          [byte (tapQuant p.1 8), byte (tapQuant p.2.1 8), byte (tapQuant p.2.2 8), byte t.alpha]
      else
        (List.range (ceilDiv t.w 2)).flatMap fun j =>
          let win := chromaWindow t.w t.h t.px j [y]
          let y1 := if 2 * j + 1 < t.w then lumaOf wt full 8 (t.px (2 * j + 1) y) else 0
          [byte (lumaOf wt full 8 (t.px (2 * j) y)), byte (chromaOf wt full true 8 win), byte y1,
            byte (chromaOf wt full false 8 win)])

/-- A coding sample in its container (R157). -/
def State.codingSample (s : State) (k : SlotNo) (v : Nat) : Bytes := if s.slotNat k 0x43 = 1 then [byte v] else toLe 2 (v * 64)

/-- The luma lines of a stripe (R157). -/
def State.codingLuma (s : State) (k : SlotNo) (t : TapStripe) : List (Nat × Bytes) :=
  let n := if s.slotNat k 0x43 = 1 then 8 else 10
  let wt := lumaWeights (s.slotNat k 0x42 == 1)
  t.lines.map fun y =>
    (y, strided ((List.range t.w).flatMap fun x => s.codingSample k (lumaOf wt (s.slotNat k 0x44 == 1) n (t.px x y))))

/-- The chroma lines of a stripe (R155, R157). -/
def State.codingChroma (s : State) (k : SlotNo) (t : TapStripe) : List (Nat × Bytes) :=
  let n := if s.slotNat k 0x43 = 1 then 8 else 10
  let wt := lumaWeights (s.slotNat k 0x42 == 1)
  let full := s.slotNat k 0x44 == 1
  (t.lines.filter (· % 2 == 0)).map fun y =>
    (y / 2, strided ((List.range (ceilDiv t.w 2)).flatMap fun j =>
      let win := chromaWindow t.w t.h t.px j [y, y + 1]
      s.codingSample k (chromaOf wt full true n win) ++ s.codingSample k (chromaOf wt full false n win)))

/-- The machine-vision lines of a stripe, by line of the section (R157, R158). -/
def State.visionLines (s : State) (k : SlotNo) (t : TapStripe) : List (Nat × Bytes) :=
  let shift := s.slotNat k 0x47
  let part (c : Nat) (p : Int × Int × Int) : Int := if c = 0 then p.1 else if c = 1 then p.2.1 else p.2.2
  let planar (e : Int → Bytes) : List (Nat × Bytes) :=
    (List.range 3).flatMap fun c => t.lines.map fun y =>
      (c * t.h + y, strided ((List.range t.w).flatMap fun x => e (part c (t.px x y))))
  if s.slotNat k 0x45 = 1 then planar fun v => toLe 2 (tapQuant v 12)
  else if s.slotNat k 0x48 = 0 then planar fun v => [tensorElement shift v]
  else t.lines.map fun y =>
    (y, strided ((List.range t.w).flatMap fun x => (List.range 3).map fun c => tensorElement shift (part c (t.px x y))))

/-! ### FORMATTER_STRIPE -/

/-- A pixel of the held stripes of a tap. -/
def tapPixel (h : Nat) (held : List StripeData) (x y : Nat) : Int × Int × Int :=
  match held.find? fun d => d.stripe == y / h with
  | none => (0, 0, 0)
  | some d =>
    let at_ (c : Nat) : Int := ((d.samples.getD c []).getD (y % h) []).getD x 0
    (at_ 0, at_ 1, at_ 2)

/-- Section number and lines a formatter kind writes for a stripe. -/
def State.formatted (s : State) (k : SlotNo) (kind : Nat) (t : TapStripe) : List (Nat × List (Nat × Bytes)) :=
  if kind = 1 then [(1, s.displayLines k t)]
  else if kind = 2 then [(2, s.codingLuma k t), (3, s.codingChroma k t)]
  else [(4, s.visionLines k t)]

/-- Offset of an image section in an entry: every section but those of analysis is present in a done frame (R170). -/
def State.sectionAt (s : State) (k : SlotNo) (f : Frame) (section_ : Nat) : Nat :=
  (layoutSections ((List.range 6).map fun i => s.sectionSize k f.width f.height (i + 1))).1.getD (section_ - 1) 0

/-- Whether a formatter may convert stripe `i` now: in order, the tap's stripe complete and held. -/
def State.formatMay (s : State) (k : SlotNo) (f : Frame) (kind i : Nat) : Bool :=
  s.nat 0x2700 1 == 0 && s.formatterOn k kind && i == f.formatted.countP (·.1 == kind)
    && ((s.tapOf k f kind).bind fun j => f.stages[j]?).any fun r => r.held.any (·.stripe == i)

/-- FORMATTER_STRIPE: a stripe of a tap converted and written into the frame's output entry; with every entry pinned the frame
ends failed (R150, R171). -/
def State.formatStripe (s : State) (k : SlotNo) (n kind i : Nat) : State :=
  match s.slots[k].frameOf n with
  | none => s
  | some f =>
    if !s.formatMay k f kind i then s
    else
      match s.takeOut k f with
      | none => (s.raise 0x3D01 { slot := k, detail := n }).finishFrame k n .failed 0x3D01
      | some (e, s) =>
        let body := s.bodyOf f
        let h := stripeHeight body
        let held := (((s.tapOf k f kind).bind fun j => f.stages[j]?).map (·.held)).getD []
        let t : TapStripe := { alpha := f.knobs.alpha, w := f.width, h := f.height, lines := stripeLines h f i, px := tapPixel h held }
        let s := s.each (s.formatted k kind t) fun s sec =>
          let stride := (s.sectionShape k f.width f.height sec.1).1
          s.each sec.2 fun s l => (s.ringWrite k (s.outBase k e + s.sectionAt k f sec.1 + l.1 * stride) l.2).2
        let s := s.modFrame k n fun f => { f with formatted := f.formatted ++ [(kind, i)] }
        (s.chargeSamples (s.slotOwner k) (f.width * t.lines.length)).release k n

/-! ### ANALYSIS_START (R160) -/

/-- What becomes of a frame's analysis: it starts on an output entry of the source, is skipped, or waits. -/
inductive SourceState where
  | ready (entry : Nat)
  | missing
  | wait
  deriving DecidableEq, Repr

/-- Whether a frame's own outputs are done: its chain and its formatters. -/
def State.ownOutputs (s : State) (k : SlotNo) (f : Frame) : Bool :=
  let n := stripeCount f.height (stripeHeight (s.bodyOf f))
  f.stages.all (fun r => r.completed.length == n)
    && [1, 2, 3].all fun kind => !s.formatterOn k kind || f.formatted.countP (·.1 == kind) == n

/-- The source of a frame's analysis: the source slot's frame of the tick, not one that was overtaken in it (R48, R160). A slot that is its
own source starts once its own outputs are done. -/
def State.sourceOf (s : State) (k : SlotNo) (f : Frame) : SourceState :=
  let src : SlotNo := Fin.ofNat 48 (s.slotNat k 0x4A)
  if src = k then
    match f.outEntry with
    | some e => if s.ownOutputs k f then .ready e else .wait
    | none => .wait
  else match s.slots[src].finished.find? fun g => g.tick == f.tick && !g.status.getLsbD 21 with
    | some g =>
      match g.outcome, g.outEntry with
      | some .done, some e => if g.status.getLsbD 7 then .missing else .ready e
      | _, _ => .missing
    | none =>
      if s.slots[src].frames.any (fun g => g.tick == f.tick) || (src == 0 && s.tick.number == f.tick) then .wait else .missing

/-- ANALYSIS_START: analysis of a frame starts, its source's entry pinned, or is skipped (R160, R171). -/
def State.startAnalysis (s : State) (k : SlotNo) (n : Nat) : State :=
  match s.slots[k].frameOf n with
  | none => s
  | some f =>
    if s.slotNat k 0x49 = 0 ∨ f.analysis ≠ .none ∨ s.nat 0x2700 1 ≠ 0 then s
    else
      let src : SlotNo := Fin.ofNat 48 (s.slotNat k 0x4A)
      match s.sourceOf k f with
      | .wait => s
      | .missing =>
        (s.modFrame k n fun f => { f with analysis := .skipped, status := setBit f.status 23 }).raise 0x3D06
          { slot := k, detail := n }
      | .ready e =>
        (s.modSlot src fun sl => { sl with outRing := modAt sl.outRing e fun x => { x with pins := (k.val, n) :: x.pins } }).modFrame k n
          fun f => { f with analysis := .running }

/-! ### RESULT_TRANSMIT (R172 to R174, R443) -/

/-- A result datagram to be sent: kind, offset, section length, payload, whether it is the frame's last. -/
structure ResultPart where
  kind : Nat
  offset : Nat
  total : Nat
  payload : Bytes
  last : Bool

/-- The payloads of a section, of at most `limit` bytes. -/
def sectionParts (kind limit : Nat) (b : Bytes) : List ResultPart :=
  (List.range (ceilDiv b.length limit)).map fun i => ⟨kind, i * limit, b.length, (b.drop (i * limit)).take limit, false⟩

/-- The datagrams of a frame: its status, then the enabled sections. -/
def State.resultParts (s : State) (k : SlotNo) (j : ResultJob) (limit : Nat) : List ResultPart :=
  let o := s.slotOwner k
  let base := s.outBase k j.entry
  let secs := j.sections.filter fun x => (s.slotNat k 0x51).testBit x.1
  let parts : List ResultPart := ⟨0, 0, 64, s.extRead o base 64, false⟩ ::
    secs.flatMap fun x => sectionParts x.1 limit (s.extRead o (base + x.2.1) x.2.2)
  (List.range parts.length).zip parts |>.map fun p => { p.2 with last := p.1 + 1 == parts.length }

/-- Whether a result stream is stopped (R448). -/
def State.resultStopped (s : State) (k : SlotNo) : Bool :=
  s.slots[k].stop.stopped && s.slots[k].stop.holdEnd.all (s.now < ·)

/-- The destination entry of a slot (R443). -/
def State.destination (s : State) (k : SlotNo) : Bytes := (s.entry 0x2A10 (s.slotNat k 0x52 + 1)).bytes

/-- The port a datagram of a slot leaves by; none where its link is down (R443). A shedding device runs no port but the one
that carries causeway (R561). -/
def State.resultEgress (s : State) (k : SlotNo) : Option EthNo :=
  let d := s.destination k
  let p := if byteAt d 18 = 0xFF then s.resultsPort
    else if s.linkUp (Fin.ofNat 4 (byteAt d 18)) then some (Fin.ofNat 4 (byteAt d 18)) else none
  p.filter fun q => s.nat 0x2700 1 == 0 || s.causewayPort == some q

/-- The largest payload of a slot's result datagrams on a port (R435). -/
def State.resultLimit (s : State) (k : SlotNo) (p : EthNo) : Nat :=
  (s.udpRoom p (slice (s.destination k) 0 16) - 32 - (if s.slotNat k 0x54 = 1 then 16 else 0)) / 64 * 64

/-- The header of a result datagram (R172). -/
def State.resultHeader (s : State) (k : SlotNo) (j : ResultJob) (r : ResultPart) : Bytes :=
  [0x10, byte (32 * r.kind + 16 * s.slotNat k 0x54 + if r.last then 8 else 0)] ++ toBe 2 (s.slotNat k 0x53)
    ++ toBe 4 j.frame ++ toBe 8 s.slots[k].result.seq ++ toBe 4 r.offset ++ toBe 4 r.total ++ zeros 8

/-- The marks of a result datagram, as its destination entry gives them (R443). -/
def State.resultMark (s : State) (k : SlotNo) (p : EthNo) : TxMark :=
  let d := s.destination k
  { vlan := s.nat (ethIndex p) 5, pcp := byteAt d 19, dscp := some (byteAt d 20), hopLimit := some (byteAt d 21) }

/-- One result datagram sent, or dropped and counted (R173, R174, R443): one that is not sent takes no sequence number. -/
def State.sendResult (s : State) (k : SlotNo) (j : ResultJob) (r : ResultPart) : State :=
  let drop := s.bump (slotIndex k) 0x5B
  let d := s.destination k
  if s.resultStopped k || allZero (slice d 0 16) then drop
  else match s.resultEgress k with
    | none => drop
    | some p =>
      let h := s.resultHeader k j r
      let send (b : Bytes) : State :=
        (s.sendUdp p (s.resultMark k p) (slice d 0 16) (beAt d 16 2) (s.nat 0x2A00 2) b).modSlot k fun sl =>
          { sl with result := { sl.result with seq := (sl.result.seq + 1) % 2 ^ 64 } }
      if s.slotNat k 0x54 = 0 then send (h ++ r.payload)
      else match s.owners[s.slotOwner k].result with
        | none => drop
        | some key =>
          let c := gcmSeal key.key (slice key.salt 0 4 ++ toBe 8 s.slots[k].result.seq) h r.payload
          send (h ++ c.1 ++ c.2)

/-- The result datagrams a frame has. -/
def State.datagrams (s : State) (k : SlotNo) (j : ResultJob) : Nat :=
  let limit := max 64 (((s.resultEgress k).map (s.resultLimit k)).getD 8896)
  1 + ((j.sections.filter fun x => (s.slotNat k 0x51).testBit x.1).map fun x => ceilDiv x.2.2 limit).sum

/-- The frames whose datagrams wait are dropped, and their datagrams counted (R174, R448). -/
def State.dropJobs (s : State) (k : SlotNo) : State :=
  let n := (s.slots[k].result.jobs.map (s.datagrams k)).sum
  (s.bumpBy (slotIndex k) 0x5B n).modSlot k fun sl => { sl with result := { sl.result with jobs := [] } }

/-- A stream that was stopped runs again: what was not sent meanwhile is dropped (R174). -/
def State.releaseResult (s : State) (k : SlotNo) : State :=
  if s.slots[k].stop.stopped then
    (s.dropJobs k).modSlot k fun sl => { sl with stop := { sl.stop with stopped := false, holdEnd := none } }
  else s

/-- A stop whose hold has ended (R448). -/
def State.settleStop (s : State) (k : SlotNo) : State :=
  if s.slots[k].stop.stopped && !s.resultStopped k then s.releaseResult k else s

/-- The result datagrams of the oldest frame of a slot whose header has been written. -/
def State.transmitResult (s : State) (k : SlotNo) : State :=
  let s := s.settleStop k
  match s.slots[k].result.jobs with
  | [] => s
  | j :: rest =>
    let s := s.modSlot k fun sl => { sl with result := { sl.result with jobs := rest } }
    let limit := ((s.resultEgress k).map (s.resultLimit k)).getD 8896
    s.each (s.resultParts k j (max 64 limit)) fun s r => s.sendResult k j r

/-! ### Commands -/

def execFormatterStripe (at_ : Nat) (k : SlotNo) (n : BitVec 32) (kind : Fin 3) (i : Fin 512) (s : State) : Answer :=
  live s ((s.at_ at_).formatStripe k n.toNat (kind.val + 1) i)

def execAnalysisStart (at_ : Nat) (k : SlotNo) (n : BitVec 32) (s : State) : Answer :=
  live s ((s.at_ at_).startAnalysis k n.toNat)

def execResultTransmit (at_ : Nat) (k : SlotNo) (s : State) : Answer := live s ((s.at_ at_).transmitResult k)

end Sys2Proof.Machine
end

