-- ==== Sys2Proof/Machine/Ethernet.lean ====
section
/-! DEFINITION. The Ethernet ports as commands: links, the IP subset, PFC and stop frames (spec/16_ethernet.md R431 to
R449). -/

namespace Sys2Proof.Machine

/-! ### Links (R431, R561) -/

/-- The link state a port's mode gives when it is up: 2 at 100 Gb/s, 3 at 25 Gb/s. -/
def State.upState (s : State) (p : EthNo) : Nat := if s.nat (ethIndex p) 1 ≤ 2 then 2 else 3

/-- ETH_LINK_UP: a disabled port never comes up; in the shed state no port does. -/
def State.linkComesUp (s : State) (p : EthNo) : State :=
  if s.nat (ethIndex p) 1 = 0 ∨ s.linkUp p ∨ s.nat 0x2700 1 = 1 then s
  else ((s.setNum (ethIndex p) 9 (s.upState p)).raise 0x7021).settleError

/-- ETH_LINK_DOWN. -/
def State.linkGoesDown (s : State) (p : EthNo) : State := if s.linkUp p then s.dropLink p 0 else s

/-! ### Receiving (R433, R436) -/

/-- A frame received by a port that runs; none on a port whose link is down. -/
def State.received (s : State) (p : EthNo) (f : State → State) : State :=
  if s.linkUp p ∧ (s.nat 0x2700 1 = 0 ∨ s.causewayPort = some p) then f (s.bump (ethIndex p) 0x20) else s

/-- Whether a frame is outside the supported subset of a port. -/
def State.outside (s : State) (p : EthNo) (u : Unsupported) : Bool :=
  match u with
  | .etherType t => !([0x0800, 0x0806, 0x86DD, 0x8100, 0x8808, 0x88F7].contains t.toNat)
  | .untagged => s.nat (ethIndex p) 6 == 0
  | .vlan id => id != s.nat (ethIndex p) 5
  | .options | .fragment | .extension | .checksum => true
  | .protocol n => !([1, 2, 17, 58].contains n.toNat)
  | .icmp t => !([8, 128, 130, 133, 134, 135, 136, 137].contains t.toNat)
  | .udpPort n =>
    !([s.nat 0x2A00 1, s.nat 0x2900 4, s.nat 0x2A00 3, 319, 320].contains n.toNat)

/-- ETH_UNSUPPORTED_FRAME. -/
def State.unsupported (s : State) (p : EthNo) (u : Unsupported) : State :=
  s.received p fun s => if s.outside p u then s.bump (ethIndex p) 0x23 else s

/-- ARP_REQUEST for a target, from a sender. -/
def State.arpAsked (s : State) (p : EthNo) (mac sender target : Bytes) : State :=
  s.received p fun s =>
    if s.ownAddr p (mapped target) then (s.countFrame p).emit (.frame p 0x0806 (s.arpBody p 2 mac (mapped sender))) else s

/-- A neighbour's link address kept (R433). -/
def State.learn (s : State) (p : EthNo) (addr mac : Bytes) : State :=
  s.modPort p fun q => { q with neighbours := (addr, slice mac 0 6) :: q.neighbours.filter (·.1 != addr) }

/-- ARP_REPLY: taken for an address the port resolves, a gateway or one on the link. -/
def State.arpAnswered (s : State) (p : EthNo) (mac sender : Bytes) : State :=
  s.received p fun s => if s.nextHop p (mapped sender) = mapped sender then s.learn p (mapped sender) mac else s

/-- ND_MESSAGE. -/
def State.ndCame (s : State) (p : EthNo) (m : NdMessage) : State :=
  s.received p fun s =>
    match m with
    | .solicit target _ _ =>
      if s.ownAddr p target then
        (s.countFrame p).emit (.frame p 0x1003A ([136, 0, 0, 0, 0x60, 0, 0, 0] ++ slice target 0 16 ++ [2, 1] ++ macOf p))
      else s
    | .advertise target mac => if s.nextHop p target = slice target 0 16 then s.learn p (slice target 0 16) mac else s
    | .other => s

/-- ICMP_ECHO_REQUEST: `body` is what follows the checksum; the reply carries it back. -/
def State.echoAsked (s : State) (p : EthNo) (dst src body : Bytes) : State :=
  if s.nat (ethIndex p) 2 < body.length + (if isV4 dst then 24 else 44) then s
  else s.received p fun s =>
    if s.ownAddr p dst then
      let s := (s.resolve p src).countFrame p
      if isV4 dst then s.emit (.frame p 0x10001 ([0, 0, 0, 0] ++ body)) else s.emit (.frame p 0x1003A ([129, 0, 0, 0] ++ body))
    else s

/-- MULTICAST_QUERY, general or of one group: reports for the joined groups it asks for. -/
def State.queryCame (s : State) (p : EthNo) (six : Bool) (group : Bytes) : State :=
  s.received p fun s =>
    s.reportGroups p 2 ((s.groups p).filter fun g => isV4 g != six && (allZero group || g == group))

/-! ### PFC (R440, R441) -/

/-- Reference cycles of a number of quanta of 512 bit times at a port's rate, rounded up. -/
def State.quantaCycles (s : State) (p : EthNo) (q : Nat) : Nat :=
  if s.nat (ethIndex p) 9 = 3 then ceilDiv (q * 2048) 1000 else ceilDiv (q * 512) 1000

/-- PFC_FRAME: opcode, class-enable vector and eight times. -/
def State.pfcCame (s : State) (p : EthNo) (b : Bytes) : State :=
  let pcp := s.nat 0x2A00 5
  if b.length < 20 ∨ beAt b 0 2 ≠ 0x0101 then s
  else s.received p fun s =>
    let s := s.bump (ethIndex p) 0x29
    if !bitOf (beAt b 2 2) pcp then s
    else
      let q := beAt b (4 + 2 * pcp) 2
      let s := if q = 0 then s else s.flushData p
      let since := if s.dataHeld p then s.eth.ports[p].heldSince else some s.now
      let s := s.modPort p fun x => { x with heldSince := since, heldUntil := s.now + s.quantaCycles p q }
      if q = 0 then s.flushData p else s

/-- PFC_REFRESH: 100 µs after the last pause sent, while the data buffer is above 96 KiB. -/
def State.refreshPfc (s : State) (p : EthNo) : State :=
  let q := s.eth.ports[p]
  if !q.pausing || q.dataFill ≤ 98304 || !s.linkUp p then s
  else
    let s := s.at_ (q.pausedAt + 10000)
    (s.modPort p fun q => { q with pausedAt := s.now }).sendPfc p 0xFFFF

/-- PFC_WATCHDOG: the data class has been held for longer than 0x2A00:06. -/
def State.pfcWatchdog (s : State) (p : EthNo) : State :=
  let q := s.eth.ports[p]
  match q.heldSince with
  | none => s
  | some t =>
    let due := t + 100000 * s.nat 0x2A00 6
    if q.heldUntil ≤ due ∨ q.heldUntil ≤ s.now ∨ q.discarding then s
    else
      let s := (s.at_ due).modPort p fun q => { q with discarding := true, queue := [] }
      (s.bump (ethIndex p) 0x2A).raise 0x7025

/-! ### Stop frames (R446 to R449) -/

/-- Check 1 of R447. -/
def stopWellFormed (b : Bytes) : Bool :=
  let auth := bitOf (byteAt b 16) 0
  b.length == (if auth then 40 else 24) && byteAt b 0 == 0x10 && (byteAt b 1 == 1 || byteAt b 1 == 2)
    && beAt b 4 4 ≤ 600000 && fieldAt b 16 1 7 == 0 && allZero (slice b 17 7)

/-- The enabled slot a stop frame names (check 2). -/
def State.stopSlot (s : State) (b : Bytes) : Option SlotNo :=
  allSlots.find? fun k => s.slotOn k && s.slotNat k 0x53 == beAt b 2 2

/-- Check 3 of R447: the tag, or on an unprotected stream the sender. -/
def State.stopFrom (s : State) (k : SlotNo) (src : Bytes) (sport : Nat) (b : Bytes) : Bool :=
  if s.slotNat k 0x54 = 1 then
    bitOf (byteAt b 16) 0 &&
      match s.owners[s.slotOwner k].result with
      | none => false
      | some key =>
        let nonce := xorBytes (slice key.salt 0 4) [0x80, 0, 0, 0] ++ slice b 8 8
        (gcmOpen key.key nonce (b.take 24) [] (b.drop 24)).isSome
  else
    let d := s.destination k
    src == slice d 0 16 && sport == beAt d 16 2

/-- Check 4 of R447; frames of one cycle count in ascending order, whatever order they come in (R448). -/
def StopState.fresh (x : StopState) (now q : Nat) : Bool :=
  if !x.inCycle.isEmpty ∧ x.lastAt = now then x.before.all (· < q) && !x.inCycle.contains q else x.lastSeq.all (· < q)

/-- A sequence accepted. -/
def StopState.note (x : StopState) (now q : Nat) : StopState :=
  if !x.inCycle.isEmpty ∧ x.lastAt = now then
    { x with
      lastSeq := some (max q (x.lastSeq.getD q))
      inCycle := q :: x.inCycle }
  else
    { x with
      lastSeq := some q
      lastAt := now
      before := x.lastSeq
      inCycle := [q] }

/-- The stream a stop frame is accepted for (R447). -/
def State.stopAccepted (s : State) (src : Bytes) (sport : Nat) (b : Bytes) : Option SlotNo :=
  if !stopWellFormed b then none
  else (s.stopSlot b).filter fun k =>
    s.stopFrom k src sport b && s.slots[k].stop.fresh s.now (beAt b 8 8)

/-- A stop frame received: rejected and counted, or its sequence noted and its command `f` carried out, or `g` where a later
command of the same cycle stands (R448). Command `cmd` is the row's: a well-formed frame of the other command is not this
row's. -/
def State.stopFrame (s : State) (cmd : Nat) (p : EthNo) (src : Bytes) (sport : Nat) (b : Bytes)
    (f g : State → SlotNo → State) : State :=
  if (byteAt b 1 = 1 ∨ byteAt b 1 = 2) ∧ byteAt b 1 ≠ cmd then s
  else s.received p fun s =>
    match s.stopAccepted src sport b with
    | none => (s.bump (ethIndex p) 0x2C).raiseOnce 0x7024 p
    | some k =>
      let q := beAt b 8 8
      let late := s.slots[k].stop.lastSeq.any (q < ·)
      let s := (s.bump (ethIndex p) 0x2B).modSlot k fun sl => { sl with stop := sl.stop.note s.now q }
      if late then g s k else f s k

/-- STOP_COMMAND: queued datagrams are discarded; the stop holds for `hold` ms or until a release (R448). -/
def State.stopCame (s : State) (p : EthNo) (src : Bytes) (sport : Nat) (b : Bytes) : State :=
  s.stopFrame 1 p src sport b (fun s k =>
    let hold := beAt b 4 4
    (s.dropJobs k).modSlot k fun sl =>
      { sl with
        stop := { sl.stop with
          stopped := true
          holdEnd := if hold = 0 then none else some (s.now + 100000 * hold) } }) fun s k => s.dropJobs k

/-- RELEASE_COMMAND. -/
def State.releaseCame (s : State) (p : EthNo) (src : Bytes) (sport : Nat) (b : Bytes) : State :=
  s.stopFrame 2 p src sport b (fun s k => s.releaseResult k) fun s _ => s

/-- STOP_HOLD_EXPIRY. -/
def State.holdEnds (s : State) (k : SlotNo) : State :=
  match s.slots[k].stop.stopped, s.slots[k].stop.holdEnd with
  | true, some t => (s.at_ t).releaseResult k
  | _, _ => s

/-! ### Commands -/

def execEthLinkUp (at_ : Nat) (p : EthNo) (s : State) : Answer := live s ((s.at_ at_).linkComesUp p)
def execEthLinkDown (at_ : Nat) (p : EthNo) (s : State) : Answer := live s ((s.at_ at_).linkGoesDown p)
def execEthUnsupportedFrame (p : EthNo) (u : Unsupported) (s : State) : Answer := live s (s.unsupported p u)
def execArpRequest (p : EthNo) (mac sender target : Bytes) (s : State) : Answer := live s (s.arpAsked p mac sender target)
def execArpReply (p : EthNo) (mac sender : Bytes) (s : State) : Answer := live s (s.arpAnswered p mac sender)
def execNdMessage (p : EthNo) (m : NdMessage) (s : State) : Answer := live s (s.ndCame p m)
def execIcmpEchoRequest (p : EthNo) (dst src body : Bytes) (s : State) : Answer := live s (s.echoAsked p dst src body)
def execMulticastQuery (p : EthNo) (six : Bool) (group : Bytes) (s : State) : Answer := live s (s.queryCame p six group)
def execPfcFrame (at_ : Nat) (p : EthNo) (b : Bytes) (s : State) : Answer := live s ((s.at_ at_).pfcCame p b)
def execPfcRefresh (p : EthNo) (s : State) : Answer := live s (s.refreshPfc p)
def execPfcWatchdog (p : EthNo) (s : State) : Answer := live s (s.pfcWatchdog p)
def execStopCommand (at_ : Nat) (p : EthNo) (src : Bytes) (sport : BitVec 16) (b : Bytes) (s : State) : Answer :=
  live s ((s.at_ at_).stopCame p src sport.toNat b)
def execReleaseCommand (at_ : Nat) (p : EthNo) (src : Bytes) (sport : BitVec 16) (b : Bytes) (s : State) : Answer :=
  live s ((s.at_ at_).releaseCame p src sport.toNat b)
def execStopHoldExpiry (k : SlotNo) (s : State) : Answer := live s (s.holdEnds k)

end Sys2Proof.Machine
end

