-- ==== Sys2Proof/Machine/Fences.lean ====
section
/-! DEFINITION. Fencing, unfencing, weight reloads, ring notices and the EMCY queue as commands
(spec/19_faults_and_availability.md R508 to R524). -/

namespace Sys2Proof.Machine

/-! ### Fence and unfence (R508, R511, R517) -/

/-- Whether a value names an isle in a state. -/
def isleIn (s : State) (v : OdVal) (p : IslePhase) : Bool := s.isles[(Fin.ofNat 16 v.int.toNat : IsleNo)].health.phase == p

/-- The act of a write to 0x2300:03: reason 7. -/
def fenceAct : Act := guarded (fun _ v s => isleIn s v .available) (always fun _ v s => s.trigger (Fin.ofNat 16 v.int.toNat) 7)

/-- The hang limit: the entry, or twice the longest planned op (R508). -/
def State.hangLimit (s : State) : Nat := max (s.nat 0x2300 0x0A) (2 * ((s.plansInForce.map (·.longestOp)).foldl max 0))

/-- ISLE_HANG: the op a context runs reaches the hang limit. -/
def State.hang (s : State) (k : IsleNo) (c : CtxNo) : State :=
  let x := s.ctx k c
  if x.phase ≠ .running ∨ s.nat 0x2700 1 ≠ 0 then s
  else ((s.at_ (x.runSince + (s.hangLimit - x.ranFor))).raise 0x3F0A { isle := k }).trigger k 5

/-- FENCE_COMPLETE: at the boundary that ends the tick after the one in which the fence began (R511). -/
def State.completeFence (s : State) (k : IsleNo) : State :=
  let h := s.isles[k].health
  let passed : Bool := decide (h.fenceBegan + 2 ≤ s.tick.number)
  if h.phase ≠ .fencing ∨ s.tick.number < h.fenceBegan + 1 then s
  else
    let s := if passed then s else s.at_ s.tick.next
    let s := s.modIsle k fun i => { i with health := { i.health with phase := .fenced } }
    let s := s.each allSlots State.loseArgmax
    let s := ((s.bump 0x2300 0x0C).raise 0x3F02 { isle := k }).settleAvail.settleClocks
    if passed then s.shedTest else s

/-- Whether an unfence of an isle may begin (R517). -/
def mayUnfence (s : State) (v : OdVal) : Bool := isleIn s v .fenced && !s.someFencing

/-- The isle tests: its scratchpad is formatted to zero (R517 step 1). -/
def State.beginUnfence (s : State) (k : IsleNo) : State :=
  let s := s.modIsle k fun i =>
    { i with
      health := { i.health with phase := .testing, reloads := [] }
      sp := { i.sp with cells := [], tags := [], upsets := [], toFormat := [] } }
  s.settleClocks.settleError

/-- The act of a write to 0x2300:04. -/
def unfenceAct : Act := guarded (fun _ v s => mayUnfence s v) (always fun _ v s => s.beginUnfence (Fin.ofNat 16 v.int.toNat))

/-- The owner of the layers that keep weights in a row. -/
def State.rowOwner (s : State) (row : Nat) : OwnerNo :=
  match s.tick.programme with
  | none => 0
  | some p => ((p.layers.find? fun l => l.weightRows.any fun r => r.1 ≤ row && row ≤ r.2).map (·.owner)).getD 0

/-- A deployed weight as the refresh makes it from a master under shift `k` (R356). -/
def refreshed (k : Nat) (b : Bytes) : Byte := byte (unsigned 8 (satS 8 (rneShr (leIntAt b 0 2) k)))

/-- Both sets of an adaptation descriptor rebuilt in an isle from the read half's masters, or from the plan where there is no read half;
whether the masters could be read. A read error is one of adaptation state (R346, R356). -/
def State.rebuildSets (s : State) (isle : IsleNo) (k : SlotNo) (d : Nat) : Bool × State :=
  match s.adaptImage k d, s.slots[k].adapt.find? (·.desc == d) with
  | some m, some a =>
    let b := s.adaptDesc k d
    if !m.isles.contains isle then (true, s)
    else
      match a.readHalf with
      | none => (true, s.loadSets k isle m m.weights)
      | some one =>
        let at_ := adStateBase b + (if one then adStateHalf b else 0) + 4096 + 128 * (adWeights b / 32)
        match s.readExt (s.slotOwner k) false at_ (2 * adWeights b) with
        | (none, bs, s) => (true, s.loadSets k isle m ((chunks 2 bs).map (refreshed (adMasterShift b))))
        | (some _, _, s) =>
          (false, (s.raise 0x3A04 { slot := k, isle := isle }).modSlot k (·.modAdapt d fun a => { a with resetPending := true }))
  | _, _ => (true, s)

/-- The end of step 2 of an unfence: every adaptation set rebuilt in the isle; whether all masters could be read (R517). -/
def State.reloadIsle (s : State) (k : IsleNo) : Bool × State :=
  (allSlots.flatMap fun n => s.slots[n].adapt.map fun a => (n, a.desc)).foldl
    (fun (p : Bool × State) a => let q := p.2.rebuildSets k a.1 a.2; (p.1 && q.1, q.2)) (true, s)

/-- ISLE_UNFENCED: the tests and reloads end, `ok` when none failed; the isle returns at the boundary after its adaptation sets are
rebuilt. -/
def State.endUnfence (s : State) (k : IsleNo) (ok : Bool) : State :=
  if s.isles[k].health.phase ≠ .testing then s
  else
    let (built, s) := if ok then s.reloadIsle k else (false, s)
    if !built then s.trigger k 0 else
    let s := if s.now = s.tick.boundary then s else s.at_ s.tick.next
    let s := s.modIsle k fun i => { i with health := { i.health with phase := .available } }
    ((s.returnMask k).raise 0x3F08 { isle := k }).settleAvail.settleClocks

/-! ### Weight reloads (R518) -/

/-- A row of an isle's scratchpad loaded with weights, under the owner of the layers that keep them there. -/
def State.loadRow (s : State) (k : IsleNo) (row : Nat) (data : Bytes) : State :=
  let o := s.rowOwner row
  s.modSp k fun p => (List.range 64).foldl (fun p w => p.put (64 * row + w) (slice data (32 * w) 32) o) p

/-- WEIGHTS_RELOADED: a row that awaited its reload has arrived, and the isle's bits return at the next boundary; in an isle that is being
tested a row of resident weights has been loaded (R517 step 2; that it comes by this row is a DESIGN CHOICE, log entry 147). -/
def State.reloadRow (s : State) (k : IsleNo) (row : Nat) (data : Bytes) : State :=
  if s.isles[k].health.phase = .testing then s.loadRow k row data
  else if !(s.isles[k].health.reloads.any fun r => r.1 == row && !r.2) then s
  else
    ((s.loadRow k row data).modIsle k fun i =>
      { i with health := { i.health with reloads := kvPut row true i.health.reloads } }).raise 0x3F0B { isle := k }

/-! ### Ring notices (R519) -/

/-- The act of a write to 0x2600:11. -/
def clearNoticeAct : Act := always fun _ v s =>
  s.modSlot (Fin.ofNat 48 v.int.toNat) fun sl =>
    { sl with mark := { sl.mark with notice := false, highWater := ringLevel sl.entries } }

/-! ### EMCY (R523, R524) -/

/-- The EMCY COB-ID of a port: its value, else 0x80 plus its node-ID; and its inhibit time in reference cycles (R464). -/
def State.emcyCob (s : State) (p : CanNo) : Nat :=
  let v := s.nat 0x1014 p
  if v = 0 then 0x80 + s.can[p].nodeId else v - 1
def State.emcyInhibit (s : State) (p : CanNo) : Nat := s.nat 0x1015 p * 10000

/-- The bytes of an EMCY (CiA 1301 order, PRESUMED, log entry 48). -/
def Emcy.bytes (m : Emcy) : Bytes := toLe 2 m.code ++ [byte m.register] ++ m.data

/-- EMCY_TRANSMIT: the oldest message of a port leaves once the inhibit time has passed since the last. -/
def State.sendEmcy (s : State) (p : CanNo) : State :=
  match s.can[p].emcy with
  | [] => s
  | m :: ms =>
    if !s.can[p].canEmcy || s.can[p].status == .busOff then s
    else
      let s := match s.can[p].emcyAt with
        | some t => s.at_ (t + s.emcyInhibit p)
        | none => s
      let s := s.modCan p fun c => { c with emcy := ms, emcyAt := some s.now }
      let cob := s.emcyCob p
      if cob.testBit 31 then s else s.emit (.can p (cob % 2 ^ 29) m.bytes)

/-! ### Commands -/

def execFenceCommand (w : Write) (b : Bytes) (s : State) : Answer := live s (s.odRun w 0x2300 3 b fenceAct)
def execIsleHang (k : IsleNo) (c : CtxNo) (s : State) : Answer := live s (s.hang k c)
def execFenceComplete (k : IsleNo) (s : State) : Answer := live s (s.completeFence k)
def execUnfenceCommand (w : Write) (b : Bytes) (s : State) : Answer := live s (s.odRun w 0x2300 4 b unfenceAct)
def execIsleUnfenced (at_ : Nat) (k : IsleNo) (ok : Bool) (s : State) : Answer := live s ((s.at_ at_).endUnfence k ok)
def execWeightsReloaded (at_ : Nat) (k : IsleNo) (row : Fin 12288) (data : Bytes) (s : State) : Answer :=
  live s ((s.at_ at_).reloadRow k row data)
def execClearRingNotice (w : Write) (b : Bytes) (s : State) : Answer := live s (s.odRun w 0x2600 0x11 b clearNoticeAct)
def execEmcyTransmit (p : CanNo) (s : State) : Answer := live s (s.sendEmcy p)

end Sys2Proof.Machine
end

