-- ==== Sys2Proof/Machine/LedgerCore.lean ====
section
/-! DEFINITION. The usage ledger: ledger time, records in MRAM, closing an interval, clock steps, the power-fail commit
(spec/20_owners_and_ledger.md R539 to R546). -/

namespace Sys2Proof.Machine

/-! ### Ledger time (R539, R540) -/

/-- Ledger time in ms, and in seconds. -/
def State.ledgerMs (s : State) : Int := s.ledger.timeMs + ((s.now - s.ledger.timeAt : Nat) : Int) / 100000
def State.ledgerSeconds (s : State) : Int := s.ledgerMs / 1000

/-- Ledger time in ms by PTP: UTC plus the local offset in force. -/
def State.ptpMs (s : State) : Int := s.deviceNs / 1000000 - 1000 * s.eth.ptp.utcOffset + 1000 * s.ledger.offset

/-- The first aligned boundary after a time in ms, in seconds. -/
def alignedAfter (len : Nat) (ms : Int) : Int := (ms / (60000 * len : Nat) + 1) * (60 * len : Nat)

/-- The band at a time in seconds (R541): of the entry with the largest start not above it among those of its day. -/
def bandAt (schedule : Bytes) (t : Int) : Nat :=
  let day := ((t / 86400 + 3) % 7).toNat
  let minute := ((t % 86400) / 60).toNat
  let mine := (chunks 4 schedule).filter fun e => bitOf (byteAt e 0) day && leAt e 1 2 ≤ minute
  (mine.foldl (fun (b : Option Bytes) e =>
    match b with
    | none => some e
    | some x => if leAt x 1 2 ≤ leAt e 1 2 then some e else some x) none).elim 0 fun e => byteAt e 3

/-- Whether the ledger's firmware runs: not in recovery mode, where only the ROM's service does (R489). -/
def State.ledgerRuns (s : State) : Bool := s.nat 0x2000 8 != 2

/-! ### Records (R543) -/

/-- What a record says beside the totals. -/
structure RecordHead where
  kind : Nat
  powerFail : Bool := false
  tariff : Bool := false
  capped : Bool := false
  interval : Nat
  band : Nat
  nextBand : Nat
  length : Nat
  opened : Nat
  step : Int := 0
  deriving DecidableEq, Repr

/-- The bytes of a record, but its crc. -/
def State.recordBody (s : State) (h : RecordHead) : Bytes :=
  let l := s.ledger
  let flag (b : Bool) (v : Nat) : Nat := if b then v else 0
  [0x10, byte h.kind, byte (flag h.powerFail 1 + flag h.tariff 2 + flag h.capped 4 + flag (!l.known) 8), 0]
    ++ toLe 4 l.nextRecord ++ toLe 4 h.interval ++ [byte h.band, byte h.nextBand] ++ toLe 2 h.length ++ toLe 6 h.opened
    ++ toLe 6 (unsigned 48 s.ledgerSeconds) ++ toLe 6 s.tick.number ++ zeros 2 ++ toLe 8 (unsigned 64 h.step) ++ zeros 20
    ++ (l.interval.toList.flatMap fun t => toLe 6 t.ops ++ toLe 8 t.bytes ++ toLe 4 (t.energy / 1000))
    ++ (l.cumulative.toList.flatMap fun t => toLe 8 t.ops ++ toLe 8 t.bytes ++ toLe 8 (t.energy / 1000))
    ++ zeros 284

/-- A record with its crc. -/
def sealRecord (b : Bytes) : Bytes := b ++ toLe 4 (crc32 b)

/-- Whether an MRAM slot holds a valid record. -/
def recordValid (b : Bytes) : Bool := b.length == 1024 && leAt b 1020 4 == crc32 (b.take 1020) && byteAt b 0 == 0x10

/-- A record written; after each failed read-back it is written again into the next slot (R544). -/
def State.writeRecord (s : State) (h : RecordHead) : Nat → State
  | 0 =>
    let n := s.ledger.nextRecord
    let b := sealRecord (s.recordBody h)
    (s.modLedger fun l =>
      { l with
        mram := l.mram.set (Fin.ofNat 16 n) b
        nextRecord := (n + 1) % 2 ^ 32
        lastAt := s.now
        lastKind := h.kind
        lastStep := h.step }).bump 0x2400 7
  | fails + 1 =>
    let n := s.ledger.nextRecord
    let s := s.modLedger fun l => { l with mram := l.mram.set (Fin.ofNat 16 n) [], nextRecord := (n + 1) % 2 ^ 32 }
    (s.raise 0xB005).writeRecord h fails

/-- The head of a record about the open interval. -/
def State.openHead (s : State) (kind : Nat) : RecordHead :=
  let band := s.nat 0x2400 5
  { kind := kind, interval := s.nat 0x2400 4, band := band, nextBand := band, length := s.ledger.length
    opened := s.ledger.openSeconds }

/-! ### Intervals (R539, R541) -/

/-- Reference cycles the interval may still stay open from when it opened or was resumed: 2 x L of powered time. -/
def State.intervalCap (s : State) : Nat := 2 * s.ledger.length * 60 * 100000000 - s.ledger.openFor

/-- The reference cycle in which the open interval closes: its nominal end in ledger time, or its cap. -/
def State.intervalDue (s : State) : Nat :=
  let left := 1000 * (s.nat 0x2400 6 : Int) - s.ledger.timeMs
  min (s.ledger.timeAt + left.toNat * 100000) (s.ledger.openedAt + s.intervalCap)

/-- An interval opens now under the settings the entries hold. -/
def State.openInterval (s : State) (number band : Nat) (nominalEnd : Int) : State :=
  let s := ((s.setNum 0x2400 4 (number % 2 ^ 32 : Nat)).setNum 0x2400 5 band).setNum 0x2400 6 nominalEnd
  s.modLedger fun l => { l with openSeconds := s.ledgerSeconds.toNat, openedAt := s.now, openFor := 0 }

/-- Settings of the ledger taken from the entries; ledger time moves with the local offset (R541). -/
def State.takeLedgerSettings (s : State) : State :=
  let off := s.num 0x2400 2
  s.modLedger fun l =>
    { l with
      length := s.nat 0x2400 1
      offset := off
      schedule := (s.entry 0x2400 3).bytes
      timeMs := l.timeMs + 1000 * (off - l.offset) }

/-- The open interval closes and the next opens (R539, R541, R546). -/
def State.closeInterval (s : State) (powerFail : Bool) (fails : Nat) : State :=
  let old := s.openHead 1
  let capped := s.ledgerMs < 1000 * (s.nat 0x2400 6 : Int)
  let t := s.takeLedgerSettings
  let len := t.ledger.length
  let nominalEnd := alignedAfter len t.ledgerMs
  let next := bandAt t.ledger.schedule (nominalEnd - (60 * len : Nat))
  let h := { old with powerFail := powerFail, tariff := next != old.band, capped := capped, nextBand := next }
  let s := s.writeRecord h fails
  let s := s.takeLedgerSettings
  let s := s.modLedger fun l =>
    { l with interval := l.interval.map fun (x : Totals) => ({ energy := x.energy % 1000 } : Totals) }
  let s := (s.openInterval (old.interval + 1) next nominalEnd).raise 0xB001
  if next ≠ old.band then s.raise 0xB002 else s

/-- INTERVAL_CLOSED: at the nominal end or the cap. -/
def State.intervalEnds (s : State) (fails : Nat) : State :=
  if s.ledgerRuns then (s.at_ s.intervalDue).closeInterval false fails else s

/-! ### Clock steps (R540, R542) -/

/-- Two records of one reference cycle, a clock step and a power-fail commit, are one (R546): the later takes the place of the
earlier. -/
def State.mergeRecord (s : State) (kind : Nat) : State :=
  let l := s.ledger
  if l.lastAt = s.now ∧ l.lastKind = kind then s.modLedger fun l => { l with nextRecord := (l.nextRecord + 2 ^ 32 - 1) % 2 ^ 32 } else s

/-- Ledger time brought to PTP time: a change of more than 1 s is a clock step; a step forward past the nominal end closes the
interval at once. -/
def State.setLedgerTime (s : State) (known : Bool) : State :=
  let step := s.ptpMs - s.ledgerMs
  let ms := s.ptpMs
  let s := s.modLedger fun l => { l with timeMs := ms, timeAt := s.now, known := l.known || known }
  let s := if step.natAbs ≤ 1000 then s
    else
      let powerFail := s.ledger.lastAt == s.now && s.ledger.lastKind == 2
      let s := s.mergeRecord 2
      let h := s.openHead (if powerFail then 2 else 3)
      (s.writeRecord { h with step := step, powerFail := powerFail } 0).raise 0xB003
  if s.intervalDue ≤ s.now then s.closeInterval false 0 else s

/-! ### The power-fail commit (R545, R546) -/

/-- The counters freeze and a power-fail record is committed; `us` and `uj` are the measured duration and energy. -/
def State.commitPowerFail (s : State) (us uj fails : Nat) : State :=
  let s := if !s.ledgerRuns then s
    else if s.intervalDue ≤ s.now then s.closeInterval true fails
    else
      let step := if s.ledger.lastAt = s.now ∧ s.ledger.lastKind = 3 then s.ledger.lastStep else 0
      let s := s.mergeRecord 3
      let h := s.openHead 2
      s.writeRecord { h with powerFail := true, step := step } fails
  (s.setNum 0x2400 0x0B (us : Int)).setNum 0x2400 0x0C (uj : Int)

/-! ### Start (R544) -/

/-- The totals of a record: 16 of them from an offset, with the sizes of their fields. -/
def recordTotals (b : Bytes) (off size ops energy : Nat) : Vector Totals 16 :=
  Vector.ofFn fun o =>
    let a := off + size * o.val
    { ops := leAt b a ops, bytes := leAt b (a + ops) 8, energy := 1000 * leAt b (a + ops + 8) energy }

/-- The valid record with the highest number. -/
def newestRecord (mram : Vector Bytes 16) : Option Bytes :=
  (mram.toList.filter recordValid).foldl (fun (b : Option Bytes) r =>
    match b with
    | none => some r
    | some x => if laterFrame (leAt r 4 4) (leAt x 4 4) then some r else some x) none

/-- The ledger at start: from a power-fail record, from a close that served as one, or after a gap; without any record its
estimate starts from 0 s (R540; DEDUCED, log entry 46 for the first interval). -/
def State.resumeLedger (s : State) (fails : Nat) : State :=
  let s := s.takeLedgerSettings
  match newestRecord s.ledger.mram with
  | none =>
    let s := s.modLedger fun l => { l with timeMs := 0, timeAt := s.now }
    s.openInterval 0 (bandAt s.ledger.schedule 0) (60 * s.ledger.length : Nat)
  | some r =>
    let sec := signed 48 (leAt r 22 6)
    let s := s.modLedger fun l =>
      { l with
        timeMs := 1000 * sec
        timeAt := s.now
        nextRecord := (leAt r 4 4 + 1) % 2 ^ 32
        cumulative := recordTotals r 352 24 8 8 }
    let len := s.ledger.length
    let nominalEnd := alignedAfter len (1000 * sec)
    let number := leAt r 8 4
    if byteAt r 1 = 2 then
      let s := s.openInterval number (byteAt r 12) (alignedAfter (max 1 (leAt r 14 2)) (1000 * (leAt r 16 6 : Int)))
      let s := s.modLedger fun l => 
        { l with
          interval := recordTotals r 64 18 6 4
          openSeconds := leAt r 16 6
          openFor := 100000000 * (sec - leAt r 16 6).toNat }
      if 1000 * (s.nat 0x2400 6 : Int) ≤ s.ledgerMs then s.closeInterval false fails else s
    else if byteAt r 1 = 1 ∧ bitOf (byteAt r 2) 0 then s.openInterval (number + 1) (byteAt r 13) nominalEnd
    else
      let closed := byteAt r 1 = 1
      let lost := if closed then number + 1 else number
      let band := byteAt r (if closed then 13 else 12)
      let h : RecordHead :=
        { kind := 4
          interval := lost
          band := band
          nextBand := band
          length := leAt r 14 2
          opened := leAt r (if closed then 22 else 16) 6 }
      let s := ((s.writeRecord h fails).raise 0xB004).bump 0x2400 0x0A
      s.openInterval (lost + 1) (bandAt s.ledger.schedule (nominalEnd - (60 * len : Nat))) nominalEnd

end Sys2Proof.Machine
end

