-- ==== Sys2Proof/Machine/FirmwareCore.lean ====
section
/-! DEFINITION. Images, their verification, the boot record and the settings banks (spec/18_firmware_and_update.md R482 to R491,
R496, R501). -/

namespace Sys2Proof.Machine

/-! ### Image headers (R484). An empty string stands for the image the device is shipped with, of firmware this manual
describes (R467; DESIGN CHOICE, log entry 49). -/

def imgFirmware (b : Bytes) : Nat := if b = [] then Config.factory 0 else leAt b 4 4
def imgSecurity (b : Bytes) : Nat := leAt b 8 2
def imgSettings (b : Bytes) : Nat := if b = [] then 0x0100 else leAt b 10 2
def imgHandoff (b : Bytes) : Nat := if b = [] then Config.factory 1 else leAt b 12 2
def imgHandoffMin (b : Bytes) : Nat := if b = [] then Config.factory 2 else leAt b 14 2
def imgSegments (b : Bytes) : Nat := byteAt b 32

/-- The protocol pairs of an image: major and highest minor, as 0x2000:06 reads them. -/
def imgProtocols (b : Bytes) : Bytes :=
  if b = [] then [1, 0] else ((chunks 2 (slice b 16 16)).filter fun p => !allZero p).flatten

/-- Segment entry `i`: its core, offset, length and hash. -/
def segEntry (b : Bytes) (i : Nat) : Bytes := slice b (64 + 64 * i) 64
def segCore (e : Bytes) : Nat := byteAt e 0
def segOffset (e : Bytes) : Nat := leAt e 4 4
def segLength (e : Bytes) : Nat := leAt e 8 4

/-- The segment entries in use. -/
def segEntries (b : Bytes) : List Bytes := (List.range (imgSegments b)).map (segEntry b)

/-- The size of an image slot. -/
def slotBytes : Nat := 24 * 1024 * 1024

/-- Reserved fields of a segment entry, and of a signature entry, are zero. -/
def segReservedOk (e : Bytes) : Bool := allZero (slice e 1 3) && allZero (slice e 12 4)
def sigEntry (b : Bytes) (k : Nat) : Bytes := slice b (1088 + 200 * k) 200
def sigReservedOk (e : Bytes) : Bool := fieldAt e 0 1 7 == 0 && allZero (slice e 1 7)

/-- Check 1 of R486. -/
def imgFormatOk (b : Bytes) : Bool :=
  let n := imgSegments b
  let es := segEntries b
  byteAt b 0 == 0x10 && byteAt b 1 == 0 && leAt b 2 2 == 0x4816 && 7 ≤ n && n ≤ 16 && allZero (slice b 33 31)
    && allZero (slice b 1488 2608)
    && es.all (fun e => segReservedOk e && segCore e ≤ 7 && segOffset e % 4096 == 0 && 4096 ≤ segOffset e
        && segOffset e + segLength e ≤ slotBytes)
    && (List.range (16 - n)).all (fun i => allZero (segEntry b (n + i)))
    && (List.range 7).all (fun c => es.countP (fun e => segCore e == c) == 1)
    && sigReservedOk (sigEntry b 0) && sigReservedOk (sigEntry b 1)
    && imgProtocols b != []

/-- Whether signature entry `k` is present, and whether it is valid (R485). -/
def sigPresent (b : Bytes) (k : Nat) : Bool := bitOf (byteAt (sigEntry b k) 0) 0
def sigValid (b : Bytes) (k : Nat) : Bool :=
  let e := sigEntry b k
  !(Config.fuse 5).testBit (4 + k) && (Config.fuse 5).testBit k && beNat (sha384 (slice e 8 96)) == Config.fuse (7 + k)
    && ecdsaVerify (beAt e 8 48) (beAt e 56 48) (sha384 (b.take 1088)) (beAt e 104 48) (beAt e 152 48)

/-- Check 3 of R486. -/
def imgSigned (b : Bytes) : Bool :=
  (sigPresent b 0 || sigPresent b 1) && [0, 1].all fun k => !sigPresent b k || sigValid b k

/-- Check 4 of R486. -/
def imgHashed (b : Bytes) : Bool :=
  (segEntries b).all fun e => sha384 (slice b (segOffset e) (segLength e)) == slice e 16 48

/-- The first check an image fails, without the rules of R496. -/
def verifyImage (b : Bytes) : Option Nat :=
  if b = [] then none
  else firstFailure
    [(!imgFormatOk b, 0x9003), (imgSecurity b < Config.fuse 6, 0x9005), (!imgSigned b, 0x9001), (!imgHashed b, 0x9002)]

/-! ### What runs -/

/-- The protocol pairs of the running image (R467). -/
def State.protocols (s : State) : Bytes := imgProtocols s.fw.runningImage

/-- The settings format the running image writes. -/
def State.settingsProtocol (s : State) : Nat := imgSettings s.fw.runningImage

/-- The highest minor version listed for a major. -/
def minorFor (pairs : Bytes) (major : Nat) : Option Nat :=
  ((chunks 2 pairs).find? fun p => byteAt p 0 == major).map fun p => byteAt p 1

/-- The compatibility rules of R496 between the running image and a new one. -/
def State.compatible (s : State) (b : Bytes) : Bool :=
  let r := s.fw.runningImage
  imgHandoffMin r ≤ imgHandoff b && imgHandoffMin b ≤ imgHandoff r
    && s.settingsProtocol / 256 ≤ imgSettings b / 256
    && s.od.reqs.toList.all fun q => q.nego != .agreed || (minorFor (imgProtocols b) (q.agreed / 256)).isSome

/-! ### The boot record (R483) -/

/-- The record in force: the valid copy with the later sequence. -/
def FlashState.record (f : FlashState) : BootRecord :=
  match f.record0, f.record1 with
  | some a, some b => if laterFrame b.sequence a.sequence then b else a
  | some a, none => a
  | none, some b => b
  | none, none => { state0 := .empty }

/-- The record written: into the copy that is not in force, its sequence one higher. -/
def FlashState.write (f : FlashState) (r : BootRecord) : FlashState :=
  let cur := f.record
  let r := { r with sequence := (cur.sequence + 1) % 2 ^ 32 }
  if f.record0 = some cur then { f with record1 := some r } else { f with record0 := some r }

/-- The state of an image slot, and a record with it changed. -/
def BootRecord.phase (r : BootRecord) (slot : Bool) : ImagePhase := if slot then r.state1 else r.state0
def BootRecord.setPhase (r : BootRecord) (slot : Bool) (p : ImagePhase) : BootRecord :=
  if slot then { r with state1 := p } else { r with state0 := p }

/-- The image in a slot. -/
def FlashState.image (f : FlashState) (slot : Bool) : Bytes := if slot then f.image1 else f.image0

/-- The slot in a state. -/
def BootRecord.find (r : BootRecord) (p : ImagePhase) : Option Bool :=
  if r.state0 = p then some false else if r.state1 = p then some true else none

/-- The record in force, and the state with it written. -/
def State.boot (s : State) : BootRecord := s.fw.flash.record
def State.setBoot (s : State) (f : BootRecord → BootRecord) : State :=
  s.modFw fun w => { w with flash := w.flash.write (f w.flash.record) }

/-! ### Settings (R464, R490, R501) -/

/-- Under this subindex of 0x2900 the state keeps one more than the node number last written; 0 when none was (R393). -/
def nodeWritten : Nat := 0x81

/-- Entries a store keeps: those a supervisor sets, but for commands and values of the moment. -/
def storedEntry (i sub : Nat) : Bool :=
  if i = 0x2900 ∧ sub = nodeWritten then true
  else match odFind i (if i = 0x1014 ∨ i = 0x1015 then 0 else sub) with
    | none => false
    | some r =>
      (r.acc == .rw || r.acc == .rwe || r.acc == .rwf) && i != 0x1010 && i != 0x1011 && i != 0x2001
        && !(i == 0x2900 && (sub == 0x0A || sub == 1)) && !(i == 0x2100 && sub == 0x0F)

/-- Keys of pending values in a settings bank follow those of values in force. -/
def pendKey (k : Nat) : Nat := k + 2 ^ 24

/-- The front images of the slots as values of a bank (R116). -/
def State.frontValues (s : State) : List (Nat × OdVal) :=
  (allSlots.filterMap fun k =>
      if s.slots[k].front = [] then none else some (odKey (slotIndex k) 0x20, OdVal.raw s.slots[k].front)) ++
    allSlots.filterMap fun k => (s.slots[k].frontShadow).map fun b => (pendKey (odKey (slotIndex k) 0x20), OdVal.raw b)

/-- What a store writes: values in force, pending ones as pending, and the format's version. -/
def State.bankContent (s : State) : List (Nat × OdVal) :=
  let keep (e : Nat × OdVal) : Bool := storedEntry (e.1 / 256) (e.1 % 256)
  let pend := (s.od.pendE ++ s.od.pendF ++ s.od.pendLate).filter keep
  let all := s.od.vals.filter keep ++ pend.map (fun e => (pendKey e.1, e.2)) ++ s.frontValues
  all.foldl (fun m e => kvPut e.1 e.2 m) [(odKey 0x2000 9, OdVal.num (s.settingsProtocol : Nat))]

/-- A bank, and the flash with it replaced. -/
def FlashState.bank (f : FlashState) (one : Bool) : List (Nat × OdVal) := if one then f.bank1 else f.bank0
def FlashState.setBank (f : FlashState) (one : Bool) (b : List (Nat × OdVal)) : FlashState :=
  if one then { f with bank1 := b } else { f with bank0 := b }

/-- The bank a store writes: the home bank, or during a trial the other one. -/
def State.storeBank (s : State) : Bool := if (s.boot.find .trial).isSome then !s.fw.flash.home else s.fw.flash.home

/-- A store; it erases the bank that a confirmation has left behind. -/
def State.storeSettings (s : State) : State :=
  let one := s.storeBank
  let f := s.fw.flash
  let f := if f.eraseOther then { f.setBank (!f.home) [] with eraseOther := false } else f
  (s.modFw fun w => { w with flash := f.setBank one s.bankContent }).setNum 0x2000 9 (s.settingsProtocol : Nat)

/-- A bank's values put into force, its pending ones pending. -/
def State.loadBank (s : State) (b : List (Nat × OdVal)) : State :=
  b.foldl (fun s e =>
    let k := e.1 % 2 ^ 24
    let pend := 2 ^ 24 ≤ e.1
    let i := k / 256
    let sub := k % 256
    if isSlotIndex i ∧ sub = 0x20 then
      s.modSlot (Fin.ofNat 48 (i - 0x3000)) fun sl =>
        if pend then { sl with frontShadow := some e.2.bytes } else { sl with front := e.2.bytes }
    else if pend then
      if (odFind i sub).any (·.acc == .rwf) then { s with od := { s.od with pendF := kvPut k e.2 s.od.pendF } }
      else { s with od := { s.od with pendE := kvPut k e.2 s.od.pendE } }
    else s.setEntry i sub e.2) s

end Sys2Proof.Machine
end

