-- ==== Sys2Proof/Machine/Ports.lean ====
section
/-! DEFINITION. The control ports, version negotiation, service, stored settings and the write-domain semaphore
(spec/17_object_dictionary.md R454 to R458, R464 to R475). -/

namespace Sys2Proof.Machine

/-! ### Ports (R454 to R458) -/

/-- Both control ports. -/
def allCan : List CanNo := [0, 1]

/-- The subindex base of a port in 0x2002, and its consumer heartbeat's subindex in 0x1016. -/
def canBase (p : CanNo) : Nat := 16 * p.val

/-- The requester that is a port's supervisor. -/
def portRequester (p : CanNo) : Requester := if p = 0 then .portA else .portB

/-- A port's settings taken from its entries (R455). -/
def State.applyCan (s : State) (p : CanNo) : State :=
  let b := canBase p
  s.modCan p fun c =>
    { c with
      enabled := s.nat 0x2002 (b + 1) == 1
      nodeId := (s.canNodeId b).toNat
      supervisor := s.nat 0x2002 (b + 5)
      nominalRate := s.nat 0x2002 (b + 3)
      dataRate := s.nat 0x2002 (b + 4) }

/-- Reference cycles of a time in ms. -/
def msCycles (n : Nat) : Nat := 100000 * n

/-- The next heartbeat of a port is due one period from now; never where the period is 0 (R457, R464). -/
def State.armHeartbeat (s : State) (p : CanNo) : State :=
  let ms := s.nat 0x1017 0
  s.modCan p fun c => { c with produceAt := if ms = 0 then none else some (s.now + msCycles ms) }

/-- An NMT command on a port (R458): it reaches only a port that is enabled and on the bus. -/
def State.nmt (s : State) (p : CanNo) (f : State → State) : State :=
  if s.can[p].enabled ∧ s.can[p].status ≠ .busOff then f s else s

/-- The state of a port set. -/
def State.setNmt (s : State) (p : CanNo) (n : NmtState) : State := s.modCan p fun c => { c with nmt := n }

/-- Reset communication: claims, negotiation and settings of the port (R458); the port then is pre-operational and announces
itself (PRESUMED, log entry 48). -/
def State.resetCommunication (s : State) (p : CanNo) : State :=
  let q := portRequester p
  let s := (s.freeDomains q).modReq q fun r => { r with nego := .none, version := 0, agreed := 0 }
  let s := (s.applyCan p).setNmt p .preOperational
  let s := if s.can[p].enabled then s.emit (.can p (0x700 + s.can[p].nodeId) [0]) else s
  s.armHeartbeat p

/-- The code of an NMT state in a heartbeat (CiA 1301). -/
def NmtState.code : NmtState → Nat
  | .initialising => 0 | .stopped => 4 | .operational => 5 | .preOperational => 127

/-- HEARTBEAT_PRODUCE. -/
def State.produceHeartbeat (s : State) (p : CanNo) : State :=
  match s.can[p].produceAt with
  | none => s
  | some t =>
    if !s.can[p].enabled then s
    else
      let s := (s.at_ t).modCan p fun c => { c with produceAt := some (t + msCycles (s.nat 0x1017 0)) }
      if s.can[p].status = .busOff then s
      else s.emit (.can p (0x700 + s.can[p].nodeId) [byte s.can[p].nmt.code])

/-- A lease restarts: 2 s from now (R473, R474). -/
def State.restartLease (s : State) (q : Requester) : State :=
  if s.heldMask q = 0 then s else s.modReq q fun r => { r with leaseEnd := s.now + 2 * 100000000 }

/-- HEARTBEAT_RECEIVE: from the port's supervisor it renews the port's leases (R474); from the node of its consumer entry it
answers that heartbeat (R464). -/
def State.heardHeartbeat (s : State) (p : CanNo) (node : Nat) : State :=
  let s := s.expireBefore s.now
  if !s.reaches (portRequester p) then s
  else
    let s := if node = s.can[p].supervisor then s.restartLease (portRequester p) else s
    let e := s.nat 0x1016 (p.val + 1)
    if e / 65536 = node ∧ e % 65536 ≠ 0 then s.modCan p fun c => { c with heartbeatAt := some s.now, lapsed := false } else s

/-- HEARTBEAT_LAPSE. -/
def State.heartbeatLapses (s : State) (p : CanNo) : State :=
  let ms := s.nat 0x1016 (p.val + 1) % 65536
  match s.can[p].heartbeatAt with
  | none => s
  | some t =>
    if s.can[p].lapsed || ms == 0 then s
    else ((s.at_ (t + msCycles ms)).modCan p fun c => { c with lapsed := true }).raise 0x800A

/-- The fault confinement state of a port changes (R456). -/
def State.setCan (s : State) (p : CanNo) (c : CanStatus) (code : Option Nat) : State :=
  if s.can[p].status = c then s
  else
    let s := s.modCan p fun x => { x with status := c }
    (match code with
      | some k => s.raise k
      | none => s).settleError

/-- USDO_FOREIGN_CLIENT (R455). -/
def State.foreign (s : State) (p : CanNo) (node : Nat) : State :=
  if !s.can[p].enabled || node == s.can[p].supervisor then s
  else (s.bump 0x2002 (canBase p + 7)).raiseOnce 0x8009 p

/-! ### Negotiation and service (R466 to R468) -/

/-- The act of a write to 0x2001:01. -/
def versionAct : Act := always fun w v s =>
  let n := v.int.toNat
  match minorFor s.protocols (n / 256) with
  | some m =>
    (s.modReq w.req fun r => { r with nego := .agreed, version := n, agreed := n / 256 * 256 + min (n % 256) m }).raise 0x8005
  | none => (s.modReq w.req fun r => { r with nego := .refused, version := n, agreed := 0 }).raise 0x8004

/-- The device enters service. -/
def State.enterService (s : State) : State :=
  if s.nat 0x2000 8 ≠ 0 then s
  else
    let s := (s.setNum 0x2000 8 1).modFw fun w =>
      { w with trialSince := if (w.flash.record.find .trial).isSome then some s.now else none }
    (s.raise 0x8006).settleError

/-- Whether a start enters service by itself (R468, R558). -/
def State.autoService (s : State) : Bool :=
  s.nat 0x2000 8 == 0 && s.mem.trained && s.nat 0x2700 2 != 0 && s.nat 0x2000 0x0A == 1
    && (s.nat 0x2000 9 == 0 || (minorFor s.protocols (s.nat 0x2000 9 / 256)).isSome)

/-- The act of a write to 0x2000:0B: while power is not yet good, or its memory is not trained, the device does not enter
service (R488, R558). -/
def startAct : Act := guarded (fun _ _ s => s.nat 0x2700 2 != 0 && s.mem.trained) (always fun _ _ s => s.enterService)

/-- The acts of the store and restore signatures (R464). -/
def storeAllAct : Act := always fun _ _ s => s.storeSettings
def restoreAct : Act := always fun _ _ s => s.modFw fun w => { w with flash := { w.flash with loadDefaults := true } }

/-! ### The semaphore (R469 to R475) -/

/-- A fresh token: nonzero, and not the one it replaces. -/
def freshToken (r old : Nat) : Nat :=
  let v := r % (2 ^ 32 - 2) + 1
  if old ≠ 0 ∧ old ≤ v then v + 1 else v

/-- A claim of a mask evaluated: granted whole under a new token, or refused (R472). -/
def State.claim (s : State) (q : Requester) (mask : Nat) : Nat × State :=
  let free := (List.finRange 8).all fun d => !mask.testBit d || s.od.holders[d] == none || s.od.holders[d] == some q
  if !free then (0x08000020, s.bump 0x2010 8)
  else
    let (n, s) := s.draw
    let holders := Vector.ofFn fun (d : Fin 8) => if mask.testBit d then some q else s.od.holders[d]
    let s := { s with od := { s.od with holders := holders } }
    (0, (s.modReq q fun r => { r with token := freshToken (Config.randomNat n) r.token }).restartLease q)

/-- The act of a write to 0x2010:01: leases that run out in the same reference cycle are free (R475). -/
def claimAct : Act := fun w v s => (s.expireBefore (s.now + 1)).claim w.req v.int.toNat

/-- Two claims of the ports with one stamp and overlapping masks: the round-robin bit names the one evaluated first. -/
def State.claimTie (s : State) (w : Write) (b other : Bytes) : State :=
  let w' : Write := { w with req := if w.req = .portA then .portB else .portA }
  let s := (s.at_ w.at_).expireBefore w.at_
  let contends (w : Write) (b : Bytes) : Option Nat :=
    match s.odAdmit w 0x2010 1 b with
    | .ok v => if s.reaches w.req then some v.int.toNat else none
    | .refused _ => none
  let first (w w' : Write) (b b' : Bytes) : State := (s.odRun w 0x2010 1 b claimAct).odRun w' 0x2010 1 b' claimAct
  match contends w b, contends w' other with
  | some x, some y =>
    if x &&& y = 0 then first w w' b other
    else
      let mine := (w.req == .portB) == s.od.tieToB
      let t := if mine then first w w' b other else first w' w other b
      { t with od := { t.od with tieToB := !s.od.tieToB } }
  | _, _ => first w w' b other

/-- A release or a renewal whose token does not match (R473). -/
def State.mismatch (s : State) (q : Requester) : State :=
  let s := (s.bump 0x2010 9).raiseOnce 0x8002 (reqNo q)
  let recent := ((s.requester q).mismatches.filter fun t => s.now < t + 100000000) ++ [s.now]
  if 8 ≤ recent.length then
    (s.modReq q fun r => { r with mismatches := [], limitEnd := some (s.now + 100000000) }).raise 0x8003
  else s.modReq q fun r => { r with mismatches := recent }

/-- A release or a renewal: refused without comparison in the refusal second, else compared. -/
def tokenAct (f : State → Requester → State) : Act := fun w v s =>
  let r := s.requester w.req
  if r.limitEnd.any (s.now < ·) then (0x08000020, s)
  else if r.token ≠ 0 ∧ v.int.toNat = r.token then (0, f s w.req)
  else (0x08000020, s.mismatch w.req)

/-- The acts of writes to 0x2010:03 and 0x2010:04. -/
def releaseAct : Act := tokenAct fun s q => s.freeDomains q
def renewAct : Act := tokenAct fun s q => s.restartLease q

/-- LEASE_EXPIRY. -/
def State.leaseEnds (s : State) (q : Requester) : State :=
  if s.heldMask q = 0 then s else (s.at_ (s.requester q).leaseEnd).expireLease q

/-- TOKEN_RATE_LIMIT_END. -/
def State.limitEnds (s : State) (q : Requester) : State :=
  match (s.requester q).limitEnd with
  | none => s
  | some t => (s.at_ t).modReq q fun r => { r with limitEnd := none, mismatches := [] }

/-! ### Commands -/

def execNmtStart (at_ : Nat) (p : CanNo) (s : State) : Answer := live s ((s.at_ at_).nmt p (·.setNmt p .operational))
def execNmtStop (at_ : Nat) (p : CanNo) (s : State) : Answer := live s ((s.at_ at_).nmt p (·.setNmt p .stopped))
def execNmtEnterPreoperational (at_ : Nat) (p : CanNo) (s : State) : Answer :=
  live s ((s.at_ at_).nmt p (·.setNmt p .preOperational))
def execNmtResetCommunication (at_ : Nat) (p : CanNo) (s : State) : Answer :=
  live s ((s.at_ at_).nmt p (·.resetCommunication p))
def execHeartbeatProduce (p : CanNo) (s : State) : Answer := live s (s.produceHeartbeat p)
def execHeartbeatReceive (at_ : Nat) (p : CanNo) (node : Fin 128) (s : State) : Answer :=
  live s ((s.at_ at_).heardHeartbeat p node)
def execHeartbeatLapse (p : CanNo) (s : State) : Answer := live s (s.heartbeatLapses p)
def execCanBusOff (at_ : Nat) (p : CanNo) (s : State) : Answer := live s ((s.at_ at_).setCan p .busOff (some 0x8007))
def execCanErrorPassive (at_ : Nat) (p : CanNo) (s : State) : Answer := live s ((s.at_ at_).setCan p .passive (some 0x8008))
def execCanErrorActive (at_ : Nat) (p : CanNo) (s : State) : Answer := live s ((s.at_ at_).setCan p .active none)
def execUsdoForeignClient (at_ : Nat) (p : CanNo) (node : Fin 128) (s : State) : Answer := live s ((s.at_ at_).foreign p node)
def execSupervisorVersionWrite (w : Write) (b : Bytes) (s : State) : Answer := live s (s.odRun w 0x2001 1 b versionAct)
def execStartService (w : Write) (b : Bytes) (s : State) : Answer := live s (s.odRun w 0x2000 0x0B b startAct)
def execStoreParameters (w : Write) (b : Bytes) (s : State) : Answer := live s (s.odRun w 0x1010 1 b storeAllAct)
def execRestoreDefaults (w : Write) (b : Bytes) (s : State) : Answer := live s (s.odRun w 0x1011 1 b restoreAct)

/-- SEMAPHORE_CLAIM; `other` is the other port's claim with the same stamp. -/
def execSemaphoreClaim (w : Write) (b : Bytes) (other : Option Bytes) (s : State) : Answer :=
  live s (match w.req, other with
    | .relay, _ => s.odRun w 0x2010 1 b claimAct
    | _, none => s.odRun w 0x2010 1 b claimAct
    | _, some o => s.claimTie w b o)

def execSemaphoreRelease (w : Write) (b : Bytes) (s : State) : Answer := live s (s.odRun w 0x2010 3 b releaseAct)
def execSemaphoreRenew (w : Write) (b : Bytes) (s : State) : Answer := live s (s.odRun w 0x2010 4 b renewAct)
def execLeaseExpiry (q : Requester) (s : State) : Answer := live s (s.leaseEnds q)
def execTokenRateLimitEnd (q : Requester) (s : State) : Answer := live s (s.limitEnds q)

end Sys2Proof.Machine
end

