-- ==== Sys2Proof/Machine/Reset.lean ====
section
/-! DEFINITION. Device reset: the choice of the image that boots, what survives, and the state the start leaves
(spec/18_firmware_and_update.md R487 to R491, R501, R503, spec/20_owners_and_ledger.md R529 to R533, spec/15_system.md R393 to
R395, spec/21_power_thermal_pins.md R551, R552, R557). -/

namespace Sys2Proof.Machine

/-! ### The choice of a slot (R488, R489, R503) -/

/-- What the ROM does at a start: the flash it leaves, the slot it boots (none: recovery mode), the codes it raises. -/
structure BootChoice where
  flash : FlashState
  slot : Option Bool
  codes : List Nat
  deriving DecidableEq, Repr

/-- The boot record rewritten. -/
def FlashState.mark (f : FlashState) (g : BootRecord → BootRecord) : FlashState := f.write (g f.record)

/-- A record with one more boot of a previous slot. -/
def BootRecord.fellBack (r : BootRecord) (slot : Bool) : BootRecord :=
  { r.setPhase slot .confirmed with active := slot, fallbacks := (r.fallbacks + 1) % 2 ^ 32 }

/-- Step 1 of R488: a slot in trial at reset is staged again, and the other slot is confirmed and active. -/
def bootEndTrial (f : FlashState) : BootChoice :=
  match f.record.find .trial with
  | none => ⟨f, none, []⟩
  | some t => ⟨f.mark fun r => (r.setPhase t .staged).fellBack (!t), none, [0x900E]⟩

/-- Steps 2 to 4 of R488: the active slot, when confirmed; then the previous one. -/
def bootActive (f : FlashState) : BootChoice :=
  let a := f.record.active
  if f.record.phase a ≠ .confirmed then ⟨f, none, []⟩
  else match verifyImage (f.image a) with
    | none => ⟨f, some a, []⟩
    | some c =>
      let f := f.mark fun r => r.setPhase a .rejected
      if f.record.phase (!a) ≠ .previous then ⟨f, none, [c]⟩
      else match verifyImage (f.image !a) with
        | none => ⟨f.mark fun r => r.fellBack (!a), some !a, [c, 0x900E]⟩
        | some d => ⟨f, none, [c, d]⟩

/-- The choice in legacy mode (R503): a staged slot is verified first and boots as trial; after a trial R488 holds (R501). -/
def bootLegacy (f : FlashState) : BootChoice :=
  match f.record.find .trial, f.record.find .staged with
  | none, some t =>
    match verifyImage (f.image t) with
    | none => ⟨f.mark fun r => { (r.setPhase t .trial).setPhase (!t) .previous with active := t }, some t, [0x900B]⟩
    | some c =>
      let b := bootActive (f.mark fun r => r.setPhase t .rejected)
      { b with codes := c :: b.codes }
  | _, _ =>
    let a := bootEndTrial f
    let b := bootActive a.flash
    { b with codes := a.codes ++ b.codes }

/-- The choice under a boot strap: 0 normal, 1 legacy, 2 recovery, 3 test (R487). -/
def bootChoice (f : FlashState) (boot : Fin 4) : BootChoice :=
  if boot = 2 then ⟨f, none, []⟩
  else if boot = 1 then bootLegacy f
  else
    let a := bootEndTrial f
    let b := bootActive a.flash
    { b with codes := a.codes ++ b.codes }

/-! ### What survives (R490, R529 to R533, R552) -/

/-- An owner at a start: active again under a fresh memory key pair, or absent; its loaded keys and counter stay. -/
def OwnerState.restarted (x : OwnerState) (memKey : Nat) : OwnerState :=
  let x := { x with result := if x.resultNext.isSome then x.resultNext else x.result, resultNext := none }
  match x.phase with
  | .active => { x with memKey := memKey }
  | _ => { x with phase := .absent, memKey := 0, killedAt := 0, overdue := false, scrubEth := [] }

/-- The sequence of a result stream after a reset: it restarts at 0 only where the result key is replaced, as a key that waits for the
reset replaces it (R173, R533). -/
def State.keptSequence (s : State) (k : SlotNo) : Nat :=
  if s.owners[s.slotOwner k].resultNext.isSome then 0 else s.slots[k].result.seq

/-- The state as the reset release leaves it: every field at its reset value but for the flash, the MRAM, owners and their keys, the
sequences of result streams, the owner lock, the manager term and the sessions, the loaded plans, and the model's own trace, queue and
draws. -/
def State.cleared (s : State) (st : Straps) (trained : Bool) : State :=
  let next := s.mem.nextKey
  let r : State := State.reset
  let t : State :=
    { r with
      plans := s.plans
      owners := Vector.ofFn fun (o : OwnerNo) => s.owners[o].restarted (next + o.val)
      provCounter := s.provCounter
      out := s.out
      free := s.free
      pending := s.pending
      mem := { nextKey := next + 16, trained := trained }
      sys := { sessions := s.sys.sessions }
      fw := { flash := s.fw.flash }
      ledger := { mram := s.ledger.mram }
      power := { straps := st }
      slots := Vector.ofFn fun (k : SlotNo) => { r.slots[k] with result := { seq := s.keptSequence k } } }
  (t.setNum 0x2900 7 (s.num 0x2900 7)).setNum 0x2800 6 (s.num 0x2800 6)

/-! ### The start -/

/-- The image that runs and the mode, with the codes of the boot (R487, R489). -/
def State.booted (s : State) (b : BootChoice) : State :=
  let s := s.modFw fun w =>
    { w with
      flash := b.flash
      running := b.slot.getD b.flash.record.active
      runningImage := (b.slot.map b.flash.image).getD [] }
  let s := s.setNum 0x2000 8 (if b.slot.isNone then 2 else if s.power.straps.boot = 3 then 3 else 0)
  let s := s.each b.codes fun s c => s.raise c
  let s := match b.codes.reverse.find? fun c => c != 0x900E && c != 0x900B with
    | some c => s.setNum 0x2500 0x0A (c : Int)
    | none => s
  if b.slot.isNone then s.raise 0x900F else s

/-- A slot without a front image of its own takes the default image (R119). A slot whose image the settings bank holds keeps it, since R464
restores it (DESIGN CHOICE, log entry 134). -/
def State.defaultFronts (s : State) : State :=
  s.each allSlots fun s k =>
    s.modSlot k fun sl => if sl.front = [] then { sl with front := (s.entry 0x2200 1).bytes } else sl

/-- The settings restored: defaults in recovery and test mode, and once after a restore of defaults (R464, R491); else the
home bank. -/
def State.restoreSettings (s : State) : State :=
  let f := s.fw.flash
  let s :=
    if 2 ≤ s.nat 0x2000 8 then s.raise 0x9010
    else if f.loadDefaults then s.modFw fun w => { w with flash := { f.setBank f.home [] with loadDefaults := false } }
    else s.loadBank (f.bank f.home)
  s.defaultFronts

/-- The node number the entry holds: the one last written and stored, else the strap's (R393). -/
def State.storedNode (s : State) : Nat :=
  let w := s.nat 0x2900 nodeWritten
  if w = 0 then s.power.straps.node.val else w - 1

/-- The node number and the role the device starts with (R393 to R395). -/
def State.startSystem (s : State) : State :=
  let n := s.storedNode
  let s := (s.setNum 0x2900 1 (n : Int)).modSys fun y => { y with node := n }
  let s := if 48 ≤ n then s.raise 0x7007 else s
  s.startRole.showSource

/-- The slots as the restored settings have them: rings and adaptation. -/
def State.startSlots (s : State) : State :=
  s.each allSlots fun s k =>
    let n := if k = 0 then 0 else s.slotNat k 9
    let s := s.modSlot k fun sl => { sl with entries := List.replicate n {} }
    s.renewAdapt k

/-- The control ports at start: settings taken, the boot-up message sent (PRESUMED, log entry 48), heartbeats armed. -/
def State.startPorts (s : State) : State :=
  let s := s.each allCan fun s p =>
    let s := s.applyCan p
    let s := if s.can[p].enabled then s.emit (.can p (0x700 + s.can[p].nodeId) [0]) else s
    s.armHeartbeat p
  s.each allPorts fun s p => if s.nat (ethIndex p) 1 = 0 then s else s.setNum (ethIndex p) 9 1

/-- The trip record reported and cleared (R557). -/
def State.reportTrip (s : State) (t : Option Nat) : State :=
  match t with
  | none => s
  | some k => (s.setNum 0x2700 0x0E (k : Int)).raise 0xC006

/-- DEVICE_RESET: RESET_N rises after a reset, with these straps; `trained` says whether the memory trains, `fails` how often
the read-back of a gap record fails. The device starts; while power is not yet good it stays out of service (R558). -/
def State.restart (s : State) (st : Straps) (trained : Bool) (fails : Nat) : State :=
  let b := bootChoice s.fw.flash st.boot
  let trip := s.power.tripRecord
  let s := (s.cleared st trained).booted b
  let s := s.reportTrip trip
  let s := if trained then s else s.raise 0x6007
  let s := s.restoreSettings.startSystem
  let s := s.modTick fun t => { t with next := s.nat 0x2100 1 }
  let s := s.startSlots.startPorts
  let s := if s.nat 0x2000 8 = 2 then s else s.resumeLedger fails
  let s := if (s.boot.find .trial).isSome then s.storeSettings else s
  s.settleError

/-- DEVICE_RESET, which a tripped device takes too (R557). -/
def execDeviceReset (st : Straps) (trained : Bool) (fails : Fin 16) (s : State) : Answer := .next (s.restart st trained fails)

end Sys2Proof.Machine
end

