-- ==== Sys2Proof/Machine/Firmware.lean ====
section
/-! DEFINITION. Staging, activation, trial, confirmation and revert (spec/18_firmware_and_update.md R492 to R502). -/

namespace Sys2Proof.Machine

/-! ### Refusal (R494) -/

/-- The first true condition's number. -/
def firstReason : List (Nat × Bool) → Nat
  | [] => 0
  | (n, bad) :: rest => if bad then n else firstReason rest

/-- The commands R494 may refuse. -/
inductive UpdateCommand where
  | stage | activate | revert
  deriving DecidableEq, Repr

/-- The reason of R494 for which a command is refused, the lowest that holds; 0 for none. -/
def State.updateRefusal (s : State) (c : UpdateCommand) : Nat :=
  let mode := s.nat 0x2000 8
  let has (p : ImagePhase) : Bool := (s.boot.find p).isSome
  firstReason
    [(1, s.nat 0x2700 2 != 1),
     (2, s.nat 0x2800 6 != 0),
     (3, c != .stage && s.epochTick.isSome),
     (4, c == .activate && !has .staged),
     (5, c != .revert && has .trial),
     (6, s.fw.staging.isSome || s.fw.activation.isSome),
     (7, c != .stage && s.power.straps.boot == 1 && mode != 2),
     (8, (c == .revert && 2 ≤ mode) || (c == .activate && mode == 3)),
     (9, c == .revert && !has .trial)]

/-- A command of R494: refused with its reason and 0x9006, or carried out. -/
def updateAct (c : UpdateCommand) (f : State → State) : Act := fun _ _ s =>
  match s.updateRefusal c with
  | 0 => (0, f s)
  | n + 1 => (0x06090030, (s.setNum 0x2500 0x0C (n + 1 : Nat)).raise 0x9006)

/-- The code of the last failed staging, verification or switch (0x2500:0A). -/
def State.noteFailure (s : State) (code : Nat) : State := s.setNum 0x2500 0x0A (code : Int)

/-! ### Staging (R492, R493) -/

/-- The image slot that is not active. -/
def State.idleSlot (s : State) : Bool := !s.boot.active

/-- The flash with the image of a slot replaced. -/
def FlashState.setImage (f : FlashState) (slot : Bool) (b : Bytes) : FlashState :=
  if slot then { f with image1 := b } else { f with image0 := b }

/-- The inactive slot emptied (DEDUCED, log entry 50: from the start of a staging on). -/
def State.emptyIdle (s : State) : State :=
  let t := s.idleSlot
  (s.setBoot fun r => r.setPhase t .empty).modFw fun w => { w with flash := w.flash.setImage t [] }

/-- A staging ends in failure: the slot is empty and the code is recorded. -/
def State.failStaging (s : State) (code : Nat) : State :=
  ((s.modFw fun w => { w with staging := none }).emptyIdle).noteFailure code

/-- A staging begins from a card, none where the card is absent. -/
def State.beginStaging (s : State) (card : Option Bytes) : State :=
  match card with
  | none => (s.failStaging 0x9008).raise 0x9008
  | some b => ((s.modFw fun w => { w with staging := some b }).setNum 0x2500 4 0).emptyIdle

/-- The act of a write to 0x2500:03. -/
def stageAct (card : Option Bytes) : Act := updateAct .stage (·.beginStaging card)

/-- The bundle header keeps its table (R492). -/
def bundleOk (b : Bytes) : Bool :=
  byteAt b 0 == 0x10 && byteAt b 1 == 0 && leAt b 2 2 == 0x4816 && leAt b 4 4 % 4096 == 0 && 4096 ≤ leAt b 4 4
    && leAt b 4 4 ≤ slotBytes && allZero (slice b 12 500)

/-- The image of a bundle. -/
def bundleImage (b : Bytes) : Bytes := slice b 4096 (leAt b 4 4)

/-- The failure a staging of a card meets, before the flash is read back: a bundle that breaks its table or its crc, a card that
ends early. -/
def bundleFailure (b : Bytes) : Option Nat :=
  firstFailure
    [(b.length < 512, 0x9008), (!bundleOk b, 0x9007), (b.length < 4096 + leAt b 4 4, 0x9008),
     (crc32 (bundleImage b) != leAt b 8 4, 0x9007)]

/-- STAGING_COMPLETE: `readBack` says whether every byte programmed reads back. -/
def State.endStaging (s : State) (readBack : Bool) : State :=
  match s.fw.staging with
  | none => s
  | some b =>
    match (bundleFailure b).or (if readBack then none else some 0x9009) with
    | some c => (s.failStaging c).raise c
    | none =>
      let t := s.idleSlot
      let img := bundleImage b
      let s := s.modFw fun w => { w with staging := none, flash := w.flash.setImage t img }
      let s := s.setBoot fun r => r.setPhase t .staged
      ((s.setNum 0x2500 4 100).setNum 0x2500 0x0B (imgFirmware img : Nat)).raise 0x9012

/-- SD_CARD_REMOVED. -/
def State.cardRemoved (s : State) : State :=
  if s.fw.staging.isSome then (s.failStaging 0x9008).raise 0x9008 else s

/-! ### Activation and revert (R495 to R499, R502) -/

/-- The bank of the core that switches at a step: security 0; then power management, C0 to C3, scheduler (R495). -/
def stepBank (core : Nat) : Fin 7 := if core ≤ 1 then Fin.ofNat 7 core else if core = 6 then 2 else Fin.ofNat 7 (core + 1)

/-- The core of a step runs from its other bank. -/
def State.switchBank (s : State) (core : Nat) : State :=
  s.modFw fun w => { w with banks := w.banks.set (stepBank core) (!w.banks[stepBank core]) }

/-- The image the security core runs. -/
def State.runImage (s : State) (slot : Bool) : State :=
  s.modFw fun w => { w with running := slot, runningImage := w.flash.image slot }

/-- An activation, or a revert, begins: 0x900A; adaptation steps are abandoned; the management pause begins. -/
def State.beginActivation (s : State) (revert target : Bool) : State :=
  let s := (s.raise 0x900A).abandonWhere 6 fun _ _ => true
  s.modFw fun w => { w with activation := some ⟨revert, target, .verifying, s.now, false⟩ }

/-- In recovery mode an activation verifies the staged slot, and on success the device restarts from it (R489). -/
def State.activateRecovery (s : State) (target : Bool) : State :=
  match verifyImage (s.fw.flash.image target) with
  | some c => ((s.setBoot fun r => r.setPhase target .rejected).noteFailure c).raise c
  | none =>
    let s := s.setBoot fun r => { (r.setPhase target .confirmed).setPhase (!target) .previous with active := target }
    s.restart s.power.straps s.mem.trained 0

/-- The act of a write to 0x2500:05. -/
def activateAct : Act := updateAct .activate fun s =>
  let t := (s.boot.find .staged).getD false
  if s.nat 0x2000 8 = 2 then s.activateRecovery t else s.beginActivation false t

/-- The act of a write to 0x2500:07. -/
def revertAct : Act := updateAct .revert fun s => s.beginActivation true (!((s.boot.find .trial).getD false))

/-- The management pause ends (0x2500:0D, µs). -/
def State.endPause (s : State) (a : Activation) : State := s.setNum 0x2500 0x0D ((s.now - a.pauseAt) / 100 : Nat)

/-- An activation ends in failure: the target slot is rejected. -/
def State.failActivation (s : State) (a : Activation) (code : Nat) : State :=
  let s := (s.setBoot fun r => r.setPhase a.target .rejected).modFw fun w => { w with activation := none }
  (s.noteFailure code).raise code

/-- Every core that has switched goes back, in reverse order (R499); `last` is the last that did. -/
def State.switchBack (s : State) (last : Nat) : State :=
  (s.each (List.range (last + 1)).reverse fun s c => s.switchBank c).runImage (!s.fw.running)

/-- Whether an image takes a hand-off record of a core: its header keeps its table, its crc holds, its version is one the image
reads (R504). -/
def handoffOk (img : Bytes) (core : Fin 7) (r : Bytes) : Bool :=
  byteAt r 0 == 0x10 && byteAt r 1 == core.val && imgHandoffMin img ≤ leAt r 2 2 && leAt r 4 4 + 16 == r.length
    && leAt r 4 4 ≤ 262128 && leAt r 8 4 == crc32 (r.drop 16) && allZero (slice r 12 4)

/-- The old image of a step's core writes its hand-off record (R495, R504). -/
def State.writeHandoff (s : State) (core : Nat) (r : Bytes) : State :=
  s.modFw fun w => { w with handoff := w.handoff.set (stepBank core) r }

/-- Whether the new image takes over from a core: its record is accepted and its self-check passes (R499). -/
def State.takesOver (s : State) (a : Activation) (core : Nat) (selfCheck : Bool) : Bool :=
  selfCheck && handoffOk (s.fw.flash.image a.target) (stepBank core) s.fw.handoff[stepBank core]

/-- A core of an activation switches; its new image accepts the hand-off record `r`, or every core switches back. -/
def State.switchCore (s : State) (a : Activation) (core : Nat) (r : Bytes) (selfCheck : Bool) : State :=
  let s := (s.writeHandoff core r).switchBank core
  let accepts := s.takesOver a core selfCheck
  let s := if core = 0 then (s.runImage a.target).endPause a else s
  if accepts then s.modFw fun w => { w with activation := some { a with step := .switching (core + 1) } }
  else (s.switchBack core).failActivation a 0x900C

/-- ACTIVATION_CORE_SWITCH: verification ends, and the security core switches when it passes; then the power-management core and
the control cores, in order. The scheduler core has a row of its own. -/
def State.coreSwitch (s : State) (r : Bytes) (selfCheck : Bool) : State :=
  match s.fw.activation with
  | none => s
  | some a =>
    if a.suspended then s
    else match a.step with
      | .verifying =>
        let b := s.fw.flash.image a.target
        match (verifyImage b).or (if s.compatible b then none else some 0x9004) with
        | some c => (s.endPause a).failActivation a c
        | none => s.switchCore a 0 r selfCheck
      | .switching core => if core < 6 then s.switchCore a core r selfCheck else s

/-- The tick period kept, and the one the bank holds left pending: a change of P takes effect only at a configuration epoch (R40;
DEDUCED, log entry 124). -/
def State.holdPeriod (s : State) (p : Nat) : State :=
  let new := s.entry 0x2100 1
  let s := s.setNum 0x2100 1 p
  if new = .num p then s else { s with od := { s.od with pendE := kvPut (odKey 0x2100 1) new s.od.pendE } }

/-- The home bank's settings put into force in place of the trial's, as an epoch puts values into force (R502). -/
def State.revertSettings (s : State) : State :=
  let old := s
  let keep := s.od.vals.filter fun e => !storedEntry (e.1 / 256) (e.1 % 256)
  let s := { s with od := { s.od with vals := keep, pendE := [], pendF := [], pendLate := [], lateFor := none } }
  let s := s.each allSlots fun s k => s.modSlot k fun sl => { sl with front := [], frontShadow := none }
  let s := (s.loadBank (s.fw.flash.bank s.fw.flash.home)).defaultFronts
  let s := s.setNum 0x2900 1 (s.storedNode : Int)
  let s := s.each allSlots fun s k => State.epochSlot old s k
  let s := s.each allPorts fun s p => State.epochPort old s p
  (((if old.isAlone != s.isAlone then s.startRole else s).holdPeriod (old.nat 0x2100 1)).settleSync).settleError

/-- Step 8 of R495: the boot record is written and 0x900B raised. -/
def State.completeActivation (s : State) (a : Activation) : State :=
  let s := s.modFw fun w => { w with activation := none, coasting := some 0 }
  let s := s.setNum 0x2500 0x0E 0
  let t := a.target
  let s :=
    if a.revert then
      let s := s.setBoot fun r => { (r.setPhase t .confirmed).setPhase (!t) .staged with active := t }
      (s.modFw fun w => { w with trialSince := none }).revertSettings
    else
      let s := s.setBoot fun r => { (r.setPhase t .trial).setPhase (!t) .previous with active := t }
      (s.modFw fun w => { w with trialSince := if s.nat 0x2000 8 = 1 then some s.now else none }).storeSettings
  s.raise 0x900B

/-- Whether the scheduler core may switch now: after the tick's beacons and digest, no later than 5 ms before the next
boundary's nominal instant (R497). -/
def State.schedulerMay (s : State) : Bool :=
  (s.role != 1 || s.sys.beaconTick == some s.tick.number)
    && ((s.role != 2 && s.role != 3) || s.sys.digestTick == some s.tick.number)
    && s.now + 500000 ≤ s.tick.boundary + s.period

/-- SCHEDULER_CORE_SWITCH. -/
def State.schedulerSwitch (s : State) (r : Bytes) (selfCheck : Bool) : State :=
  match s.fw.activation with
  | none => s
  | some a =>
    if a.suspended || a.step != .switching 6 || !s.schedulerMay then s
    else
      let s := (s.writeHandoff 6 r).switchBank 6
      if s.takesOver a 6 selfCheck then s.completeActivation a
      else ((s.modFw fun w => { w with coasting := some 0 }).switchBack 6).failActivation a 0x900C

/-- ACTIVATION_RESUME: 1 s after PFW_N has deasserted (R498). -/
def State.resumeActivation (s : State) : State :=
  match s.fw.activation with
  | none => s
  | some a =>
    if !a.suspended || s.nat 0x2700 2 != 1 then s
    else (s.at_ (s.power.goodAt + 100000000)).modFw fun w => { w with activation := some { a with suspended := false } }

/-- PFW_N on a staging and on an activation (R493, R498). -/
def State.updateOnPfw (s : State) : State :=
  let s := if s.fw.staging.isSome then s.failStaging 0xC001 else s
  match s.fw.activation with
  | none => s
  | some a =>
    match a.step with
    | .verifying => (((s.endPause a).modFw fun w => { w with activation := none }).noteFailure 0x9011).raise 0x9011
    | .switching _ => (s.modFw fun w => { w with activation := some { a with suspended := true } }).raise 0x9011

/-! ### The end of a trial (R501) -/

/-- A trial confirmed: the bank it wrote becomes home. -/
def State.confirm (s : State) : State :=
  match s.boot.find .trial with
  | none => s
  | some t =>
    let s := s.setBoot fun r => r.setPhase t .confirmed
    (s.modFw fun w =>
      { w with
        trialSince := none
        flash := { w.flash with home := !w.flash.home, eraseOther := true } }).raise 0x900D

/-- The act of a write to 0x2500:06. -/
def confirmAct : Act := guarded (fun _ _ s => (s.boot.find .trial).isSome) (always fun _ _ s => s.confirm)

/-- AUTO_CONFIRM. -/
def State.autoConfirm (s : State) : State :=
  match s.fw.trialSince with
  | none => s
  | some t => if s.nat 0x2500 8 = 0 then s else (s.at_ (t + s.nat 0x2500 8 * 6000000000)).confirm

/-! ### Commands -/

/-- STAGE_FROM_SD; `card` is what the card holds, none where no card is detected. -/
def execStageFromSd (w : Write) (b : Bytes) (card : Option Bytes) (s : State) : Answer :=
  live s (s.odRun w 0x2500 3 b (stageAct card) card)
def execStagingComplete (at_ : Nat) (readBack : Bool) (s : State) : Answer := live s ((s.at_ at_).endStaging readBack)
def execSdCardRemoved (at_ : Nat) (s : State) : Answer := live s ((s.at_ at_).cardRemoved)
def execActivate (w : Write) (b : Bytes) (s : State) : Answer := live s (s.odRun w 0x2500 5 b activateAct)
def execSchedulerCoreSwitch (at_ : Nat) (r : Bytes) (selfCheck : Bool) (s : State) : Answer :=
  live s ((s.at_ at_).schedulerSwitch r selfCheck)
def execActivationResume (s : State) : Answer := live s s.resumeActivation
def execConfirm (w : Write) (b : Bytes) (s : State) : Answer := live s (s.odRun w 0x2500 6 b confirmAct)
def execAutoConfirm (s : State) : Answer := live s s.autoConfirm
def execRevert (w : Write) (b : Bytes) (s : State) : Answer := live s (s.odRun w 0x2500 7 b revertAct)

end Sys2Proof.Machine
end

