-- ==== Sys2Proof/Machine/Ledger.lean ====
section
/-! DEFINITION. The ledger's energy samples and the close of an interval as commands (spec/20_owners_and_ledger.md R538,
R539). -/

namespace Sys2Proof.Machine

/-- An energy divided in proportion to shares by owner, in whole µJ; the residue goes to owner 0 (R538). -/
def divideEnergy (total : Nat) (shares : List (Nat × Nat)) : List (Nat × Nat) :=
  let all := (shares.map (·.2)).sum
  if all = 0 then [(0, total)]
  else
    let parts := shares.map fun p => (p.1, total * p.2 / all)
    addShare 0 (total - (parts.map (·.2)).sum) (parts.foldl (fun m p => addShare p.1 p.2 m) [])

/-- Energy added to an owner's counters. -/
def State.chargeEnergy (s : State) (o : OwnerNo) (e : Nat) : State :=
  s.modLedger fun l =>
    let up (t : Totals) : Totals := { t with energy := t.energy + e }
    { l with interval := l.interval.set o (up l.interval[o]), cumulative := l.cumulative.set o (up l.cumulative[o]) }

/-- The shares of an isle's sample: unit-cycles by owner, idle ones to owner 0. -/
def isleShares (i : IsleState) : List (Nat × Nat) := addShare 0 i.idleTime i.unitTime

/-- LEDGER_SAMPLE: energy in µJ of each isle, of the front and formatters, of the memory controller, DMA engines and straits, and
of the rest, with VDD_CORE in mV and in 0.1 A (R538, R570). -/
def State.energySample (s : State) (isles : Vector Nat 16) (front movers rest mv amps : Nat) : State :=
  let total := isles.toList.sum + front + movers + rest
  let s := ((s.setNum 0x2700 7 (mv : Int)).setNum 0x2700 8 (amps : Int)).setNum 0x2700 9 (total : Int)
  let s := if s.ledger.frozen then s
    else
      let parts := allIsles.flatMap (fun k => divideEnergy isles[k] (isleShares s.isles[k]))
        ++ divideEnergy front s.ledger.samples ++ divideEnergy movers s.ledger.moved ++ [(0, rest)]
      s.each parts fun s p => s.chargeEnergy (Fin.ofNat 16 p.1) p.2
  let s := s.modLedger fun l => { l with samples := [], moved := [] }
  { s with isles := s.isles.map fun (i : IsleState) => { i with unitTime := [], idleTime := 0 } }

/-- LEDGER_SAMPLE. -/
def execLedgerSample (at_ : Nat) (isles : Vector (BitVec 24) 16) (front movers rest : BitVec 24) (mv amps : BitVec 16)
    (s : State) : Answer :=
  live s ((s.at_ at_).energySample (isles.map (·.toNat)) front.toNat movers.toNat rest.toNat mv.toNat amps.toNat)

/-- INTERVAL_CLOSED: `fails` read-backs of the record fail first (R544). -/
def execIntervalClosed (fails : Fin 16) (s : State) : Answer := live s (s.intervalEnds fails)

end Sys2Proof.Machine
end

