-- ==== Sys2Proof/Machine/Owners.lean ====
section
/-! DEFINITION. Owners, key loads, the owner lock, killing a job and its scrub (spec/20_owners_and_ledger.md R529 to R537). -/

namespace Sys2Proof.Machine

/-- The owner a value names. -/
def ownerOf (n : Nat) : OwnerNo := Fin.ofNat 16 n

/-! ### Creation (R529) -/

/-- The act of a write to 0x2800:02: an absent owner becomes active under a fresh memory key pair. -/
def createAct : Act :=
  guarded (fun _ v s => s.owners[ownerOf v.int.toNat].phase == .absent) <| always fun _ v s =>
    let k := s.mem.nextKey
    (s.modOwner (ownerOf v.int.toNat) fun x => { x with phase := .active, memKey := k }).modMem fun m =>
      { m with nextKey := k + 1 }

/-! ### Wrapped records (R531, R534) -/

/-- The device unique ID as 0x2000:04 reads it, and the device provisioning key. -/
def deviceUid : Bytes := toBe 16 (Config.fuse 1)
def provisioningKey : Bytes := toBe 32 (Config.fuse 9)

def recKind (b : Bytes) : Nat := byteAt b 1
def recKeyOwner (b : Bytes) : Nat := fieldAt b 2 0 4
def recSlot (b : Bytes) : Bool := bitOf (byteAt b 3) 0
def recCounter (b : Bytes) : Nat := leAt b 4 4

/-- Whether the fields of a key record keep R531. -/
def keyFieldsOk (b : Bytes) : Bool :=
  let kind := recKind b
  byteAt b 0 == 0x10 && kind ≤ 4 && fieldAt b 2 4 4 == 0 && fieldAt b 3 1 7 == 0
    && (if kind = 4 then recKeyOwner b == 0 else recKeyOwner b != 0)
    && !((kind == 0 || kind == 2) && recSlot b) && slice b 8 8 == slice deviceUid 0 8

/-- The key that wraps a record: the owner's KEK for kinds 1 to 3, else the provisioning key. -/
def State.wrappingKey (s : State) (b : Bytes) : Option Bytes :=
  if recKind b = 0 ∨ recKind b = 4 then some provisioningKey else s.owners[ownerOf (recKeyOwner b)].kek

/-- Whether a counter was used up under a KEK, and the owner with it noted. -/
def OwnerState.counterOld (x : OwnerState) (kek : Bytes) (c : Nat) : Bool :=
  (x.counters.find? (·.1 == kek)).any fun e => c ≤ e.2
def OwnerState.noteCounter (x : OwnerState) (kek : Bytes) (c : Nat) : OwnerState :=
  { x with counters := (kek, c) :: x.counters.filter (·.1 != kek) }

/-- The plaintext of a key record that R532 accepts. -/
def State.keyPlain (s : State) (b : Bytes) : Option Bytes :=
  let x := s.owners[ownerOf (recKeyOwner b)]
  let own := recKind b != 0 && recKind b != 4
  if !keyFieldsOk b || x.phase != .active then none
  else match s.wrappingKey b with
    | none => none
    | some k =>
      if (if own then x.counterOld k (recCounter b) else decide (recCounter b < s.provCounter)) then none
      else match gcmOpen k (slice b 4 12) (slice b 0 16) (slice b 16 48) (slice b 64 16) with
        | none => none
        | some p =>
          if allZero (slice p 36 12) && (recKind b != 0 || allZero (slice p 32 4)) then some p else none

/-- The counter of an accepted record noted under its wrapping key. -/
def State.noteKeyCounter (s : State) (b : Bytes) : State :=
  if recKind b = 0 ∨ recKind b = 4 then { s with provCounter := recCounter b + 1 }
  else s.modOwner (ownerOf (recKeyOwner b)) fun x => x.noteCounter (x.kek.getD []) (recCounter b)

/-- The session of a causeway key becomes 1; what was received under the key it replaces is forgotten (R410, R532). -/
def State.renewSession (s : State) (key : Nat) : State :=
  s.modSys fun y =>
    { y with
      sessions := kvSet 0 key 1 y.sessions
      opened := insertAsc key y.opened
      counters := y.counters.filter fun c => c.1 / 2 / 256 / 48 != key
      spaces := y.spaces.filter fun x => x.key != key }

/-- A key put into its slot, as R532 says it takes effect. -/
def State.putKey (s : State) (b p : Bytes) : State :=
  let o := ownerOf (recKeyOwner b)
  let key : LoadedKey := ⟨slice p 0 32, slice p 32 4⟩
  let one := recSlot b
  match recKind b with
  | 0 => s.modOwner o fun x => { x with kek := some (slice p 0 32) }
  | 1 =>
    s.modOwner o fun x =>
      { x with
        stream0 := if one then x.stream0 else some key
        stream1 := if one then some key else x.stream1
        streamNew := some one }
  | 2 => s.modOwner o fun x => { x with resultNext := some key }
  | _ =>
    (s.modOwner o fun x =>
      { x with
        causeway0 := if one then x.causeway0 else some key
        causeway1 := if one then some key else x.causeway1 }).renewSession (cwKeyNo (recKeyOwner b) one)

/-- The act of a write to 0x2800:04. -/
def keyLoadAct : Act := fun _ v s =>
  match s.keyPlain v.bytes with
  | none => (0x06090030, s.raise 0xA002)
  | some p => (0, ((s.putKey v.bytes p).noteKeyCounter v.bytes).raise 0xA001)

/-! ### The owner lock (R534) -/

/-- Whether a lock request is accepted: its fields, its counter, its tag under the owner's KEK. -/
def State.lockOk (s : State) (b : Bytes) : Bool :=
  let x := s.owners[ownerOf (recKeyOwner b)]
  byteAt b 0 == 0x10 && (byteAt b 1 == 1 || byteAt b 1 == 2) && recKeyOwner b != 0 && fieldAt b 2 4 4 == 0
    && byteAt b 3 == 0 && slice b 8 8 == slice deviceUid 0 8
    && x.kek.any fun k => !x.counterOld k (recCounter b) && (gcmOpen k (slice b 4 12) (slice b 0 16) [] (slice b 16 16)).isSome

/-- The lock mask with bit `o` set or clear. -/
def State.setLock (s : State) (o : Nat) (on : Bool) : State :=
  let m := s.nat 0x2800 6
  s.setNum 0x2800 6 (if on then withBit m o else withoutBit m o : Nat)

/-- The act of a write to 0x2800:07. -/
def lockAct : Act := guarded (fun _ v s => s.lockOk v.bytes) <| always fun _ v s =>
  let b := v.bytes
  let o := recKeyOwner b
  let s := s.modOwner (ownerOf o) fun x => x.noteCounter (x.kek.getD []) (recCounter b)
  if byteAt b 1 = 1 then (s.setLock o true).raise 0xA003 else (s.setLock o false).raise 0xA004

/-! ### Killing a job (R536) -/

/-- Everything an owner runs stops: contexts, counters, transfers, adaptation steps and frames, those of its slots' rings too;
the result datagrams its slots still owe leave while its memory can be read (DEDUCED, log entry 52). -/
def State.stopOwner (s : State) (o : OwnerNo) : State :=
  let s := s.stopWhere fun _ x => x.owner == o
  let s := s.each (allCounters.filter fun n => s.counters[n].owner == o) State.closeCounter
  let s := s.abortWhere fun _ x => x.owner == o
  let mine := allSlots.filter fun k => s.slotOwner k == o
  let s := s.abandonWhere 4 fun k _ => mine.contains k
  s.each mine fun s k =>
    let s := s.failFrames k 0xA005
    let s := s.each s.slots[k].waitingEntries fun s i => s.endEntry k i .failed 0xA005 false
    s.each s.slots[k].result.jobs fun s _ => s.transmitResult k

/-- The owner's windows disabled, those over Ethernet buffers noted for the scrub, its memory key pair discarded, its lock
cleared. -/
def State.withdrawOwner (s : State) (o : OwnerNo) : State :=
  let eth := (s.windows[o].toList.filter (·.space == 3)).map fun w => (w.base, w.limit)
  let s := { s with windows := s.windows.set o (Vector.replicate 64 {}) }
  (s.modOwner o fun x => { x with memKey := 0, scrubEth := eth }).setLock o false

/-- The kill of an owner on this device. -/
def State.killOwner (s : State) (o : OwnerNo) : State :=
  let s := s.modOwner o fun x => { x with phase := .scrubbing, killedAt := s.tick.number, overdue := false }
  ((s.raise 0xA005).stopOwner o).withdrawOwner o

/-- The manager's relay of a kill to its members (R418): domain 5 is claimed, then the entry written. -/
def State.relayKill (s : State) (o : Nat) : State :=
  if s.role ≠ 1 then s
  else s.each ((s.sys.members.filter (·.joined)).map (·.node)) fun s n =>
    (s.claimOn n 0x20).relayTo n (usdoWrite 0x2800 3 [byte o])

/-- The act of a write to 0x2800:03. -/
def killAct : Act := guarded (fun _ v s => s.owners[ownerOf v.int.toNat].phase == .active) <| always fun _ v s =>
  (s.killOwner (ownerOf v.int.toNat)).relayKill v.int.toNat

/-! ### The lazy scrub (R537) -/

/-- An isle's words of an owner written back as zero with tag 0. -/
def Scratchpad.scrubOwner (p : Scratchpad) (o : Nat) : Scratchpad :=
  let mine (w : Nat) : Bool := kvGet 0 w p.tags == o
  { p with
    cells := p.cells.filter fun c => !mine (c.1 / 32)
    upsets := p.upsets.filter fun u => !mine u.1
    tags := p.tags.filter fun t => t.2 != o }

/-- SCRUB_COMPLETE: fenced and testing isles are skipped. -/
def State.completeScrub (s : State) (o : OwnerNo) : State :=
  if s.owners[o].phase ≠ .scrubbing then s
  else
    let s := s.each allIsles fun s k =>
      match s.isles[k].health.phase with
      | .fenced => s
      | .testing => s
      | _ => s.modSp k (·.scrubOwner o)
    let s := s.each s.owners[o].scrubEth fun s w =>
      s.modMem fun m => { m with eth := m.eth.filter fun c => c.1 < w.1 || w.2 < c.1 }
    (s.modOwner o fun x => { x with phase := .absent, scrubEth := [], overdue := false }).raise 0xA006

/-- SCRUB_OVERDUE: 2 ticks after the kill. -/
def State.overdueScrub (s : State) (o : OwnerNo) : State :=
  let x := s.owners[o]
  if x.phase ≠ .scrubbing ∨ x.overdue ∨ s.tick.number < x.killedAt + 2 then s
  else (s.modOwner o fun x => { x with overdue := true }).raise 0xA007

/-! ### Commands -/

def execCreateOwner (w : Write) (b : Bytes) (s : State) : Answer := live s (s.odRun w 0x2800 2 b createAct)
def execKeyLoad (w : Write) (b : Bytes) (s : State) : Answer := live s (s.odRun w 0x2800 4 b keyLoadAct)
/-- OWNER_LOCK_SET: a request whose op is 1. -/
def execOwnerLockSet (w : Write) (b : Bytes) (s : State) : Answer := live s (s.odRun w 0x2800 7 b lockAct)
/-- OWNER_LOCK_CLEAR: a request whose op is 2. -/
def execOwnerLockClear (w : Write) (b : Bytes) (s : State) : Answer := live s (s.odRun w 0x2800 7 b lockAct)
def execKillJob (w : Write) (b : Bytes) (s : State) : Answer := live s (s.odRun w 0x2800 3 b killAct).pump
def execScrubComplete (at_ : Nat) (o : OwnerNo) (s : State) : Answer := live s ((s.at_ at_).completeScrub o)
def execScrubOverdue (o : OwnerNo) (s : State) : Answer := live s (s.overdueScrub o)

end Sys2Proof.Machine
end

