-- ==== Sys2Proof/Machine/Power.lean ====
section
/-! DEFINITION. Power, the power-fail shed, temperature, rails and JTAG (spec/21_power_thermal_pins.md R556 to R568,
spec/20_owners_and_ledger.md R545). -/

namespace Sys2Proof.Machine

/-! ### PFW_N (R558) -/

/-- POWER_GOOD: PFW_N has been above VIH for 1 ms since reset release. -/
def State.powerGood (s : State) : State :=
  if s.nat 0x2700 2 ≠ 0 then s
  else
    let s := (s.at_ 100000).setNum 0x2700 2 1
    (if s.autoService then s.enterService else s).settleError

/-! ### The shed (R559 to R561) -/

/-- Whether a shed is late: a step past its time, or the commit past its bounds. -/
def shedLate (f : ShedFigures) : Bool := f.late || 10000 < f.ns.toNat || 3000 < f.us.toNat || 30000 < f.uj.toNat

/-- Every DMA channel's pause set; one that software has not paused resumes with the recovery (R328, R561). -/
def State.pauseAll (s : State) : State :=
  s.each allEngines fun s e => s.each (engineChans e) fun s c =>
    if (s.chan e c).pauseBit then s else (s.modChan e c fun x => { x with shedPause := true }).pauseChan e c

/-- Every Ethernet port but the one that carries causeway stops its link (R559). -/
def State.stopPorts (s : State) : State :=
  let keep := s.causewayPort
  s.each (allPorts.filter fun p => some p != keep) fun s p => if s.linkUp p then s.dropLink p 0 else s

/-- A shed starts: its steps, and the commit of the ledger, with the figures measured. -/
def State.startShed (s : State) (f : ShedFigures) : State :=
  let s := ((s.setNum 0x2700 1 1).bump 0x2700 0x0C).setNum 0x2700 0x0D (f.ns.toNat : Int)
  let s := (s.modPower fun p => { p with shedAt := some s.now }).modLedger fun l => { l with frozen := true }
  let s := s.pauseAll.stopPorts
  let s := (s.abandonWhere 5 fun _ _ => true).updateOnPfw
  let s := s.commitPowerFail f.us.toNat f.uj.toNat f.fails
  if shedLate f then s.raise 0xC003 else s

/-- PFW_ASSERTED, once power has been good (R558, R559); a shed that a rail fault began goes on (R564). -/
def State.pfwAsserted (s : State) (f : ShedFigures) : State :=
  if s.nat 0x2700 2 ≠ 1 then s
  else
    let s := (s.setNum 0x2700 2 2).raise 0xC001
    (if s.nat 0x2700 1 = 1 then s else s.startShed f).settleError

/-- Recovery begins once neither PFW_N nor a rail fault holds the shed: the ports retrain (R561). -/
def State.recover (s : State) : State :=
  if s.nat 0x2700 1 ≠ 1 || s.nat 0x2700 2 == 2 || s.power.railShed then s
  else
    let s := s.setNum 0x2700 1 2
    s.each allPorts fun s p =>
      if s.nat (ethIndex p) 1 = 0 ∨ s.linkUp p then s else s.setNum (ethIndex p) 9 1

/-- PFW_DEASSERTED. -/
def State.pfwDeasserted (s : State) : State :=
  if s.nat 0x2700 2 ≠ 2 then s
  else
    let s := ((s.setNum 0x2700 2 1).modPower fun p => { p with goodAt := s.now }).raise 0xC002
    s.recover.settleError

/-! ### Temperature (R556, R557) -/

/-- THERM_N asserts: every isle goes down to 0.60 GHz. -/
def State.thermAsserted (s : State) : State :=
  if s.nat 0x2700 3 = 1 then s else ((s.setNum 0x2700 3 1).raise 0xC004).settleClocks

/-- THERM_N deasserts. -/
def State.thermDeasserted (s : State) : State :=
  if s.nat 0x2700 3 = 0 then s else (s.setNum 0x2700 3 0).settleClocks.settleError

/-- The thermal target and the fence temperature in 0.1 °C. -/
def State.thermTarget (s : State) : Int := 10 * s.num 0x2700 4
def State.fenceTemp (s : State) : Int := 10 * s.num 0x2700 0x0B

/-- An isle's sensor read: since when it is at the fence temperature, and whether its own cap is released. -/
def IsleHealth.sensed (h : IsleHealth) (t target fence : Int) (now : Nat) : IsleHealth :=
  { h with
    hotSince := if fence ≤ t then some (h.hotSince.getD now) else none
    hotAsked := h.hotAsked && decide (fence ≤ t)
    cut := if t + 30 ≤ target then 0 else h.cut }

/-- Two consecutive samples at 110 °C: the trip (R557). -/
def State.tripOn (s : State) (k : Nat) : State := s.modPower fun p => { p with tripped := true, tripRecord := some k }

/-- THERMAL_SAMPLE: the 20 sensors, in 0.1 °C. -/
def State.sampleTemps (s : State) (ts : Vector Int 20) : State :=
  let target := s.thermTarget
  let fence := s.fenceTemp
  let others := (List.range 4).map fun i => ts.toList.getD (16 + i) 0
  let s := s.each allIsles fun s k =>
    let t := ts.toList.getD k 0
    (s.setNum 0x2700 (0x20 + k) t).modIsle k fun i => { i with health := i.health.sensed t target fence s.now }
  let cool := others.all fun t => t + 30 ≤ target
  let s := if cool then s.each allIsles fun s k => s.modIsle k fun i => { i with health := { i.health with cutShared := 0 } } else s
  let s := s.setNum 0x2700 0x0A (ts.toList.foldl max (ts.toList.headD 0))
  let hot := (List.range 20).filter fun k => 1100 ≤ ts.toList.getD k 0
  let trip := (hot.filter s.power.hot.contains).head?
  let s := s.modPower fun p => { p with others := others, hot := hot }
  let s := s.settleClocks.settleError
  match trip with
  | some k => s.tripOn k
  | none => s

/-- A clock lowered by 50 MHz, down to 600, as steps below 1,400 MHz. -/
def lowered (clock : Nat) : Nat := (1400 - max 600 (clock - 50)) / 50

/-- THERMAL_LIMIT_STEP: isles over the target, and all when another sensor is, go down by 50 MHz. -/
def State.limitStep (s : State) : State :=
  let target := s.thermTarget
  let shared := s.power.others.any fun t => target < t
  let runs := allIsles.filter fun k => s.isles[k].health.phase != .fenced && 600 < s.isles[k].clock
  let own : List IsleNo := runs.filter fun (k : IsleNo) => target < s.num 0x2700 (0x20 + k.val)
  let s' := s.each own fun s k =>
    let h := s.isles[k].health
    let s := s.modIsle k fun i => { i with health := { i.health with cut := lowered i.clock } }
    if h.cut = 0 then s.raise 0xC005 { isle := k } else s
  let fresh := shared && !runs.isEmpty && allIsles.all fun k => s.isles[k].health.cutShared == 0
  let s' := if shared then
      s'.each runs fun s k => s.modIsle k fun i => { i with health := { i.health with cutShared := lowered i.clock } }
    else s'
  let s' := if fresh then s'.raise 0xC005 else s'
  s'.settleClocks.settleError

/-- ISLE_THERMAL: a sensor has stayed at the fence temperature for 10 ms. -/
def State.isleThermal (s : State) (k : IsleNo) : State :=
  match s.isles[k].health.hotSince with
  | none => s
  | some t =>
    if s.isles[k].health.hotAsked then s
    else
      let s := s.at_ (t + 1000000)
      let s := s.modIsle k fun i => { i with health := { i.health with hotAsked := true } }
      (s.raise 0xC008 { isle := k }).trigger k 6

/-! ### Rails (R563) -/

/-- Counts of consecutive samples of each rail in one condition. -/
def countRuns (runs : List Nat) (now : List Bool) : List Nat := (runs.zip now).map fun p => if p.2 then p.1 + 1 else 0

/-- RAIL_MONITOR_SAMPLE: which rails are in range, in the order of R549. A bit clears once its rail has been in range for 1 ms. -/
def State.sampleRails (s : State) (inRange : BitVec 8) (f : ShedFigures) : State :=
  let now := (List.range 8).map inRange.getLsbD
  let bad := countRuns s.power.railBad (now.map (!·))
  let good := countRuns s.power.railGood now
  let s := s.modPower fun p => { p with railBad := bad.map (min 10), railGood := good.map (min 1000) }
  let old := s.nat 0x2700 0x30
  let mask := (List.range 8).foldl (fun m i =>
    if 10 ≤ bad.getD i 0 then withBit m i else if 1000 ≤ good.getD i 0 then withoutBit m i else m) old
  let new := (List.range 8).filter fun i => mask.testBit i && !old.testBit i
  let s := s.setNum 0x2700 0x30 (mask : Int)
  let s := s.each new fun s _ => s.raise 0xC007
  let core := mask.testBit 0 || mask.testBit 1
  let was := s.power.railShed
  let s := s.modPower fun p => { p with railShed := core }
  let s := if core && !was && s.nat 0x2700 2 != 0 && s.nat 0x2700 1 != 1 then s.startShed f else s
  s.recover.settleError

/-! ### JTAG (R568) -/

/-- The identification register. -/
def jtagIdcode : Nat := 2 ^ 28 + 0x4816 * 2 ^ 12 + Config.fuse 10 % 2 ^ 11 * 2 + 1

/-- JTAG_INSTRUCTION: any instruction but those of R568 needs the test-mode strap and an authenticated tester. -/
def State.jtagLoad (s : State) (op : JtagOp) (authenticated : Bool) : State :=
  let allowed := match op with
    | .other _ => s.power.straps.boot == 3 && authenticated
    | _ => true
  if !allowed then s
  else
    let s := s.modPower fun p => { p with jtag := op }
    if op = .idcode then s.emit (.jtag jtagIdcode) else s

/-! ### Commands -/

def execPowerGood (at_ : Nat) (s : State) : Answer := live s ((s.at_ at_).powerGood)
def execPfwDeasserted (at_ : Nat) (s : State) : Answer := live s ((s.at_ at_).pfwDeasserted)
def execThermAsserted (at_ : Nat) (s : State) : Answer := live s ((s.at_ at_).thermAsserted)
def execThermDeasserted (at_ : Nat) (s : State) : Answer := live s ((s.at_ at_).thermDeasserted)
def execThermalSample (at_ : Nat) (ts : Vector (BitVec 16) 20) (s : State) : Answer :=
  live s ((s.at_ at_).sampleTemps (ts.map (·.toInt)))
def execThermalLimitStep (at_ : Nat) (s : State) : Answer := live s ((s.at_ at_).limitStep)
def execIsleThermal (k : IsleNo) (s : State) : Answer := live s (s.isleThermal k)
def execJtagInstruction (op : JtagOp) (authenticated : Bool) (s : State) : Answer := live s (s.jtagLoad op authenticated)

end Sys2Proof.Machine
end

