-- ==== Sys2Proof/Machine/OdWrite.lean ====
section
/-! DEFINITION. Every write of the object dictionary, by the act of its entry, and every read (spec/17_object_dictionary.md
R459 to R471; the entries as their chapters give them). -/

namespace Sys2Proof.Machine

/-! ### Acts of entries without a row of their own -/

/-- A write of 0x2900:01, the stored node number: the number in force changes at the next start (R393). -/
def nodeAct : Act := always fun _ v s => (s.setEntry 0x2900 1 v).setNum 0x2900 0x81 (v.int + 1)

/-- A write of 0x1014:00 on a port: the COB-ID of that port, one higher, 0 standing for the default (R464). -/
def cobAct : Act := always fun w v s => s.setNum 0x1014 (ownSub w.req 0x1014 0) (v.int + 1)

/-- A write of 0x1015:00 on a port (R464). -/
def inhibitAct : Act := always fun w v s => s.setEntry 0x1015 (ownSub w.req 0x1015 0) v

/-- A write of 0x1017:00: each port's next heartbeat is due one new period from now (R464). -/
def heartbeatAct : Act := always fun _ v s => ((s.setEntry 0x1017 0 v).armHeartbeat 0).armHeartbeat 1

/-- The slot of a slot index. -/
def slotOf (i : Nat) : SlotNo := Fin.ofNat 48 (i - 0x3000)

/-- The act of an entry of a slot block. -/
def slotAct (i sub : Nat) : Act :=
  if 0x20 ≤ sub ∧ sub ≤ 0x25 then frontAct (slotOf i) sub
  else if sub = 0x26 then loadDefaultsAct (slotOf i)
  else if sub = 0x30 then planAct (slotOf i)
  else if sub = 0x3B then forceWarmingAct (slotOf i)
  else if sub = 0x49 ∨ sub = 0x4A then analysisAct (slotOf i) sub
  else if sub = 0x64 then adaptResetAct (slotOf i)
  else storeAct i sub

/-- The act of an entry of communication, service and control. -/
def serviceAct (i sub : Nat) : Act :=
  if i = 0x1010 then storeAllAct
  else if i = 0x1011 then restoreAct
  else if i = 0x1014 then cobAct
  else if i = 0x1015 then inhibitAct
  else if i = 0x1017 then heartbeatAct
  else if i = 0x2000 ∧ sub = 0x0B then startAct
  else if i = 0x2001 then versionAct
  else if i = 0x2010 then (if sub = 1 then claimAct else if sub = 3 then releaseAct else renewAct)
  else storeAct i sub

/-- The act of an entry of the device. -/
def deviceAct (i sub : Nat) (card : Option Bytes) : Act :=
  if i = 0x2100 ∧ sub = 0x0C then resyncAct
  else if i = 0x2200 then frontDefaultAct
  else if i = 0x2300 ∧ sub = 3 then fenceAct
  else if i = 0x2300 ∧ sub = 4 then unfenceAct
  else if i = 0x2500 ∧ sub = 3 then stageAct card
  else if i = 0x2500 ∧ sub = 5 then activateAct
  else if i = 0x2500 ∧ sub = 6 then confirmAct
  else if i = 0x2500 ∧ sub = 7 then revertAct
  else if i = 0x2600 ∧ sub = 0x11 then clearNoticeAct
  else if i = 0x2800 ∧ sub = 2 then createAct
  else if i = 0x2800 ∧ sub = 3 then killAct
  else if i = 0x2800 ∧ sub = 4 then keyLoadAct
  else if i = 0x2800 ∧ sub = 7 then lockAct
  else if i = 0x2900 ∧ sub = 1 then nodeAct
  else if i = 0x2900 ∧ sub = 0x0A then epochAct
  else if i = 0x2900 ∧ sub = 0x10 then rereadAct
  else storeAct i sub

/-- The act of any entry. -/
def odAct (i sub : Nat) (card : Option Bytes) : Act :=
  if isSlotIndex i then slotAct i sub else if i ≤ 0x2010 then serviceAct i sub else deviceAct i sub card

/-- Any write carried out, with what the world holds that it may name. -/
def State.odWrite (s : State) (w : Write) (i sub : Nat) (b : Bytes) (a : Around) : State :=
  (s.loadPlan a.img).odRun w i sub b (odAct i sub a.card) a.card

/-! ### Reading (R14, R459, R461) -/

/-- The bytes of a list of flags, bit `k` of byte `k / 8`. -/
def flagBytes (n : Nat) (p : Nat → Bool) : Bytes := toLe n ((List.range (8 * n)).map fun k => if p k then 2 ^ k else 0).sum

/-- The decimal digits of "major.minor.build" (0x100A). -/
def versionText (v : Nat) : Bytes :=
  ascii (toString (v / 2 ^ 24) ++ "." ++ toString (v / 2 ^ 16 % 256) ++ "." ++ toString (v % 2 ^ 16))

/-- The code of an isle's state (0x2300:01). -/
def IslePhase.code : IslePhase → Nat
  | .available => 0 | .fencing => 1 | .fenced => 2 | .testing => 3

/-- The codes of negotiation, sync, owner and CAN states. -/
def NegoState.code : NegoState → Nat
  | .none => 0 | .agreed => 1 | .refused => 2
def SyncState.code : SyncState → Nat
  | .internal => 0 | .acquiring => 1 | .locked => 2 | .holdover => 3 | .freeRun => 4
def OwnerPhase.code : OwnerPhase → Nat
  | .absent => 0 | .active => 1 | .scrubbing => 2

/-- Status of a control port (0x2002:06): disabled before its fault confinement state. -/
def CanPort.code (c : CanPort) : Nat :=
  if !c.enabled then 3
  else match c.status with
    | .active => 0 | .passive => 1 | .busOff => 2

/-- The four bytes of a domain in 0x2010:06: holder, its client's node-ID, the lease left in 10 ms, rounded up. -/
def State.holderBytes (s : State) (d : Fin 8) : Bytes :=
  match s.od.holders[d] with
  | none => zeros 4
  | some q =>
    let client := match reqPort q with
      | some p => s.can[p].supervisor
      | none => 0
    [byte (reqNo q + 1), byte client] ++ toLe 2 (ceilDiv ((s.requester q).leaseEnd - s.now) 1000000)

/-- The update state (0x2500:09). -/
def State.updateState (s : State) : Nat :=
  match s.fw.activation with
  | some a => if a.revert then 5 else if a.step = .verifying then 2 else 3
  | none => if s.fw.staging.isSome then 1 else if (s.boot.find .trial).isSome then 4 else 0

/-- The key status of an owner (0x2800:05). -/
def OwnerState.keyStatus (o : OwnerState) : Nat :=
  (if o.kek.isSome then 1 else 0) + (if o.stream0.isSome then 2 else 0) + (if o.stream1.isSome then 4 else 0)
    + (if o.result.isSome then 8 else 0) + (if o.causeway0.isSome then 16 else 0) + (if o.causeway1.isSome then 32 else 0)

/-- What a read of an entry of service and negotiation returns to a requester, where the entry's store does not hold it. -/
def State.serviceView (s : State) (q : Requester) (i sub : Nat) : Option OdVal :=
  let r := s.requester q
  let n (v : Nat) : Option OdVal := some (.num v)
  if i = 0x1001 then n s.errorRegister
  else if i = 0x100A then some (.raw (versionText (imgFirmware s.fw.runningImage)))
  else if i = 0x1014 then
    let own := if q = .portB then 1 else 0
    let v := s.num 0x1014 own
    some (.num (if v = 0 then 0x80 + s.canNodeId (16 * own) else v - 1))
  else if i = 0x1015 then some (s.entry 0x1015 (ownSub q i 0))
  else if i = 0x1018 ∧ sub = 1 then n (Config.fuse 2 % 2 ^ 32)
  else if i = 0x1018 ∧ sub = 4 then n (Config.fuse 3 % 2 ^ 32)
  else if i = 0x2000 then
    match sub with
    | 3 => n (Config.fuse 0 % 2)
    | 4 => some (.raw (toBe 16 (Config.fuse 1)))
    | 5 => n (imgFirmware s.fw.runningImage)
    | 6 => some (.raw s.protocols)
    | 7 => n (if s.fw.running then 1 else 0)
    | 0x0C => n (s.now / 100000000 % 2 ^ 32)
    | _ => none
  else if i = 0x2001 then
    match sub with
    | 1 => n r.version
    | 2 => n r.agreed
    | 3 => n r.nego.code
    | 4 => n s.od.reqs[0].agreed
    | 5 => n s.od.reqs[1].agreed
    | 6 => n s.od.reqs[2].agreed
    | _ => none
  else if i = 0x2002 ∧ sub % 16 = 2 then some (.num (s.canNodeId (sub - 2)))
  else if i = 0x2002 ∧ sub = 6 then n s.can[0].code
  else if i = 0x2002 ∧ sub = 0x16 then n s.can[1].code
  else if i = 0x2010 then
    match sub with
    | 2 => n r.token
    | 5 => n (s.heldMask q)
    | 6 => some (.raw ((List.finRange 8).flatMap s.holderBytes))
    | 7 => n (if s.od.tieToB then 1 else 0)
    | _ => none
  else none

/-- The same, for the entries of the device. -/
def State.deviceView (s : State) (i sub : Nat) : Option OdVal :=
  let n (v : Nat) : Option OdVal := some (.num v)
  if i = 0x2100 ∧ sub = 2 then n s.tick.number
  else if i = 0x2100 ∧ sub = 6 then n s.tick.sync.code
  else if i = 0x2100 ∧ sub = 7 then n (min 255 s.tick.missing)
  else if i = 0x2200 ∧ sub = 1 then some (.raw (imageOf (s.entry 0x2200 1).bytes))
  else if i = 0x2300 ∧ sub = 1 then some (.raw (allIsles.map fun k => byte s.isles[k].health.phase.code))
  else if i = 0x2300 ∧ sub = 2 then n (s.countPhase .fenced)
  else if i = 0x2300 ∧ sub = 5 then n (if s.avail.depleted then 2 else if s.someFencing then 1 else 0)
  else if i = 0x2300 ∧ sub = 0x0B then some (.raw (flagBytes 6 fun k => s.slots[(Fin.ofNat 48 k : SlotNo)].shed))
  else if i = 0x2400 ∧ sub = 8 then
    let recs := s.ledger.mram.toList.filter recordValid
    some (.raw (ascending (fun a b => leAt a 4 4 ≤ leAt b 4 4) recs).flatten)
  else if i = 0x2400 ∧ sub = 9 then
    some (.raw (s.ledger.cumulative.toList.flatMap fun t => toLe 8 t.ops ++ toLe 8 t.bytes ++ toLe 8 (t.energy / 1000)))
  else if i = 0x2500 then
    match sub with
    | 1 => n s.boot.state0.code
    | 2 => n s.boot.state1.code
    | 9 => n s.updateState
    | 0x0F => n s.boot.fallbacks
    | 0x10 => n (Config.fuse 5 % 256)
    | 0x11 => n (Config.fuse 6 % 2 ^ 16)
    | _ => none
  else if i = 0x2600 ∧ sub = 1 then n s.ev.written
  else if i = 0x2600 ∧ sub = 5 then some (.raw (s.ev.log.flatMap EventRecord.bytes))
  else if i = 0x2600 ∧ 0x81 ≤ sub then
    let m := s.slots[(Fin.ofNat 48 (sub - 0x80) : SlotNo)].mark
    some (.raw ([byte m.level, byte m.highWater, if m.notice then 1 else 0] ++ toLe 2 m.crossings))
  else if i = 0x2700 ∧ 0x10 ≤ sub ∧ sub < 0x20 then
    n s.isles[(Fin.ofNat 16 (sub - 0x10) : IsleNo)].clock
  else if i = 0x2800 ∧ sub = 1 then some (.raw (s.owners.toList.map fun o => byte o.phase.code))
  else if i = 0x2800 ∧ sub = 5 then some (.raw (s.owners.toList.map fun o => byte o.keyStatus))
  else if i = 0x2900 then
    match sub with
    | 0x0B => some (.raw (sha256 (s.configOf true)))
    | 0x0C => some (.raw (sha256 (s.configOf false)))
    | 0x0D => some (.raw s.configImage)
    | 0x0E => some (.raw s.pendingImage)
    | _ => none
  else if 0x2A01 ≤ i ∧ i ≤ 0x2A04 ∧ sub = 3 then some (.raw (macOf (Fin.ofNat 4 (i - 0x2A01))))
  else none

/-- The same, for the entries of a slot: a front image and its blocks, what the plan in force fixes, the slot's state. -/
def State.slotView (s : State) (k : SlotNo) (sub : Nat) : Option OdVal :=
  let n (v : Nat) : Option OdVal := some (.num v)
  let front := s.slots[k].frontShadow.getD (s.frontImage k)
  let part (off len : Nat) : Option OdVal := some (.raw (slice front off len))
  let plan := (s.slotPlan k).map (·.body)
  let ofPlan (f : Bytes → Nat) : Option OdVal := n ((plan.map f).getD 0)
  let level := s.slotNat k 0x32
  match sub with
  | 0x20 => some (.raw front)
  | 0x21 => part 0 64
  | 0x22 => part 64 128
  | 0x23 => part 256 16384
  | 0x24 => part 16640 (4 * min 4096 (imgDefects front))
  | 0x25 => part 33024 8712
  | 0x27 => ofPlan fun b => fieldAt b 3 0 3
  | 0x31 => ofPlan stripeHeight
  | 0x39 => ofPlan fun b => stripeLag b level
  | 0x3A => ofPlan fun b => frontBuffers b level
  | 0x3C => n (if s.slots[k].shape.isSome then 1 else 0)
  | 0x3D => n (((s.slotPlan k).map (·.latency)).getD 0)
  | 0x5C => n (if s.hasOutput k then s.outEntrySize k else 0)
  | 0xF3 =>
    let on := s.slotNat k 1 != 0 && s.owners[s.slotOwner k].phase == .active
    n (if !on then 0 else if s.slots[k].shape.isSome then 2 else 1)
  | _ => none

/-- The value a read returns: zero for WO, the last value written for RW-E and RW-F (R14). A WO entry that is a string of bytes reads as
no bytes (DESIGN CHOICE, log entry 138: R14 says zero, and not of how many bytes). -/
def State.odValue (s : State) (q : Requester) (r : OdRow) (i sub : Nat) : OdVal :=
  let view :=
    if isSlotIndex i then s.slotView (slotOf i) sub
    else (s.serviceView q i sub).or (s.deviceView i sub)
  match r.acc with
  | .wo => match r.type.number with
    | some _ => .num 0
    | none => .raw []
  | .rwe => s.comingVal i sub
  | .rwf => view.getD (kvGet (s.entry i sub) (odKey i sub) s.od.pendF)
  | _ => view.getD (s.entry i sub)

/-- What a requester that has not agreed may read (R466). -/
def openIndex (i : Nat) : Bool :=
  i == 0x1000 || (0x1008 ≤ i && i ≤ 0x100A) || i == 0x1018 || i == 0x2000 || i == 0x2001

/-- The entries that only a manager, or a device that is alone, answers (R429). -/
def managerOnly (i sub : Nat) : Bool :=
  (i == 0x2900 && (sub == 0x0A || sub == 0x0F || sub == 0x10)) || (i == 0x2903 && sub == 1)

/-- The answer to a read: its abort code, or the type's code and the bytes. -/
inductive ReadAnswer where
  | refused (code : Nat)
  | value (type : Nat) (b : Bytes)
  deriving DecidableEq, Repr

/-- A read (R459 orders 1 to 3, R461); an entry for the manager only is refused on a worker under its chapter's rule (R429; DEDUCED,
log entry 144: order 7). -/
def State.odRead (s : State) (q : Requester) (i sub : Nat) : ReadAnswer :=
  if odRowsOf i = [] ∨ (s.nat 0x2000 8 = 2 ∧ !recoveryIndex i) then .refused 0x06020000
  else match odFind i sub with
    | none => .refused 0x06090011
    | some r =>
      if ((s.requester q).nego != .agreed && !openIndex i) || (reqPort q).any fun p => s.can[p].nmt == .stopped then
        .refused 0x08000022
      else if managerOnly i sub && 1 < s.role then .refused 0x06090030
      else .value r.type.cia (r.type.encode (s.odValue q r i sub))

/-! ### Commands -/

/-- OD_ENTRY_WRITE. -/
def execOdEntryWrite (w : Write) (i : BitVec 16) (sub : BitVec 8) (b : Bytes) (a : Around) (s : State) : Answer :=
  live s (s.odWrite w i.toNat sub.toNat b a)

end Sys2Proof.Machine
end

