-- ==== Sys2Proof/Machine/Ptp.lean ====
section
/-! DEFINITION. PTP: the selected master, the delay request-response measurement, device time, holdover (spec/16_ethernet.md R450,
R451, spec/20_owners_and_ledger.md R540, R542). The bytes of the messages and the comparison of masters are those of
IEEE 1588-2019, taken from outside the spec (PRESUMED, log entry 47). -/

namespace Sys2Proof.Machine

/-- A message's type, the identity of its sender's port, its sequence, its correction and the time at an offset, in ns. -/
def ptpType (b : Bytes) : Nat := fieldAt b 0 0 4
def ptpSender (b : Bytes) : Bytes := slice b 20 10
def ptpSeq (b : Bytes) : Nat := beAt b 30 2
def ptpCorrection (b : Bytes) : Int := signed 64 (beAt b 8 8) / 65536
def ptpTime (b : Bytes) : Int := ((beAt b 34 6 * 1000000000 + beAt b 40 4 : Nat) : Int)

/-- The priorities and domain of 0x2A00:08. -/
def State.ptpSettings (s : State) : Bytes := (s.entry 0x2A00 8).bytes

/-- The device's own port identity, and the quality it would announce. -/
def State.ptpIdentity (s : State) : Bytes :=
  let m := macOf (Fin.ofNat 4 (s.nat 0x2A00 7))
  slice m 0 3 ++ [0xFF, 0xFE] ++ slice m 3 3 ++ [0, 1]
def State.ptpQuality (s : State) : Bytes :=
  let p := s.ptpSettings
  slice p 0 1 ++ [248, 0xFE, 0xFF, 0xFF] ++ slice p 1 1 ++ slice s.ptpIdentity 0 8

/-- A message of the device: type, sequence, time and what follows. -/
def State.ptpMessage (s : State) (type seq : Nat) (t : Int) (rest : Bytes) : Bytes :=
  let n := t.toNat
  [byte type, 2] ++ toBe 2 (44 + rest.length) ++ [slice s.ptpSettings 2 1 |>.headD 0, 0] ++ zeros 14 ++ s.ptpIdentity
    ++ toBe 2 seq ++ [if type = 1 then 1 else 3, 0x7F] ++ toBe 6 (n / 1000000000) ++ toBe 4 (n % 1000000000) ++ rest

/-- A message sent by the transport the peer uses: over UDP, or over IEEE 802.3 for a peer without an address. -/
def State.ptpSend (s : State) (p : EthNo) (peer : Bytes) (port : Nat) (b : Bytes) : State :=
  if allZero peer then (s.countFrame p).emit (.frame p 0x88F7 b) else s.sendUdp p (s.classMark p false) peer port port b

/-- The state with the PTP clock changed. -/
def State.modPtp (s : State) (f : PtpState → PtpState) : State := { s with eth := { s.eth with ptp := f s.eth.ptp } }

/-- An Announce: a better master is selected; a device that may be master and is better takes that state. -/
def State.announced (s : State) (b : Bytes) : State :=
  let q := slice b 47 14
  let from_ := ptpSender b
  let may := byteAt s.ptpSettings 0 != 255
  let ptp := s.eth.ptp
  if may ∧ beNat s.ptpQuality < beNat q ∧ (ptp.master.isNone ∨ ptp.master = some from_) then
    (s.modPtp fun x => { x with master := none, quality := [] }).setNum 0x2A00 9 3
  else if ptp.master.isNone ∨ ptp.master = some from_ ∨ beNat q < beNat ptp.quality then
    let s := s.modPtp fun x =>
      { x with
        master := some from_
        quality := q
        utcOffset := signed 16 (beAt b 44 2) }
    if s.nat 0x2A00 9 = 3 then s.setNum 0x2A00 9 0 else s
  else s

/-- A Sync's send and receive times: device time is steered by the whole offset, the clock is locked, and the path delay is asked
for (R451). -/
def State.synced (s : State) (p : EthNo) (peer : Bytes) (sent came : Int) : State :=
  let off := came - sent - s.eth.ptp.delay
  let was := s.nat 0x2A00 9
  let ns := s.deviceNs - off
  let s := (s.modPtp fun x => { x with ns := ns, nsAt := s.now, raw := x.delay, waiting := none }).setNum 0x2A00 9 1
  let s := if was = 2 then s.raise 0x7027 else s
  let s := if s.ledgerRuns then s.setLedgerTime true else s
  let seq := ((s.eth.ptp.delayReq.map (·.1)).getD 0 + 1) % 2 ^ 16
  let s := s.modPtp fun x => { x with delayReq := some (seq, ns) }
  s.ptpSend p peer 319 (s.ptpMessage 1 seq ns [])

/-- PTP_EVENT_MESSAGE: only the port of 0x2A00:07 takes part; `ns` refines the time of reception within its reference
cycle. -/
def State.ptpCame (s : State) (p : EthNo) (ns : Nat) (peer b : Bytes) : State :=
  if s.nat 0x2A00 7 ≠ p.val ∨ !s.linkUp p ∨ b.length < 44 ∨ fieldAt b 1 0 4 ≠ 2 ∨ byteAt b 4 ≠ byteAt s.ptpSettings 2 then s
  else
    let s := s.bump (ethIndex p) 0x20
    let came := s.deviceNs + ns
    let ptp := s.eth.ptp
    let mine := ptp.master = some (ptpSender b)
    if ptpType b = 0xB then (if b.length < 64 then s else s.announced b)
    else if ptpType b = 0 ∧ mine then
      let s := s.modPtp fun x => { x with lastSync := some s.now }
      if bitOf (byteAt b 6) 1 then s.modPtp fun x => { x with waiting := some (ptpSeq b, came - ptpCorrection b) }
      else s.synced p peer (ptpTime b + ptpCorrection b) came
    else if ptpType b = 8 ∧ mine then
      match ptp.waiting with
      | some (q, t) => if q = ptpSeq b then s.synced p peer (ptpTime b + ptpCorrection b) t else s
      | none => s
    else if ptpType b = 9 ∧ mine then
      match ptp.delayReq with
      | some (q, t) =>
        if q = ptpSeq b ∧ slice b 44 10 = s.ptpIdentity then
          s.modPtp fun x => { x with delay := (x.raw + (ptpTime b - ptpCorrection b - t)) / 2 }
        else s
      | none => s
    else if ptpType b = 1 ∧ s.nat 0x2A00 9 = 3 then
      s.ptpSend p peer 320 (s.ptpMessage 9 (ptpSeq b) (came - ptpCorrection b) (ptpSender b))
    else s

/-- PTP_HOLDOVER: 3 s without a Sync (R451). -/
def State.ptpHoldover (s : State) : State :=
  match s.eth.ptp.lastSync with
  | none => s
  | some t =>
    if s.nat 0x2A00 9 ≠ 1 then s else ((s.at_ (t + 300000000)).setNum 0x2A00 9 2).raise 0x7026

def execPtpEventMessage (at_ : Nat) (p : EthNo) (ns : Fin 10) (peer b : Bytes) (s : State) : Answer :=
  live s ((s.at_ at_).ptpCame p ns peer b)

def execPtpHoldover (s : State) : Answer := live s s.ptpHoldover

end Sys2Proof.Machine
end

