-- ==== Sys2Proof/Machine/Relay.lean ====
section
/-! DEFINITION. The member's end of the relay: a relayed request is executed under the relay requester and answered
(spec/15_system.md R418, spec/17_object_dictionary.md R462, R475). -/

namespace Sys2Proof.Machine

/-- A request joined from its parts, by its sender and transaction: the whole of it once its last part has come. -/
def State.joinRequest (s : State) (src : Nat) (p : Bytes) : Option Bytes × State :=
  let t := src * 65536 + beAt p 0 2
  let got := kvGet [] t s.sys.relayIn ++ p.drop 8
  if got.length < beAt p 4 4 then (none, s.modSys fun y => { y with relayIn := kvPut t got y.relayIn })
  else (some (got.take (beAt p 4 4)), s.modSys fun y => { y with relayIn := y.relayIn.filter (·.1 != t) })

/-- A USDO request executed under the relay requester, and its answer. -/
def State.relayed (s : State) (b : Bytes) (card : Option Bytes) : Bytes × State :=
  let i := usdoIndex b
  let sub := usdoSub b
  if usdoCmd b = 0x01 then
    let s := s.odRun ⟨.relay, true, s.now⟩ i sub (usdoData b) (odAct i sub card) card
    let code := (s.requester .relay).answer
    (if code = 0 then usdoWritten i sub else usdoAbort i sub code, s)
  else if usdoCmd b = 0x11 then
    (match s.odRead .relay i sub with
      | .refused code => usdoAbort i sub code
      | .value type v => usdoValue i sub type v, s.expireBefore s.now)
  else (usdoAbort i sub 0x05040001, s)

/-- A relayed request of a node executed and answered; in the management pause of an activation it waits (R459, R495). -/
def State.answerRelay (s : State) (src transaction : Nat) (b : Bytes) (card : Option Bytes) : State :=
  if s.held (usdoIndex b) then s.hold (.relayed src transaction b card)
  else
    match s.relayed b card with
    | (answer, s) => s.each (relayFrames transaction s.sys.node answer) fun s x => s.cwReliableSend 8 src 1 x

/-- The requests that the management pause held, once it has ended: carried out in their order (R459, R495). -/
def State.answerHeld (s : State) : State :=
  if s.held 0 then s
  else
    let hs := s.od.waiting
    let s := { s with od := { s.od with waiting := [] } }
    s.each hs fun s h =>
      match h with
      | .write w i sub b card => s.odRun { w with at_ := s.now } i sub b (odAct i sub card) card
      | .relayed src t b card => s.answerRelay src t b card

/-- RELAY_REQUEST. -/
def State.requestCame (s : State) (p : EthNo) (src b : Bytes) (a : Around) : State :=
  match s.cwTake 7 p src b with
  | (none, s) => s
  | (some f, s) =>
    let s := s.sendAck f.src f.chan
    if byteAt f.payload 2 ≠ s.sys.node then s
    else match s.joinRequest f.src f.payload with
      | (none, s) => s
      | (some r, s) => (s.loadPlan a.img).answerRelay f.src (beAt f.payload 0 2) r a.card

/-! ### Commands -/

def execRelayRequest (at_ : Nat) (p : EthNo) (src b : Bytes) (a : Around) (s : State) : Answer :=
  live s ((s.at_ at_).requestCame p src b a).pump

/-! The commands that may end the management pause of an activation. -/

def execActivationCoreSwitch (at_ : Nat) (r : Bytes) (selfCheck : Bool) (s : State) : Answer :=
  live s ((s.at_ at_).coreSwitch r selfCheck).answerHeld.pump
def execPfwAsserted (at_ : Nat) (f : ShedFigures) (s : State) : Answer := live s ((s.at_ at_).pfwAsserted f).answerHeld.pump
def execRailMonitorSample (at_ : Nat) (inRange : BitVec 8) (f : ShedFigures) (s : State) : Answer :=
  live s ((s.at_ at_).sampleRails inRange f).answerHeld.pump

end Sys2Proof.Machine
end

