-- ==== Sys2Proof/Machine/Dispatch.lean ====
section
/-! DEFINITION. The dispatch: one arm per command, each one call of its meaning. -/

namespace Sys2Proof.Machine

/-- The effect of a command on everything but the queue. -/
def exec (i : Instr) (s : State) : Host.Outcome State Fault Refusal :=
  match i with
  -- The tick (spec/02_tick.md)
  | .tickBoundary prog => Sys2Proof.Machine.execTickBoundary prog s
  | .staggerSlotOpen k => Sys2Proof.Machine.execStaggerSlotOpen k s
  | .slewGovernorWindow => Sys2Proof.Machine.execSlewGovernorWindow s
  | .tickOutPulse => Sys2Proof.Machine.execTickOutPulse s
  | .tickinEdge at_ after falling => Sys2Proof.Machine.execTickinEdge at_ after falling s
  | .tickinWindowClose => Sys2Proof.Machine.execTickinWindowClose s
  | .resyncCommand w b => Sys2Proof.Machine.execResyncCommand w b s
  | .borrowDeadline k => Sys2Proof.Machine.execBorrowDeadline k s
  | .frameDone k n at_ => Sys2Proof.Machine.execFrameDone k n at_ s
  -- Raw ingest (03_raw_ingest.md)
  | .camFvRise at_ short => Sys2Proof.Machine.execCamFvRise at_ short s
  | .camFvFall at_ words short => Sys2Proof.Machine.execCamFvFall at_ words short s
  | .inlineLine at_ words short => Sys2Proof.Machine.execInlineLine at_ words short s
  | .inlineClockLoss at_ words => Sys2Proof.Machine.execInlineClockLoss at_ words s
  | .inlineStuck at_ words => Sys2Proof.Machine.execInlineStuck at_ words s
  | .inlineLineGap at_ => Sys2Proof.Machine.execInlineLineGap at_ s
  | .brokenRearm at_ => Sys2Proof.Machine.execBrokenRearm at_ s
  | .stripeDatagram at_ p src payload => Sys2Proof.Machine.execStripeDatagram at_ p src payload s
  | .reorderGraceExpiry k => Sys2Proof.Machine.execReorderGraceExpiry k s
  | .silenceTimeoutExpiry k => Sys2Proof.Machine.execSilenceTimeoutExpiry k s
  | .streamForget k => Sys2Proof.Machine.execStreamForget k s
  -- The fixed front (04_fixed_front.md)
  | .frontStripe at_ k n idx => Sys2Proof.Machine.execFrontStripe at_ k n idx s
  | .frontImageWrite w k block b => Sys2Proof.Machine.execFrontImageWrite w k block b s
  | .defectListWrite w k b => Sys2Proof.Machine.execDefectListWrite w k b s
  | .loadDefaults w k b => Sys2Proof.Machine.execLoadDefaults w k b s
  -- Stages (05_neural_stages.md)
  | .planWrite w k b img => Sys2Proof.Machine.execPlanWrite w k b img s
  | .analysisPlanWrite w k source b img => Sys2Proof.Machine.execAnalysisPlanWrite w k source b img s
  | .epochApply => Sys2Proof.Machine.execEpochApply s
  | .stageStripeStart at_ k n j idx => Sys2Proof.Machine.execStageStripeStart at_ k n j idx s
  | .stageStripeComplete at_ k n j idx us => Sys2Proof.Machine.execStageStripeComplete at_ k n j idx us s
  | .forceWarming w k b => Sys2Proof.Machine.execForceWarming w k b s
  -- Outputs and analysis (06_outputs_and_analysis.md)
  | .formatterStripe at_ k n kind idx => Sys2Proof.Machine.execFormatterStripe at_ k n kind idx s
  | .analysisStart at_ k n => Sys2Proof.Machine.execAnalysisStart at_ k n s
  | .resultTransmit at_ k => Sys2Proof.Machine.execResultTransmit at_ k s
  -- Tile ops: the op at the head of a context's queue (07_isle.md, 09_operators.md)
  | .nop k c us => Sys2Proof.Machine.execNop k c us s
  | .claim k c us => Sys2Proof.Machine.execClaim k c us s
  | .blockEnd k c us => Sys2Proof.Machine.execBlockEnd k c us s
  | .fence k c us => Sys2Proof.Machine.execFence k c us s
  | .wait k c us => Sys2Proof.Machine.execWait k c us s
  | .setix k c us => Sys2Proof.Machine.execSetix k c us s
  | .halt k c us => Sys2Proof.Machine.execHalt k c us s
  | .setseed k c us => Sys2Proof.Machine.execSetseed k c us s
  | .conv k c run us => Sys2Proof.Machine.execConv k c run us s
  | .convBwd k c run us => Sys2Proof.Machine.execConvBwd k c run us s
  | .wgrad k c run us => Sys2Proof.Machine.execWgrad k c run us s
  | .skConv k c run us => Sys2Proof.Machine.execSkConv k c run us s
  | .skConvBwd k c run us => Sys2Proof.Machine.execSkConvBwd k c run us s
  | .vecEltAdd k c run us => Sys2Proof.Machine.execVecEltAdd k c run us s
  | .vecEltSub k c run us => Sys2Proof.Machine.execVecEltSub k c run us s
  | .vecEltMul k c run us => Sys2Proof.Machine.execVecEltMul k c run us s
  | .vecEltMax k c run us => Sys2Proof.Machine.execVecEltMax k c run us s
  | .vecEltMin k c run us => Sys2Proof.Machine.execVecEltMin k c run us s
  | .vecEltRequant k c run us => Sys2Proof.Machine.execVecEltRequant k c run us s
  | .vecEltAbsdiff k c run us => Sys2Proof.Machine.execVecEltAbsdiff k c run us s
  | .vecEltCopy k c run us => Sys2Proof.Machine.execVecEltCopy k c run us s
  | .vecLut8 k c run us => Sys2Proof.Machine.execVecLut8 k c run us s
  | .vecLut16 k c run us => Sys2Proof.Machine.execVecLut16 k c run us s
  | .vecPoolMax k c run us => Sys2Proof.Machine.execVecPoolMax k c run us s
  | .vecPoolAvg k c run us => Sys2Proof.Machine.execVecPoolAvg k c run us s
  | .vecResampleNearest k c run us => Sys2Proof.Machine.execVecResampleNearest k c run us s
  | .vecResampleBilinear k c run us => Sys2Proof.Machine.execVecResampleBilinear k c run us s
  | .vecRotateForward k c run us => Sys2Proof.Machine.execVecRotateForward k c run us s
  | .vecRotateInverse k c run us => Sys2Proof.Machine.execVecRotateInverse k c run us s
  | .vecReduceSum k c run us => Sys2Proof.Machine.execVecReduceSum k c run us s
  | .vecReduceSumsq k c run us => Sys2Proof.Machine.execVecReduceSumsq k c run us s
  | .vecOptimMoment1 k c run us => Sys2Proof.Machine.execVecOptimMoment1 k c run us s
  | .vecOptimMoment2 k c run us => Sys2Proof.Machine.execVecOptimMoment2 k c run us s
  | .vecOptimMaster k c run us => Sys2Proof.Machine.execVecOptimMaster k c run us s
  | .vecBoxdecIntake k c run us => Sys2Proof.Machine.execVecBoxdecIntake k c run us s
  | .vecBoxdecSuppress k c run us => Sys2Proof.Machine.execVecBoxdecSuppress k c run us s
  | .vecArgmax k c run us => Sys2Proof.Machine.execVecArgmax k c run us s
  -- Contexts (07_isle.md)
  | .tileOpResume k c at_ => Sys2Proof.Machine.execTileOpResume k c at_ s
  | .contextWaitLimit k c => Sys2Proof.Machine.execContextWaitLimit k c s
  | .contextEnable k c ctrl w => Sys2Proof.Machine.execContextEnable k c ctrl w s
  | .contextStop k c => Sys2Proof.Machine.execContextStop k c s
  | .contextReset k c => Sys2Proof.Machine.execContextReset k c s
  | .opPush k c op => Sys2Proof.Machine.execOpPush k c op s
  -- Tile counters (11_tiling_and_streaming.md)
  | .counterConfigWrite n off v => Sys2Proof.Machine.execCounterConfigWrite n off v s
  | .counterOpen n => Sys2Proof.Machine.execCounterOpen n s
  | .counterArm n => Sys2Proof.Machine.execCounterArm n s
  | .counterClose n => Sys2Proof.Machine.execCounterClose n s
  | .counterReset n => Sys2Proof.Machine.execCounterReset n s
  | .counterRequeue n index => Sys2Proof.Machine.execCounterRequeue n index s
  | .counterArmedOpen n => Sys2Proof.Machine.execCounterArmedOpen n s
  -- Scratchpads, atolls, straits (10_scratchpad.md)
  | .spAttrWrite k e v => Sys2Proof.Machine.execSpAttrWrite k e v s
  | .spFormatComplete k => Sys2Proof.Machine.execSpFormatComplete k s
  | .scrubRow k us => Sys2Proof.Machine.execScrubRow k us s
  | .scrubDeadline k us => Sys2Proof.Machine.execScrubDeadline k us s
  | .atollEnable k n r0 r4 thr => Sys2Proof.Machine.execAtollEnable k n r0 r4 thr s
  | .atollDisable k n => Sys2Proof.Machine.execAtollDisable k n s
  | .remoteLink k m d n => Sys2Proof.Machine.execRemoteLink k m d n s
  | .linkAnswer k m => Sys2Proof.Machine.execLinkAnswer k m s
  | .remoteUnlink k m => Sys2Proof.Machine.execRemoteUnlink k m s
  | .straitWriteArrival k src us => Sys2Proof.Machine.execStraitWriteArrival k src us s
  | .straitReadRequest k c => Sys2Proof.Machine.execStraitReadRequest k c s
  | .slotCreditReturn k n => Sys2Proof.Machine.execSlotCreditReturn k n s
  | .wakeNotice k src c => Sys2Proof.Machine.execWakeNotice k src c s
  | .remoteRetry k c => Sys2Proof.Machine.execRemoteRetry k c s
  -- Movers (12_movers_and_regions.md)
  | .dmaShadowWrite e c b => Sys2Proof.Machine.execDmaShadowWrite e c b s
  | .dmaEnable e c ctrl v => Sys2Proof.Machine.execDmaEnable e c ctrl v s
  | .dmaTransferStart e us => Sys2Proof.Machine.execDmaTransferStart e us s
  | .dmaTransferComplete e => Sys2Proof.Machine.execDmaTransferComplete e s
  | .dmaArrival e c => Sys2Proof.Machine.execDmaArrival e c s
  | .dmaPause e c => Sys2Proof.Machine.execDmaPause e c s
  | .dmaPaused e c n => Sys2Proof.Machine.execDmaPaused e c n s
  | .dmaResume e c => Sys2Proof.Machine.execDmaResume e c s
  | .dmaAbort e c => Sys2Proof.Machine.execDmaAbort e c s
  | .dmaReset e c => Sys2Proof.Machine.execDmaReset e c s
  | .dmaWaitLimit e c => Sys2Proof.Machine.execDmaWaitLimit e c s
  | .windowWrite o n b secure => Sys2Proof.Machine.execWindowWrite o n b secure s
  -- External memory (14_memory_codec_encryption.md)
  | .codecWindowWrite n b => Sys2Proof.Machine.execCodecWindowWrite n b s
  | .memPatrol us => Sys2Proof.Machine.execMemPatrol us s
  -- Adaptation (13_adaptation.md)
  | .sampleCapture k n d => Sys2Proof.Machine.execSampleCapture k n d s
  | .adaptStepStart k d isles => Sys2Proof.Machine.execAdaptStepStart k d isles s
  | .adaptStepCommit k d loss lossExp => Sys2Proof.Machine.execAdaptStepCommit k d loss lossExp s
  | .adaptResetCommand w k b => Sys2Proof.Machine.execAdaptResetCommand w k b s
  -- The system (15_system.md)
  | .managerElection => Sys2Proof.Machine.execManagerElection s
  | .beaconTransmit => Sys2Proof.Machine.execBeaconTransmit s
  | .beacon at_ p src b => Sys2Proof.Machine.execBeacon at_ p src b s
  | .beaconWindowExpiry => Sys2Proof.Machine.execBeaconWindowExpiry s
  | .managerTakeover => Sys2Proof.Machine.execManagerTakeover s
  | .isolated => Sys2Proof.Machine.execIsolated s
  | .memberLost node => Sys2Proof.Machine.execMemberLost node s
  | .join at_ p src b => Sys2Proof.Machine.execJoin at_ p src b s
  | .joinAccept at_ p src b => Sys2Proof.Machine.execJoinAccept at_ p src b s
  | .digestSend => Sys2Proof.Machine.execDigestSend s
  | .digest at_ p src b => Sys2Proof.Machine.execDigest at_ p src b s
  | .digestCompare => Sys2Proof.Machine.execDigestCompare s
  | .epochSchedule w b => Sys2Proof.Machine.execEpochSchedule w b s
  | .epochCancel w => Sys2Proof.Machine.execEpochCancel w s
  | .streamPlacement => Sys2Proof.Machine.execStreamPlacement s
  | .epochReadinessClose => Sys2Proof.Machine.execEpochReadinessClose s
  | .rereadMember w b => Sys2Proof.Machine.execRereadMember w b s
  | .data at_ p src b => Sys2Proof.Machine.execData at_ p src b s
  | .ack at_ p src b => Sys2Proof.Machine.execAck at_ p src b s
  | .ackPeriodic src chan => Sys2Proof.Machine.execAckPeriodic src chan s
  | .causewayRetransmit dest chan => Sys2Proof.Machine.execCausewayRetransmit dest chan s
  | .flowResetSend dest chan => Sys2Proof.Machine.execFlowResetSend dest chan s
  | .flowReset at_ p src b => Sys2Proof.Machine.execFlowReset at_ p src b s
  | .relayRequest at_ p src b a => Sys2Proof.Machine.execRelayRequest at_ p src b a s
  | .relayResponse at_ p src b => Sys2Proof.Machine.execRelayResponse at_ p src b s
  | .relayTimeout transaction => Sys2Proof.Machine.execRelayTimeout transaction s
  -- Ethernet (16_ethernet.md)
  | .ethLinkUp at_ p => Sys2Proof.Machine.execEthLinkUp at_ p s
  | .ethLinkDown at_ p => Sys2Proof.Machine.execEthLinkDown at_ p s
  | .ethUnsupportedFrame p u => Sys2Proof.Machine.execEthUnsupportedFrame p u s
  | .arpRequest p mac sender target => Sys2Proof.Machine.execArpRequest p mac sender target s
  | .ndMessage p m => Sys2Proof.Machine.execNdMessage p m s
  | .icmpEchoRequest p dst src body => Sys2Proof.Machine.execIcmpEchoRequest p dst src body s
  | .multicastQuery p six group => Sys2Proof.Machine.execMulticastQuery p six group s
  | .pfcFrame at_ p b => Sys2Proof.Machine.execPfcFrame at_ p b s
  | .pfcRefresh p => Sys2Proof.Machine.execPfcRefresh p s
  | .pfcWatchdog p => Sys2Proof.Machine.execPfcWatchdog p s
  | .stopCommand at_ p src sport b => Sys2Proof.Machine.execStopCommand at_ p src sport b s
  | .releaseCommand at_ p src sport b => Sys2Proof.Machine.execReleaseCommand at_ p src sport b s
  | .stopHoldExpiry k => Sys2Proof.Machine.execStopHoldExpiry k s
  | .ptpEventMessage at_ p ns peer b => Sys2Proof.Machine.execPtpEventMessage at_ p ns peer b s
  | .ptpHoldover => Sys2Proof.Machine.execPtpHoldover s
  -- Object dictionary and control ports (17_object_dictionary.md)
  | .odEntryWrite w idx sub b a => Sys2Proof.Machine.execOdEntryWrite w idx sub b a s
  | .nmtStart at_ p => Sys2Proof.Machine.execNmtStart at_ p s
  | .nmtStop at_ p => Sys2Proof.Machine.execNmtStop at_ p s
  | .nmtEnterPreoperational at_ p => Sys2Proof.Machine.execNmtEnterPreoperational at_ p s
  | .nmtResetCommunication at_ p => Sys2Proof.Machine.execNmtResetCommunication at_ p s
  | .heartbeatProduce p => Sys2Proof.Machine.execHeartbeatProduce p s
  | .heartbeatReceive at_ p node => Sys2Proof.Machine.execHeartbeatReceive at_ p node s
  | .heartbeatLapse p => Sys2Proof.Machine.execHeartbeatLapse p s
  | .canBusOff at_ p => Sys2Proof.Machine.execCanBusOff at_ p s
  | .canErrorPassive at_ p => Sys2Proof.Machine.execCanErrorPassive at_ p s
  | .usdoForeignClient at_ p node => Sys2Proof.Machine.execUsdoForeignClient at_ p node s
  | .supervisorVersionWrite w b => Sys2Proof.Machine.execSupervisorVersionWrite w b s
  | .startService w b => Sys2Proof.Machine.execStartService w b s
  | .storeParameters w b => Sys2Proof.Machine.execStoreParameters w b s
  | .restoreDefaults w b => Sys2Proof.Machine.execRestoreDefaults w b s
  | .semaphoreClaim w b other => Sys2Proof.Machine.execSemaphoreClaim w b other s
  | .semaphoreRelease w b => Sys2Proof.Machine.execSemaphoreRelease w b s
  | .semaphoreRenew w b => Sys2Proof.Machine.execSemaphoreRenew w b s
  | .leaseExpiry q => Sys2Proof.Machine.execLeaseExpiry q s
  | .tokenRateLimitEnd q => Sys2Proof.Machine.execTokenRateLimitEnd q s
  -- Reset, firmware and update (18_firmware_and_update.md)
  | .deviceReset st trained fails => Sys2Proof.Machine.execDeviceReset st trained fails s
  | .stageFromSd w b card => Sys2Proof.Machine.execStageFromSd w b card s
  | .stagingComplete at_ readBack => Sys2Proof.Machine.execStagingComplete at_ readBack s
  | .sdCardRemoved at_ => Sys2Proof.Machine.execSdCardRemoved at_ s
  | .activate w b => Sys2Proof.Machine.execActivate w b s
  | .activationCoreSwitch at_ r selfCheck => Sys2Proof.Machine.execActivationCoreSwitch at_ r selfCheck s
  | .schedulerCoreSwitch at_ r selfCheck => Sys2Proof.Machine.execSchedulerCoreSwitch at_ r selfCheck s
  | .activationResume => Sys2Proof.Machine.execActivationResume s
  | .confirm w b => Sys2Proof.Machine.execConfirm w b s
  | .autoConfirm => Sys2Proof.Machine.execAutoConfirm s
  | .revert w b => Sys2Proof.Machine.execRevert w b s
  -- Faults, fencing and events (19_faults_and_availability.md)
  | .fenceCommand w b => Sys2Proof.Machine.execFenceCommand w b s
  | .isleHang k c => Sys2Proof.Machine.execIsleHang k c s
  | .fenceComplete k => Sys2Proof.Machine.execFenceComplete k s
  | .unfenceCommand w b => Sys2Proof.Machine.execUnfenceCommand w b s
  | .isleUnfenced at_ k ok => Sys2Proof.Machine.execIsleUnfenced at_ k ok s
  | .weightsReloaded at_ k row data => Sys2Proof.Machine.execWeightsReloaded at_ k row data s
  | .clearRingNotice w b => Sys2Proof.Machine.execClearRingNotice w b s
  | .emcyTransmit p => Sys2Proof.Machine.execEmcyTransmit p s
  | .eventLogPoll node => Sys2Proof.Machine.execEventLogPoll node s
  -- Owners and the ledger (20_owners_and_ledger.md)
  | .createOwner w b => Sys2Proof.Machine.execCreateOwner w b s
  | .keyLoad w b => Sys2Proof.Machine.execKeyLoad w b s
  | .ownerLockSet w b => Sys2Proof.Machine.execOwnerLockSet w b s
  | .ownerLockClear w b => Sys2Proof.Machine.execOwnerLockClear w b s
  | .killJob w b => Sys2Proof.Machine.execKillJob w b s
  | .scrubComplete at_ o => Sys2Proof.Machine.execScrubComplete at_ o s
  | .scrubOverdue o => Sys2Proof.Machine.execScrubOverdue o s
  | .ledgerSample at_ isles front movers rest mv amps => Sys2Proof.Machine.execLedgerSample at_ isles front movers rest mv amps s
  | .intervalClosed fails => Sys2Proof.Machine.execIntervalClosed fails s
  -- Power, thermal limits (21_power_thermal_pins.md)
  | .powerGood at_ => Sys2Proof.Machine.execPowerGood at_ s
  | .pfwAsserted at_ f => Sys2Proof.Machine.execPfwAsserted at_ f s
  | .pfwDeasserted at_ => Sys2Proof.Machine.execPfwDeasserted at_ s
  | .thermAsserted at_ => Sys2Proof.Machine.execThermAsserted at_ s
  | .thermDeasserted at_ => Sys2Proof.Machine.execThermDeasserted at_ s
  | .thermalSample at_ ts => Sys2Proof.Machine.execThermalSample at_ ts s
  | .thermalLimitStep at_ => Sys2Proof.Machine.execThermalLimitStep at_ s
  | .isleThermal k => Sys2Proof.Machine.execIsleThermal k s
  | .railMonitorSample at_ inRange f => Sys2Proof.Machine.execRailMonitorSample at_ inRange f s
  -- Further rows of the table
  | .atollNoticeClear k n v => Sys2Proof.Machine.execAtollNoticeClear k n v s
  | .canErrorActive at_ p => Sys2Proof.Machine.execCanErrorActive at_ p s
  | .arpReply p mac sender => Sys2Proof.Machine.execArpReply p mac sender s
  | .relayLeaseRenewal node => Sys2Proof.Machine.execRelayLeaseRenewal node s
  | .jtagInstruction op authenticated => Sys2Proof.Machine.execJtagInstruction op authenticated s

end Sys2Proof.Machine
end

