-- ==== Sys2Proof/Machine/Step.lean ====
section
/-! DEFINITION. One step: the command at the front of the queue, or one idle reference cycle (log entries 1 and 2). -/

namespace Sys2Proof.Machine

/-- A step: the command at the front of the queue runs on the state with the queue's rest; on an empty queue the block idles for
one reference cycle. -/
def step (s : State) : Host.Outcome State Fault Refusal :=
  match s.pending with
  | [] => .next (s.at_ (s.now + 1))
  | c :: rest => exec c { s with pending := rest }

/-- The state with the command a word of the table spells put at the front of the queue; unchanged where it spells none. -/
def State.withFetchWord (s : State) (nbits w : Nat) : State :=
  match decodeTableWord nbits w with
  | none => s
  | some c => { s with pending := c :: s.pending }

end Sys2Proof.Machine
end

