-- ==== Sys2Proof/Safety.lean ====
section
/-! DEFINITION. What counts as a safe run, in the terms the claims use: owners' windows stay legal and apart
(spec/12_movers_and_regions.md R335, R336), every store keeps its canonical form, and a step only moves the device on. -/

namespace Sys2Proof.Machine

/-- A keyed store in canonical form: keys rise, and no entry is what an unlisted key reads as. -/
def Stored {α : Type} (d : α) (m : List (Nat × α)) : Prop := m.Pairwise (·.1 < ·.1) ∧ ∀ e ∈ m, e.2 ≠ d

/-- A scratchpad whose words and tags are in canonical form. -/
def Scratchpad.Canonical (p : Scratchpad) : Prop := Memory.wf p.cells ∧ Stored 0 p.tags

/-- External memory, the keys of its blocks and the Ethernet buffers in canonical form. -/
def MemState.Canonical (m : MemState) : Prop := Memory.wf m.cells ∧ Stored 0 m.keys ∧ Memory.wf m.eth

/-- Every store of the device in canonical form, so that equal memories are equal data. -/
def State.Canonical (s : State) : Prop := s.mem.Canonical ∧ ∀ k : IsleNo, (s.isles[k]).sp.Canonical

/-- A window of the region table that R336 lets stand, `top` being the usable capacity of external memory. -/
def Window.Legal (top : Nat) (w : Window) : Prop :=
  w.space ≠ 0 →
    w.base ≤ w.limit
    ∧ (w.space = 1 → w.base % 4096 = 0 ∧ (w.limit + 1) % 4096 = 0 ∧ w.limit < top)
    ∧ (w.space = 2 → w.base % 64 = 0 ∧ (w.limit + 1) % 64 = 0 ∧ w.limit < spWords)
    ∧ (w.space = 3 → w.base % 4096 = 0 ∧ (w.limit + 1) % 4096 = 0 ∧ w.limit < 0x400000)
    ∧ (w.sharedRead = true → w.space = 1 ∧ w.write = false)
    ∧ (w.space ≠ 2 → w.everyIsle = false ∧ w.isle = 0)

/-- Two windows share no byte of external memory and none of the Ethernet buffers. -/
def Window.Apart (w v : Window) : Prop :=
  (w.space = 1 ∨ w.space = 3) → v.space = w.space → w.limit < v.base ∨ v.limit < w.base

/-- Every window is legal, and windows of different owners are apart. -/
def State.Isolated (s : State) : Prop :=
  (∀ (o : OwnerNo) (n : Fin 64), (s.windows[o][n]).Legal s.memTop)
  ∧ ∀ o p : OwnerNo, o ≠ p → ∀ n m : Fin 64, (s.windows[o][n]).Apart s.windows[p][m]

/-- The device after some work: the waiting commands are the same, no free value is drawn twice, nothing that left is called
back, windows stay isolated and stores canonical. -/
structure State.Flows (s t : State) : Prop where
  queue : t.pending = s.pending
  draws : s.free ≤ t.free
  trace : s.out <+: t.out
  windows : s.Isolated → t.Isolated
  stores : s.Canonical → t.Canonical

/-! ### A write of an entry that completes (R459, R461, R475) -/

/-- The state a write meets: the clock at its instant, and the leases that ran out before it free (R475). -/
def State.atWrite (s : State) (w : Write) : State := (s.at_ w.at_).expireBefore w.at_

/-- On a device that runs, a write of an entry reaches it, no activation's pause holds it, and it passes every check of R459
with value `v`. -/
structure State.Admits (s : State) (w : Write) (i sub : Nat) (b : Bytes) (v : OdVal) : Prop where
  running : s.power.tripped = false
  arrives : s.reaches w.req = true
  unheld : s.held i = false
  passes : (s.atWrite w).odAdmit w i sub b = .ok v

/-! ### A tile op that issues (R180 to R183, R186, R206) -/

/-- The state in which the head op of a context has passed its checks: the step's storage upsets have happened (R206). -/
def State.passed (s : State) (k : IsleNo) (c : CtxNo) (us : Upsets) : State :=
  (s.applyUpsets us.sp).modCtx k c fun x => { x with checked := true }

/-- The state as an op issues: its context has its units, and the op is counted for its owner (R182, R538). -/
def State.issued (s : State) (k : IsleNo) (c : CtxNo) (us : Upsets) : State := ((s.passed k c us).takeUnits k c).countOp k c

/-- On a device that runs, the op at the head of a context is of the row `key`, was fetched without a parity error, passes the checks of
R206 (`check` being its orders 8 and 9), has its units or may take them, and has not already made its writes. -/
structure State.Issues (s : State) (k : IsleNo) (c : CtxNo) (key : Nat × Nat) (us : Upsets) (check : Bytes → State → Option Nat)
    (op : Bytes) : Prop where
  running : s.power.tripped = false
  head : s.headFor k c key = some ⟨op⟩
  fetched : us.opParity = false
  sound : (s.applyUpsets us.sp).headFault k c op check = none
  takes : (s.passed k c us).mayRun k c = true
  fresh : ((s.issued k c us).ctx k c).sending = false

/-- The operands of a data op with work `w` that has issued: no tag or credit holds one, and no remote read is still to be fetched
(R183, R288). -/
structure State.Proceeds (s : State) (k : IsleNo) (c : CtxNo) (op : Bytes) (w : OpContext → OpWork) : Prop where
  free : (s.ctx k c).phase = .releasing ∨
    s.opHold k (s.inRerun (s.ctx k c).serves) (opAccesses (s.opContext k c op) (w (s.opContext k c op))) = .go
  near : (s.ctx k c).fetched = true ∨
    (opAccesses (s.opContext k c op) (w (s.opContext k c op))).any (fun a => a.far && a.rd) = false

end Sys2Proof.Machine
end

