-- ==== Sys2Proof/Certificates/Slice0/Obligations.lean ====
section
/-! DEFINITION. The statements for the provers: every command completes where its rules say it does, what it then leaves, and the
rules that hold over all steps. -/

open Sys2Proof Sys2Proof.Machine

/-- The control ops that need nothing but their context retire with the effect R203 and R226 give them: NOP has none, SETIX writes
or adds to its index register modulo 2^20, SETSEED loads the seed, and HALT leaves its context idle and disabled. -/
def Obligations.SimpleControlOpsRetire : Prop :=
  ∀ (s : State) (k : IsleNo) (c : CtxNo) (us : Upsets) (op : Bytes),
    let t := s.issued k c us
    let i : Fin 4 := Fin.ofNat 4 (fieldAt op 8 0 2)
    (s.Issues k c (1, 0) us noCheck op → exec (.nop k c us) s = .next (t.modCtx k c (·.retired)))
    ∧ (s.Issues k c (6, 0) us noCheck op → bitOf (byteAt op 8) 2 = false →
        exec (.setix k c us) s = .next (t.modCtx k c fun x =>
          Context.retired { x with ix := x.ix.set i (BitVec.ofNat 20 (bitsOf (leAt op 12 4) 0 20)) }))
    ∧ (s.Issues k c (6, 0) us noCheck op → bitOf (byteAt op 8) 2 = true →
        exec (.setix k c us) s = .next (t.modCtx k c fun x =>
          Context.retired { x with ix := x.ix.set i (x.ix[i] + BitVec.ofNat 20 (bitsOf (leAt op 12 4) 0 20)) }))
    ∧ (s.Issues k c (7, 0) us noCheck op →
        exec (.halt k c us) s = .next (t.modCtx k c fun x => { x.retired with enable := false, phase := .idle }))
    ∧ (s.Issues k c (8, 0) us noCheck op →
        exec (.setseed k c us) s = .next (t.modCtx k c fun x => Context.retired { x with seed := BitVec.ofNat 64 (leAt op 8 8) }))

/-- CLAIM takes an index and opens its block, BLOCK_END reports the tile and returns to the CLAIM, FENCE ends once nothing it
waits for is outstanding, and WAIT ends on a full tag, setting it empty where its op asks for that (R188, R204, R205, R300, R302).
-/
def Obligations.BlockAndWaitOpsComplete : Prop :=
  ∀ (s : State) (k : IsleNo) (c : CtxNo) (us : Upsets) (op : Bytes),
    let t := s.issued k c us
    let x := t.ctx k c
    let n := claimCounter op
    (∀ i u, s.Issues k c (2, 0) us noCheck op → x.block = none → x.phase ≠ .releasing → claimLen op ≤ x.queue.length →
        blockMalformed x.queue (claimLen op) = false → (t.counters[n]).claim k c x.owner = (.index i, u) →
        exec (.claim k c us) s = .next ((t.modCounter n fun _ => u).modCtx k c (·.claimed op t.counters[n] (some i))))
    ∧ (∀ b, s.Issues k c (3, 0) us noCheck op → x.block = some b → x.stopping = false →
        exec (.blockEnd k c us) s = .next ((t.modCounter b.counter (·.report b.index k c)).modCtx k c fun x =>
          Context.rest { x with block := none, pos := 0 }))
    ∧ (s.Issues k c (4, 0) us (State.fenceCheck k c) op → bitOf (byteAt op 8) 1 = false → x.phase ≠ .releasing → x.fenceGoal = none →
        x.signalled = false → x.unsent = [] → t.fenceMet k c op (t.fenceGoals k (byteAt op 9)) = true →
        exec (.fence k c us) s = .next ((t.modCtx k c fun x =>
          { x with fenceGoal := some (t.fenceGoals k (byteAt op 9)) }).modCtx k c (·.retired)))
    ∧ (∀ m j, s.Issues k c (5, 0) us (State.waitCheck k c) op → x.phase ≠ .releasing →
        t.slotAt (t.target k c op 8) = some (m, j) →
        ((t.isles[(t.target k c op 8).1]).atolls[m]).full.contains j = true →
        exec (.wait k c us) s = .next ((if bitOf (byteAt op 20) 0 then t.emptySlots (t.target k c op 8).1 m [j] else t).modCtx k c
          (·.retired)))

/-- Every matrix, skerry and vector op but the post-processors' performs its reads, its results and its writes, from the position where
it stopped to its end, or to the position where it is suspended (R180, R181, R193). -/
def Obligations.DataOpsPerform : Prop :=
  ∀ row ∈ ([(.conv, (0x20, 0), convWork), (.convBwd, (0x21, 0), convWork), (.wgrad, (0x22, 0), wgradWork),
      (.skConv, (0x40, 0), skWork), (.skConvBwd, (0x41, 0), skWork), (.vecEltAdd, (0x60, 1), eltWork),
      (.vecEltSub, (0x60, 2), eltWork), (.vecEltMul, (0x60, 3), eltWork), (.vecEltMax, (0x60, 4), eltWork),
      (.vecEltMin, (0x60, 5), eltWork), (.vecEltRequant, (0x60, 6), eltWork), (.vecEltAbsdiff, (0x60, 7), eltWork),
      (.vecEltCopy, (0x60, 8), eltWork), (.vecLut8, (0x61, 1), lutWork), (.vecLut16, (0x61, 2), lutWork),
      (.vecPoolMax, (0x62, 1), poolWork), (.vecPoolAvg, (0x62, 2), poolWork),
      (.vecResampleNearest, (0x63, 1), resampleWork), (.vecResampleBilinear, (0x63, 2), resampleWork),
      (.vecRotateForward, (0x64, 1), rotateWork), (.vecRotateInverse, (0x64, 2), rotateWork),
      (.vecReduceSum, (0x65, 1), reduceWork), (.vecReduceSumsq, (0x65, 2), reduceWork),
      (.vecOptimMoment1, (0x66, 1), moment1Work), (.vecOptimMoment2, (0x66, 2), moment2Work),
      (.vecOptimMaster, (0x66, 3), masterWork)] :
        List ((IsleNo → CtxNo → Option Nat → Upsets → Instr) × (Nat × Nat) × (OpContext → OpWork))),
    ∀ (s : State) (k : IsleNo) (c : CtxNo) (run : Option Nat) (us : Upsets) (op : Bytes),
      s.Issues k c row.2.1 us (fun op t => t.dataCheck k c op row.2.2) op → (s.issued k c us).Proceeds k c op row.2.2 →
      let oc := (s.issued k c us).opContext k c op
      exec (row.1 k c run us) s = .next ((s.issued k c us).performOp k c oc (row.2.2 oc) (opAccesses oc (row.2.2 oc)) run)

/-- The post-processors perform like any data op, and go on where they were suspended. At the op's end, unless it has faulted, INTAKE takes
the records it read into the frame it serves, in ascending record index; SUPPRESS makes the frame's detections, and where it left held
records unvisited sets bit 25 and raises 0x3D03; ARGMAX counts the pixels of its tile among those of the frame's map (R161 to R167). -/
def Obligations.PostProcessorsPerform : Prop :=
  ∀ (s : State) (k : IsleNo) (c : CtxNo) (us : Upsets) (op : Bytes),
    let i := s.issued k c us
    let x := s.ctx k c
    let oc := i.opContext k c op
    let done (w : OpContext → OpWork) (run : Option Nat) : State := i.performOp k c oc (w oc) (opAccesses oc (w oc)) run
    (s.Issues k c (0x67, 1) us (fun op t => t.dataCheck k c op intakeWork) op → i.Proceeds k c op intakeWork →
      (∀ n, exec (.vecBoxdecIntake k c (some n) us) s = .next (done intakeWork (some n)))
      ∧ exec (.vecBoxdecIntake k c none us) s = .next
        (let t := done intakeWork none
         if (t.ctx k c).phase = .faulted then t else t.takeRecords x.serves oc (intakeWork oc).x))
    ∧ (let found := i.suppressOf x.serves
       s.Issues k c (0x67, 2) us (fun op t => t.dataCheck k c op (t.suppressOf x.serves).1) op → i.Proceeds k c op found.1 →
       (∀ n, exec (.vecBoxdecSuppress k c (some n) us) s = .next (done found.1 (some n)))
       ∧ exec (.vecBoxdecSuppress k c none us) s = .next
         (let t := done found.1 none
          if (t.ctx k c).phase = .faulted then t else t.setDetections x.serves found.2))
    ∧ (s.Issues k c (0x68, 1) us (fun op t => t.dataCheck k c op argmaxWork) op → i.Proceeds k c op argmaxWork →
      (∀ n, exec (.vecArgmax k c (some n) us) s = .next (done argmaxWork (some n)))
      ∧ exec (.vecArgmax k c none us) s = .next
        (let t := done argmaxWork none
         if (t.ctx k c).phase = .faulted then t
         else match t.analysed x.serves with
           | none => t
           | some (sl, n, _) => t.modFrame sl n fun f =>
             f.mapped x.serves (x.block.map fun b => (b.counter.val, b.index, x.pos)) (oc.tile.rows.length * oc.tile.cols.length)))

/-- What a control core does to a context takes effect: a legal enable places its queue and starts it, a stop empties a context
with no op in progress and marks one that runs, a reset clears an idle or faulted one, and a push of 64 bytes into a queue with
room joins it (R185 to R187, R207, R210). -/
def Obligations.ContextCommandsComplete : Prop :=
  ∀ (s : State) (k : IsleNo) (c : CtxNo), s.power.tripped = false →
    let x := s.ctx k c
    (∀ (v : BitVec 32) (w : Serves), x.enable = false → x.phase = .idle → (s.isles[k]).health.phase = .available →
        v.toNat.testBit 6 = true → s.placementBad k c (bitsOf v.toNat 9 9) (bitsOf v.toNat 18 10) = false →
        exec (.contextEnable k c v w) s = .next (s.modCtx k c fun x => Context.rest { x with
          priority := Fin.ofNat 4 (bitsOf v.toNat 4 2)
          owner := Fin.ofNat 16 (bitsOf v.toNat 0 4)
          opqBase := bitsOf v.toNat 9 9
          opqCap := bitsOf v.toNat 18 10
          enable := true
          serves := w }))
    ∧ (x.phase = .running → (∀ n : CounterNo, (k, c) ∉ (s.counters[n]).claims) →
        exec (.contextStop k c) s = .next (s.modCtx k c fun x => { x with stopping := true }))
    ∧ (x.phase = .idle ∨ x.phase = .ready → x.suspended = false → (∀ n : CounterNo, (k, c) ∉ (s.counters[n]).claims) →
        exec (.contextStop k c) s = .next (s.modCtx k c (·.emptied)))
    ∧ (x.phase = .idle ∨ x.phase = .faulted → exec (.contextReset k c) s = .next (s.modCtx k c fun x =>
        { x.emptied with ix := Vector.replicate 4 0, seed := 0, faultCode := 0, faultOp := 0 }))
    ∧ (∀ op : Bytes, op.length = 64 → x.queue.length < x.opqCap →
        exec (.opPush k c op) s = .next (s.modCtx k c fun x =>
          { x with
            queue := x.queue ++ [⟨op⟩]
            phase := if x.phase = .idle ∧ x.enable = true ∧ x.stopping = false then .ready else x.phase }))

/-- A waiting context whose cause has cleared is ready again and takes its units where nothing keeps it from them; one that still
waits one cycle past its limit faults with 0x310B (R182 to R184). -/
def Obligations.WaitingContextsResumeOrFault : Prop :=
  ∀ (s : State) (k : IsleNo) (c : CtxNo), s.power.tripped = false → (s.ctx k c).phase = .waiting →
    (∀ t : Nat, let v := s.at_ t
      v.nat 0x2700 1 = 0 → (v.ctx k c).sending = false → v.causeCleared k c = true →
      exec (.tileOpResume k c t) s =
        .next (if (v.wake k c).mayRun k c then (v.wake k c).takeUnits k c else v.wake k c))
    ∧ exec (.contextWaitLimit k c) s =
        .next ((s.at_ ((s.ctx k c).waitSince + (s.isles[k]).waitLimit + 1)).faultCtx k c 0x310B)

/-- A tile counter takes the commands its state lists: configuration, open and arm while idle, close while armed, open or
exhausted, reset once exhausted or closed; an armed counter opens when its predecessor is complete, and a requeued index waits to
be handed out again (R298, R299, R304). A counter command in a state that does not list it, and a configuration write that breaks
R298, change no counter and raise 0x3202. A write of the command word does what its command does. -/
def Obligations.TileCountersTakeTheirCommands : Prop :=
  (∀ (s : State) (n : CounterNo), s.power.tripped = false →
    let t := s.counters[n]
    let opened (t : TileCounter) : TileCounter :=
      { t with phase := if t.total = 0 then .exhausted else .open_, next := 0, done := 0, handed := [], requeued := [] }
    (∀ off v u, t.phase = .idle → t.written off v.toNat = some u →
        exec (.counterConfigWrite n off v) s =
          .next (s.modCounter n fun _ => { u with isleMask := u.isleMask &&& s.availableMask }))
    ∧ (t.phase = .idle → t.total ≤ t.limit → t.claims = [] → exec (.counterOpen n) s = .next (s.modCounter n opened))
    ∧ (t.phase = .idle → exec (.counterArm n) s = .next (s.modCounter n fun t => { t with phase := .armed }))
    ∧ (t.phase = .armed → (s.counters[t.predecessor]).complete = true → t.total ≤ t.limit → t.claims = [] →
        exec (.counterArmedOpen n) s = .next (s.modCounter n opened))
    ∧ (t.phase = .armed ∨ t.phase = .open_ ∨ t.phase = .exhausted → t.claims = [] →
        exec (.counterClose n) s = .next (s.modCounter n fun t => { t with phase := .closed, requeued := [] }))
    ∧ (t.phase = .exhausted ∨ t.phase = .closed → exec (.counterReset n) s = .next (s.modCounter n fun _ => {}))
    ∧ (∀ i, t.phase = .open_ ∨ t.phase = .exhausted → t.requeueOk = true →
        (∃ h ∈ t.handed, h.index = i ∧ h.reported = false) → i ∉ t.requeued → t.requeued.length < 64 →
        exec (.counterRequeue n i) s =
          .next (s.modCounter n fun t => { t with requeued := insertAsc i t.requeued, phase := .open_ })))
  ∧ (∀ (s : State) (n : CounterNo), s.power.tripped = false →
    let t := s.counters[n]
    (t.phase ≠ .idle → exec (.counterOpen n) s = .next (s.raise 0x3202) ∧ exec (.counterArm n) s = .next (s.raise 0x3202))
    ∧ (t.phase = .idle ∨ t.phase = .closed → exec (.counterClose n) s = .next (s.raise 0x3202))
    ∧ (t.phase = .idle ∨ t.phase = .armed ∨ t.phase = .open_ → exec (.counterReset n) s = .next (s.raise 0x3202))
    ∧ (∀ i, t.phase = .idle ∨ t.phase = .armed ∨ t.phase = .closed →
        exec (.counterRequeue n i) s = .next (s.raise 0x3202))
    ∧ (∀ v : BitVec 32, 4096 < bitsOf v.toNat 0 13 ∨ 4096 < bitsOf v.toNat 13 13 ∨ 3 < bitsOf v.toNat 26 3 ∨ bitsOf v.toNat 29 3 ≠ 0 →
        exec (.counterConfigWrite n 0 v) s = .next (s.raise 0x3202))
    ∧ (∀ (off : Fin 8) (v : BitVec 32), off ≠ 2 → off ≠ 7 → t.phase ≠ .idle →
        exec (.counterConfigWrite n off v) s = .next (s.raise 0x3202))
    ∧ (s.raise 0x3202).counters = s.counters)
  ∧ (∀ (s : State) (n : CounterNo) (v : BitVec 32), s.power.tripped = false →
    let command := bitsOf v.toNat 0 3
    let reserved : Prop := bitsOf v.toNat 3 5 ≠ 0 ∨ bitsOf v.toNat 28 4 ≠ 0
    (¬ reserved →
      (command = 1 → exec (.counterConfigWrite n 7 v) s = exec (.counterOpen n) s)
      ∧ (command = 2 → exec (.counterConfigWrite n 7 v) s = exec (.counterArm n) s)
      ∧ (command = 3 → exec (.counterConfigWrite n 7 v) s = exec (.counterClose n) s)
      ∧ (command = 4 → exec (.counterConfigWrite n 7 v) s = exec (.counterReset n) s)
      ∧ (command = 5 → exec (.counterConfigWrite n 7 v) s = exec (.counterRequeue n (bitsOf v.toNat 8 20)) s))
    ∧ (reserved ∨ command = 0 ∨ 5 < command → exec (.counterConfigWrite n 7 v) s = .next (s.raise 0x3202)))

/-- An accepted write of an attribute entry or of the default takes the entry, and the rows whose hash mode or guard it changes
wait to be formatted; the end of the format pass leaves every such row zero, and an isle no longer busy (R261, R262). A scrub step
takes the next row under the strong guard, and where no flip is in it moves on past it, counting a pass after the isle's last such
row; its deadline falls 8,192 reference cycles after the row before (R275). -/
def Obligations.ScratchpadsAreFormattedAndScrubbed : Prop :=
  (∀ (s : State) (k : IsleNo), s.power.tripped = false →
    (∀ (e : Fin 33) (v : BitVec 64),
      let old := (s.isles[k]).sp.attributes
      let new := old.write e v.toNat
      let rows := (List.range spRows).filter fun r => old.at_ r != new.at_ r
      (e.val < 32 → (attrOf v.toNat).baseRow + (attrOf v.toNat).rows ≤ 12288) → attrReserved e v.toNat = false →
      attrsOverlap new.entries = false → s.isleBusy k = false →
      exec (.spAttrWrite k e v) s = .next (s.modSp k fun p =>
        { p with
          attrs := Vector.ofFn fun i => new.entries.getD i.val {}
          defaultHash := new.hash
          defaultStrong := new.strong
          formatBusy := p.formatBusy || rows != []
          toFormat := (p.toFormat ++ rows).dedup }))
    ∧ ∃ t, exec (.spFormatComplete k) s = .next t ∧ (t.isles[k]).sp.formatBusy = false ∧ (t.isles[k]).sp.toFormat = []
        ∧ ∀ row ∈ (s.isles[k]).sp.toFormat, ∀ word, rowOf word = row →
            cellsRead (t.isles[k]).sp.cells (32 * word) 32 = zeros 32 ∧ kvGet 0 word (t.isles[k]).sp.tags = 0)
  ∧ (∀ (s : State) (k : IsleNo) (r : Nat), s.power.tripped = false →
    let clean (v : State) : Prop :=
      ((v.isles[k]).sp.strongFrom (v.isles[k]).sp.scrubRow).or ((v.isles[k]).sp.strongFrom 0) = some r
      ∧ (v.isles[k]).health.phase ≠ .fenced ∧ ∀ u ∈ (v.isles[k]).sp.upsets, rowOf u.1 ≠ r
    let scrubbed (v : State) : State :=
      let last := ((v.isles[k]).sp.strongFrom (r + 1)).isNone
      let v := v.modSp k fun p => { p with scrubRow := if last then 0 else r + 1, scrubbedAt := v.now }
      if last then v.modCnt k fun n => { n with scrubPasses := n.scrubPasses + 1 } else v
    let due := s.at_ ((s.isles[k]).sp.scrubbedAt + 8192)
    (clean s → exec (.scrubRow k ⟨[], [], false⟩) s = .next (scrubbed s))
    ∧ (clean due → exec (.scrubDeadline k ⟨[], [], false⟩) s = .next (scrubbed due)))

/-- An atoll's registers: a legal enable spells its ring and empties every slot, an illegal one leaves its fields written and raises
0x4008, and while the atoll is disabled its fields take a write without it; a disable that no one waits on and no writer is linked to
takes it out of use, and any other is refused with 0x4008; a notice write clears by ones, but for a crossing of the same cycle, and sets
the high water by a zero (R16, R280, R281). A channel that waits on its slots is judged again as the atoll changes (R326). -/
def Obligations.AtollRegistersTakeWrites : Prop :=
  ∀ (s : State) (k : IsleNo) (n : AtollNo), s.power.tripped = false →
    let a := (s.isles[k]).atolls[n]
    (∀ (r0 r4 : BitVec 32) (thr : Nat), a.enable = false →
      let fields : Atoll := { a with
        base := bitsOf r0.toNat 0 20, slotWordsM1 := bitsOf r0.toNat 20 8
        slotCount := bitsOf r4.toNat 0 13, readers := bitsOf r4.toNat 13 4
        creditIsle := Fin.ofNat 16 (bitsOf r4.toNat 17 4), creditEnable := r4.toNat.testBit 21
        wmThreshold := if thr ≤ 4096 then thr else a.wmThreshold }
      (r0.toNat.testBit 28 = true → s.atollBad k n (atollOf r0.toNat r4.toNat) thr = false →
        exec (.atollEnable k n r0 r4 thr) s = .next ((s.modAtoll k n fun _ =>
          { base := bitsOf r0.toNat 0 20, slotWordsM1 := bitsOf r0.toNat 20 8, enable := true
            slotCount := bitsOf r4.toNat 0 13, readers := bitsOf r4.toNat 13 4
            creditIsle := Fin.ofNat 16 (bitsOf r4.toNat 17 4), creditEnable := r4.toNat.testBit 21
            wmThreshold := thr, full := [], head := 0, tail := 0 }).judgeChans k))
      ∧ (r0.toNat.testBit 28 = true → s.atollBad k n (atollOf r0.toNat r4.toNat) thr = true →
        exec (.atollEnable k n r0 r4 thr) s = .next ((s.modAtoll k n fun _ => fields).raise 0x4008 { isle := k }))
      ∧ (r0.toNat.testBit 28 = false → exec (.atollEnable k n r0 r4 thr) s = .next (s.modAtoll k n fun _ => fields)))
    ∧ ((∀ c : CtxNo, s.waitsOn k c n = false) → a.linkedBy = none →
        exec (.atollDisable k n) s = .next ((s.modAtoll k n fun a => { a with enable := false }).judgeChans k))
    ∧ ((∃ c : CtxNo, s.waitsOn k c n = true) ∨ a.linkedBy ≠ none → exec (.atollDisable k n) s = .next (s.raise 0x4008 { isle := k }))
    ∧ (∀ v : BitVec 32, exec (.atollNoticeClear k n v) s = .next (s.modAtoll k n fun a =>
        { a with
          notice := a.notice && (!v.toNat.testBit 13 || a.noticeAt == some s.now)
          highWater := if bitsOf v.toNat 0 13 = 0 then a.full.length else a.highWater }))

/-- A remote entry asks, is answered, and is taken down: the destination's atoll accepts the isle it gives credits to, whose entry then
copies the ring and holds a credit for each empty slot from the tail; an entry whose writes are all acknowledged unlinks both ends
(R291). The straits carry: the oldest word of a source is written at its bank and counted in, a context's remote reads are served
and counted out where they lie, an owed slot credit comes back, a wake notice readies the context it was kept for, and a retry
asks again after 256 strait cycles (R288 to R293). -/
def Obligations.StraitsLinkAndDeliver : Prop :=
  (∀ (s : State) (k : IsleNo) (m : Fin 16), s.power.tripped = false →
    let r := (s.isles[k]).remotes[m]
    let a := (s.isles[r.isle]).atolls[r.atoll]
    (∀ d n, r.linked = false → exec (.remoteLink k m d n) s =
        .next (s.modRemote k m fun _ => { isle := d, atoll := n, enable := true, requested := true }))
    ∧ (r.requested = true → ¬ (a.enable = true ∧ a.creditEnable = true ∧ a.creditIsle = k) →
        exec (.linkAnswer k m) s = .next (s.modRemote k m fun r => { r with requested := false }))
    ∧ (r.requested = true → a.enable = true → a.creditEnable = true → a.creditIsle = k →
        exec (.linkAnswer k m) s =
          .next ((s.modAtoll r.isle r.atoll fun a => { a with linkedBy := some (k, m), owed := 0 }).modRemote k m fun r =>
            { r with
              linked := true
              requested := false
              credits := a.emptyRun
              base := a.base
              slotWordsM1 := a.slotWordsM1
              slotCount := a.slotCount
              nextSlot := a.tail }))
    ∧ (s.writesDue k r = false → r.linked = true → a.linkedBy = some (k, m.val) →
        exec (.remoteUnlink k m) s =
          .next (((s.modRemote k m fun r => { r with enable := false, requested := false, next := none }).modAtoll r.isle r.atoll fun a =>
            { a with linkedBy := none, owed := 0 }).modRemote k m fun r => { isle := r.isle, atoll := r.atoll })))
  ∧ (∀ (s : State) (k : IsleNo), s.power.tripped = false →
    (∀ (src : IsleNo) (i : StraitItem) (w : WordWrite), (s.isles[k]).inbound.find? (·.src == src) = some i →
        i.msg = .word w → w.whole = true → w.isle = k → i.ctx = none → (∀ m : Fin 16, ((s.isles[src]).remotes[m]).linked = false) →
        exec (.straitWriteArrival k src ⟨[], [], false⟩) s = .next
          ((((s.modIsle k fun d => { d with inbound := dropFirst (·.src == src) d.inbound }).comeIn k w.word true).modCnt k fun n =>
            { n with remoteIn := n.remoteIn + 1 }).modSp k fun p => p.put w.word (w.combine []) i.owner))
    ∧ (∀ c, let x := s.ctx k c
        let far := (s.headAccesses k c).filter fun a => a.far && a.rd
        x.phase = .running → x.fetched = false → far ≠ [] → s.opHold k false far = .go →
        exec (.straitReadRequest k c) s = .next ((s.each far fun s a =>
          let n := BitVec.ofNat 64 a.addrs.length
          let s := s.each a.addrs fun s w => s.comeIn a.isle w true
          ((s.modCnt a.isle fun m => { m with remoteOut := m.remoteOut + n }).modCnt k fun m =>
            { m with remoteIn := m.remoteIn + n }).charge x.owner 0 (32 * a.addrs.length)).modCtx k c fun x =>
              { x with fetched := true }))
    ∧ (∀ (n : AtollNo) (j : IsleNo) (m : Fin 16), ((s.isles[k]).atolls[n]).linkedBy = some (j, m.val) →
        ((s.isles[k]).atolls[n]).owed ≠ 0 →
        exec (.slotCreditReturn k n) s =
          .next ((s.modAtoll k n fun a => { a with owed := a.owed - 1 }).modRemote j m fun r => { r with credits := r.credits + 1 }))
    ∧ (∀ (src : IsleNo) (c : CtxNo) (w : WakeNote), w ∈ (s.isles[k]).wakes → w.src = src → w.ctx = c →
        w.slot ∈ ((s.isles[k]).atolls[Fin.ofNat 64 w.atoll]).full → (s.ctx src c).phase = .waiting →
        ∃ t, exec (.wakeNotice k src c) s = .next t ∧ (t.ctx src c).phase = .ready ∧ (t.ctx src c).cause = .none
          ∧ (t.isles[k]).wakes.length + 1 = (s.isles[k]).wakes.length)
    ∧ (∀ (c : CtxNo) (r : RetryNote), (s.isles[k]).retries.find? (·.ctx == c) = some r →
        let v := (s.at_ r.due).modIsle k fun i => { i with retries := i.retries.filter (·.ctx != c) }
        (v.ctx k c).phase = .waiting → v.causeCleared k c = true → exec (.remoteRetry k c) s = .next (v.wake k c)))

/-- The registers of a channel take their writes: a whole descriptor fills an empty shadow, and moves on at once into an idle, enabled
channel that is not paused; DMA_CTRL gives an idle channel with an empty shadow its owner and its enable; a reset clears an idle or faulted
channel (R319, R332, R333). Pausing sets the bit: a running channel waits for the reads in flight, one that waits or is queued is paused at
once. When those reads are in, their data is written, counted for the owner, and the channel is paused where it stands, or queued if its bit
has been cleared since, or its transfer completes if its last read had issued; a resume queues it again, and an abort clears what has not
begun to read, or pauses first, raising 0x5022 (R328, R329, R331). -/
def Obligations.ChannelsTakeTheirCommands : Prop :=
  (∀ (s : State) (e : Engine) (c : ChanNo), s.power.tripped = false → c ∈ engineChans e →
    let x := s.chan e c
    (∀ b : Bytes, b.length = 64 → x.shadowValid = false → ¬(x.phase = .idle ∧ x.enable = true ∧ x.pauseBit = false) →
        exec (.dmaShadowWrite e c b) s = .next (s.modChan e c fun x => { x with shadow := b, shadowValid := true }))
    ∧ (∀ b : Bytes, b.length = 64 → x.shadowValid = false → x.phase = .idle → x.enable = true → x.pauseBit = false →
        exec (.dmaShadowWrite e c b) s = .next ((s.modChan e c fun x =>
          { x with
            shadow := b, active := b, shadowValid := false, row := 0, plane := 0, byteIn := 0, begun := false
            serial := x.serial + 1 }).queueChan e c))
    ∧ (∀ (v : BitVec 32) (w : Serves), x.phase = .idle → x.shadowValid = false →
        exec (.dmaEnable e c v w) s = .next (s.modChan e c fun x =>
          { x with owner := Fin.ofNat 16 (bitsOf v.toNat 0 4), enable := v.toNat.testBit 4, serves := w }))
    ∧ (x.phase = .idle ∨ x.phase = .faulted → exec (.dmaReset e c) s = .next (s.modChan e c fun x =>
        { x.cleared with faultCode := 0 })))
  ∧ (∀ (s : State) (e : Engine) (c : ChanNo), s.power.tripped = false → c ∈ engineChans e →
    let x := s.chan e c
    let d := transferOf x.active
    (x.phase = .running → exec (.dmaPause e c) s = .next (s.modChan e c fun x => { x with pauseBit := true, phase := .pausing }))
    ∧ (x.phase = .waiting ∨ x.phase = .queued →
        exec (.dmaPause e c) s = .next (s.modChan e c fun x => { x with pauseBit := true, phase := .paused }))
    ∧ (∀ n, x.phase = .pausing → x.aborting = false → d.dstKind ≠ 2 →
        let stop := max x.offset (s.inUnits d n)
        let moved := (s.endFills e c).moveOn e c stop
        (stop < d.total → exec (.dmaPaused e c n) s = .next (moved.modChan e c fun x =>
          { x with reading := [], phase := if x.pauseBit then .paused else .queued }))
        ∧ (d.total ≤ stop → exec (.dmaPaused e c n) s = .next (moved.completeChan e c)))
    ∧ (x.phase = .paused → exec (.dmaResume e c) s =
        .next ((s.modChan e c fun x => { x with pauseBit := false, shedPause := false }).queueChan e c))
    ∧ (x.phase = .running → exec (.dmaAbort e c) s =
        .next ((s.modChan e c fun x => { x with phase := .pausing, aborting := true }).raise 0x5022 { isle := engineIsle e }))
    ∧ (x.phase = .waiting ∨ x.phase = .queued ∨ x.phase = .paused → exec (.dmaAbort e c) s =
        .next ((s.modChan e c (·.cleared)).raise 0x5022 { isle := engineIsle e })))

/-- A transfer goes through its life: the engine grants its next channel, whose transfer passes its checks and reads its rows; its
last write leaves and the channel is idle, one transfer on; its data arrives in the order of completion; and a channel that waits
on its slots past the limit faults with 0x5024 (R318 to R327). -/
def Obligations.TransfersStartCompleteAndArrive : Prop :=
  ∀ (s : State) (e : Engine) (c : ChanNo), s.power.tripped = false → c ∈ engineChans e →
    let x := s.chan e c
    let d := transferOf x.active
    (∀ cs v, s.nextChan e = some c → x.begun = false → d.zeroSize = false → 
        let g := s.modEngine e fun g => { g with lastServed := c }
        g.transferCheck e x.owner x.active = none →
        (g.modChan e c fun x => { x with phase := .running, begun := true }).readAll e x.owner d x.offset = (none, cs, v) →
        exec (.dmaTransferStart e ⟨[], [], false⟩) s = .next (v.modChan e c fun x => { x with reading := cs }))
    ∧ ((engineChans e).find? (fun c => (s.chan e c).phase == .running) = some c → x.shadowValid = false → d.zeroSize = false →
        d.tagSrc = false → d.srcKind = 1 → d.dstKind ≠ 2 → d.codedDst = false → d.notify = false →
        exec (.dmaTransferComplete e) s = .next ((s.modChan e c fun x =>
          { x with
            phase := .idle
            completed := x.completed + 1
            active := zeros 64
            row := 0
            plane := 0
            byteIn := 0
            begun := false
            reading := []
            transit := x.transit ++ [⟨x.active, x.owner, x.serial, x.offset, x.reading⟩] }).charge x.owner 0
              ((x.reading.map (·.cost)).sum)))
    ∧ (∀ i rest, x.transit = i :: rest → s.wordsOut e c i.serial = false →
        let t := transferOf i.desc
        let stop := (s.nextSlot e t i.upTo).getD t.total
        (t.total ≤ stop → exec (.dmaArrival e c) s =
          .next ((s.modChan e c fun x => { x with transit := rest, arrived := x.arrived + 1, landed := x.landed + 1 }).land e i.owner t
            i.upTo stop (chunksBefore t.codedDst stop i.chunks)))
        ∧ (stop < t.total → exec (.dmaArrival e c) s =
          .next ((s.modChan e c fun x =>
            { x with transit := { i with upTo := stop, chunks := chunksAfter t.codedDst stop i.chunks } :: rest }).land e i.owner t
            i.upTo stop (chunksBefore t.codedDst stop i.chunks))))
    ∧ (∀ n, x.transit = [] → x.phase = .running → d.dstKind ≠ 2 → s.nextSlot e d x.offset = some n →
        exec (.dmaArrival e c) s = .next (s.moveOn e c n))
    ∧ (∀ k, e = .isle k → x.phase = .waiting → s.mayStart e x = false →
        exec (.dmaWaitLimit e c) s = .next ((s.at_ (x.waitSince + (s.isles[k]).waitLimit + 1)).faultChan e c 0x5024))

/-- A window is written only by the security core and only where R336 lets it stand; a write it refuses changes no window and
raises 0x5020. The memory controller's own commands: a legal codec window takes effect, and a patrol read of a sound atom moves
the patrol on by one atom, counting a pass after the last (R371, R386). -/
def Obligations.WindowsAndMemoryControllerAreSet : Prop :=
  (∀ (s : State) (o : OwnerNo) (n : Fin 64) (b : Bytes) (secure : Bool), s.power.tripped = false →
    (s.windowBad o b secure = false → s.grantHeld b = false →
        exec (.windowWrite o n b secure) s = .next { s with windows := s.windows.set o ((s.windows[o]).set n (windowOf b)) })
    ∧ ((secure = false ∨ b.length ≠ 32 ∨ ((windowOf b).space ≠ 0 ∧ (windowOf b).limit < (windowOf b).base)
          ∨ ((windowOf b).sharedRead = true ∧ (windowOf b).write = true)
          ∨ ((windowOf b).space = 1 ∧ s.memTop ≤ (windowOf b).limit)
          ∨ ((windowOf b).space = 1 ∧ ∃ (p : OwnerNo) (m : Fin 64), p ≠ o ∧ ((s.windows[p])[m]).space = 1
              ∧ ((s.windows[p])[m]).base ≤ (windowOf b).limit ∧ (windowOf b).base ≤ ((s.windows[p])[m]).limit)) →
        exec (.windowWrite o n b secure) s = .next (s.raise 0x5020) ∧ (s.raise 0x5020).windows = s.windows))
  ∧ (∀ s : State, s.power.tripped = false →
    (∀ (n : Fin 16) (b : Bytes), s.codecWindowBad n b = false →
        exec (.codecWindowWrite n b) s = .next (s.modMem fun m => { m with codec := m.codec.set n (codecWindowOf b) }))
    ∧ (s.mem.patrolAtom % 16 = 15 ∨ s.mem.upsetOf (s.mem.patrolAtom / 16 * 15 + s.mem.patrolAtom % 16) = none →
        let t := s.at_ (s.mem.patrolAt + 4000)
        exec (.memPatrol ⟨[], [], false⟩) s = .next (t.modMem fun m =>
          if s.physicalAtoms ≤ m.patrolAtom + 1 then { m with patrolAtom := 0, patrolAt := t.now, scrubPasses := m.scrubPasses + 1 }
          else { m with patrolAtom := m.patrolAtom + 1, patrolAt := t.now })))

/-- A sample capture of an even frame takes one stripe of the stage's input, chosen by the deterministic draw of R347, and opens a pair in
the next entry of the sample ring; the capture of the frame after it takes the same stripe and completes that pair; what they take is
written to the entry's half and charged to the slot's owner (R347, R348, R360). A step of
adaptation that may start takes its pairs and its charge, and marks the half it will write not valid; once nothing of the step is in
progress, its commit writes that half's header valid with the refreshed set, one step further on, and gives the next turn to the slots
after this one (R345, R350, R359, R360). -/
def Obligations.AdaptationCapturesAndCommits : Prop :=
  (∀ (s : State) (k : SlotNo) (n : BitVec 32) (d : Fin 2) (f : Frame) (img : PlanImage) (a : AdaptStage) (j : Nat),
    let b := s.adaptDesc k d
    let st := stageDesc img.body (adStage b)
    let h := stripeHeight img.body
    let stripes := stripeCount f.height h
    let size := adSampleBytes b / 2
    let taken (stripe e : Nat) : Bytes × State :=
      let bytes := (s.captured k f img.body st (adStage b) j stripe).take size
      (bytes, s.extWrite (s.slotOwner k) (adSampleBase b + e * adSampleBytes b + n.toNat % 2 * size) bytes)
    s.power.tripped = false → (s.slots[k]).frameOf n.toNat = some f → s.slotPlan k = some img →
    (s.slots[k]).adapt.find? (·.desc == d.val) = some a → (levelList img.body 0).findIdx? (· == adStage b) = some j →
    f.level = 0 → s.slotNat k 0x60 ≠ 0 → b ≠ [] →
    (let stripe := srBits f.tick (256 * k.val + adStage b) n.toNat % stripes
     let e := a.freeEntry (adSamples b)
     n.toNat % 2 = 0 → (∀ x ∈ stripesRead st h stripes stripe, ∃ y ∈ f.produced j, y.stripe = x) →
     exec (.sampleCapture k n d) s = .next (((taken stripe e).2.charge (s.slotOwner k) 0 (taken stripe e).1.length).modSlot k
       (·.modAdapt d fun _ => { a with
         pairs := { frame := n.toNat, stripe := stripe, entry := e, first := true, second := false } :: a.pairs.filter (·.entry != e)
         nextEntry := (e + 1) % adSamples b })))
    ∧ (∀ p, n.toNat % 2 = 1 → a.pairs.find? (fun p => p.frame + 1 == n.toNat && p.first) = some p →
      (∀ x ∈ stripesRead st h stripes p.stripe, ∃ y ∈ f.produced j, y.stripe = x) → (∀ q ∈ a.pairs, q.frame ≠ n.toNat) →
      (∀ q ∈ a.pairs, q.frame + 1 = n.toNat → q.first = true) →
      exec (.sampleCapture k n d) s = .next (((taken p.stripe p.entry).2.charge (s.slotOwner k) 0 (taken p.stripe p.entry).1.length).modSlot k
        (·.modAdapt d fun _ => { a with
          pairs := a.pairs.map fun q => if q.frame + 1 = n.toNat ∧ q.first then { q with second := true } else q }))))
  ∧ (∀ (s : State) (k : SlotNo) (d : Fin 2) (a : AdaptStage) (one : Bool) (h : AdaptHeader), s.power.tripped = false →
    (s.slots[k]).adapt.find? (·.desc == d.val) = some a → a.readHalf = some one → a.readHeader = some h →
    (∀ isles : BitVec 16, s.stepTurn = some k → s.stepMayStart k d = true →
      ∃ t, exec (.adaptStepStart k d isles) s = .next t
        ∧ (t.slots[k]).adapt.find? (·.desc == d.val) = some { a with
            running := some ⟨1 - h.deployedSet, s.tick.number, h.stepCount + 1, allIsles.filter (isles.getLsbD ·.val),
              adCycles (s.adaptDesc k d)⟩
            pairs := dropUsable (adBatch (s.adaptDesc k d)) a.pairs
            half0 := if one then { a.half0 with valid := false } else a.half0
            half1 := if one then a.half1 else { a.half1 with valid := false } }
        ∧ (t.slots[k]).charge = (s.slots[k]).charge + adCycles (s.adaptDesc k d)
        ∧ (t.slots[k]).steps = (s.slots[k]).steps + 1)
    ∧ (∀ (st : AdaptStep) (loss : BitVec 32) (lossExp : BitVec 8), a.running = some st → s.slotNat k 0x65 = 0 → s.stepBusy k d = false →
      let hdr : AdaptHeader :=
        { valid := true, deployedSet := st.set, generation := a.generation, stepCount := st.stepCount
          commitTick := s.tick.number, loss := loss.toInt, lossExp := lossExp.toInt
          baseline := if h.stepCount = 0 then loss.toInt else h.baseline
          baselineExp := if h.stepCount = 0 then lossExp.toInt else h.baselineExp }
      ∃ t, exec (.adaptStepCommit k d loss lossExp) s = .next t
        ∧ (t.slots[k]).adapt.find? (·.desc == d.val) = some { a with
            running := none
            half0 := if one then hdr else a.half0
            half1 := if one then a.half1 else hdr
            badLosses := 0 }
        ∧ t.avail.adaptLast = k))

/-- The tick's pins: an edge of TICK_IN in its window, the levels on either side of it at least 3 cycles long, brings the sync state on,
sets the phase error and ends the count of missing pulses; the fourth in a row locks a device that acquires (R51, R52). A window that closes
without an edge is a missing pulse: the count of R52 rises, saturating at 255, a locked device holds over, and the eighth in a row brings
free run. -/
def Obligations.TickInIsFollowed : Prop :=
  (∀ (s : State) (at_ after : Nat) (falling : Bool) (w : EdgeWindow), s.power.tripped = false →
    let v := s.at_ at_
    v.tick.sync ≠ .internal → v.tick.pinAt + 3 ≤ v.now → 3 ≤ after → falling = (v.nat 0x2100 5 == 1) →
    v.tick.window = some w → w.found = false → w.start < v.now + v.num 0x2100 4 → (v.now : Int) ≤ v.windowEnd w →
    ∃ t, exec (.tickinEdge at_ after falling) s = .next t
      ∧ t.tick.window = some { w with found := true } ∧ t.tick.edges = v.tick.edges + 1 ∧ t.tick.missing = 0
      ∧ t.num 0x2100 8 = v.now + v.num 0x2100 4 - w.boundary
      ∧ (v.tick.sync = .acquiring → v.tick.edges < 3 → t.tick.sync = .acquiring)
      ∧ (v.tick.sync = .acquiring → 3 ≤ v.tick.edges → t.tick.sync = .locked)
      ∧ (v.tick.sync = .holdover → t.tick.sync = .locked) ∧ (v.tick.sync = .locked → t.tick.sync = .locked))
  ∧ (∀ (s : State) (w : EdgeWindow), s.power.tripped = false → s.tick.window = some w → w.found = false →
    ∃ t, exec .tickinWindowClose s = .next t
      ∧ t.tick.missing = min 255 (s.tick.missing + 1) ∧ t.tick.edges = 0 ∧ t.tick.lost = s.tick.lost + 1
      ∧ (s.tick.sync = .locked → s.tick.lost ≠ 7 → t.tick.sync = .holdover)
      ∧ (s.tick.sync = .acquiring ∨ s.tick.sync = .holdover → s.tick.lost = 7 → t.tick.sync = .freeRun)
      ∧ (s.tick.sync = .acquiring ∨ s.tick.sync = .holdover → s.tick.lost ≠ 7 → t.tick.sync = s.tick.sync))

/-- TICK_OUT pulses at its offset from a boundary, the next one where the offset is negative, and its pin is high in the pulse only while
0x2100:0B is TRUE; an isle that is in service and has
not opened this tick opens its stagger slot 4 µs times its number after the boundary; and a window of the slew governor moves
every granted isle's array activity by one eighth, four at most while the device does not shed (R43 to R45, R53). -/
def Obligations.TickOutStaggerAndSlew : Prop :=
  ∀ s : State, s.power.tripped = false →
    (let q := s.num 0x2100 9
      let rise := (((if q < 0 then s.tick.next else s.tick.boundary : Nat) : Int) + q).toNat
      ∃ t, exec .tickOutPulse s = .next t ∧ t.tick.pulse = some (rise, rise + s.nat 0x2100 0x0A) ∧ t.now = max s.now rise
        ∧ (t.tickOutPin = true ↔ t.nat 0x2100 0x0B ≠ 0 ∧ rise ≤ t.now ∧ t.now < rise + s.nat 0x2100 0x0A))
    ∧ (∀ k : IsleNo, let v := s.at_ (s.tick.boundary + 400 * k.val)
      (v.isles[k]).slotOpen = false → (v.isles[k]).health.phase = .available → v.nat 0x2700 1 = 0 →
      exec (.staggerSlotOpen k) s = .next (v.modIsle k fun i => { i with slotOpen := true, slotOpenAt := v.now }))
    ∧ (let v := s.at_ (s.tick.windowAt + 50)
      ∃ t, exec .slewGovernorWindow s = .next t ∧ t.tick.windowAt = v.now ∧ t.tick.granted = v.grants.length
        ∧ (v.nat 0x2700 1 = 0 → t.tick.granted ≤ 4)
        ∧ ∀ k : IsleNo, (t.isles[k]).activity = if k ∈ v.grants then
            (if (v.isles[k]).activity < v.supplied k then (v.isles[k]).activity + 1 else (v.isles[k]).activity - 1)
          else (v.isles[k]).activity)

/-- A frame that borrows ends late at its deadline with 0x1002, and a frame whose work is complete ends done (R55). The model's reading
(DEDUCED, log entry 122): an in-line frame of which no line has come stays at its deadline. -/
def Obligations.FramesEndLateOrDone : Prop :=
  ∀ (s : State) (k : SlotNo), s.power.tripped = false →
    (∀ (f : Frame) (b deadline : Nat), (s.slots[k]).borrower = some f → f.borrow = some (b, deadline) →
      (f.unopened = false → exec (.borrowDeadline k) s =
        .next (((s.at_ deadline).raise 0x1002 { slot := k, detail := f.number }).finishFrame k f.number .late 0).pump)
      ∧ (f.unopened = true → exec (.borrowDeadline k) s = .next (s.at_ deadline).pump))
    ∧ (∀ (n : BitVec 32) (at_ : Nat) (f : Frame),
      let v := (s.at_ at_).modFrame k n.toNat ((s.at_ at_).settleAnalysis k)
      (v.slots[k]).frameOf n.toNat = some f → v.frameComplete k f = true →
      exec (.frameDone k n at_) s = .next (v.finishFrame k n.toNat .done 0).pump)

/-- The in-line port follows the camera: CAM_FV rising begins the next frame, a line of the stored width that finds a buffer joins
it, and CAM_FV falling ends it (R69, R70). A frame in progress on the in-line port is broken by a lost clock, a line stuck high,
or a gap without lines, each with its own code; the port takes the next frame once CAM_FV has been low long enough (R72, R73). -/
def Obligations.InlineFramesAreReceivedOrBroken : Prop :=
  (∀ (s : State) (at_ : Nat), s.power.tripped = false →
    let v := s.at_ at_
    let p := v.inline
    (v.portOn = true → p.broken = false → p.fv = false →
      exec (.camFvRise at_ false) s = .next ((v.modInline fun p =>
        { p with
          fv := true
          active := true
          nextFrame := (p.nextFrame + 1) % 2 ^ 32
          pulses := 0
          syncErrorNext := false
          lowSince := v.now
          status := setBitIf 0 10 p.syncErrorNext
          geo := v.geometry 0 }).beginInline p.nextFrame))
    ∧ (p.broken = false → p.fv = true →
      exec (.camFvFall at_ [] false) s = .next (v.closeInline.modInline fun p => { p with fv := false }))
    ∧ (∀ (words : List (BitVec 24)) (f : Frame), p.broken = false → p.active = true → words ≠ [] → v.inlineStuck words = false →
      p.pulses < v.inlineTotal → (v.lineSamples words).length = p.geo.width → (v.slots[(0 : SlotNo)]).frameOf p.number = some f →
      f.unopened = false → f.coasted = false → v.lineBuffer f (p.pulses / p.geo.exposures) = true →
      exec (.inlineLine at_ words false) s = .next ((v.modInline fun p => { p with pulses := p.pulses + 1, lowSince := v.now }).modFrame 0
        p.number fun f => { f with inlineLines := f.inlineLines ++
          [⟨p.pulses % p.geo.exposures, p.pulses / p.geo.exposures, 0,
            (List.range (v.lineSamples words).length).zip (v.lineSamples words)⟩] })))
  ∧ (∀ (s : State) (at_ : Nat) (words : List (BitVec 24)), s.power.tripped = false →
    (s.inline.active = true → exec (.inlineClockLoss at_ words) s = .next ((s.at_ at_).breakInline 0x2001 words))
    ∧ (s.inline.active = true → s.inlineStuck words = true →
        exec (.inlineStuck at_ words) s = .next ((s.at_ at_).breakInline 0x2002 words))
    ∧ (s.inline.active = true → s.inline.lowSince + s.slotNat 0 0x0E < at_ →
        exec (.inlineLineGap at_) s = .next ((s.at_ at_).breakInline 0x2003 []))
    ∧ (s.inline.broken = true → exec (.brokenRearm at_) s = .next ((s.at_ at_).modInline fun p => { p with broken := false, fv := false })))

/-- A stripe datagram that passes every check of R78 is accepted into its frame's entry; the first check it fails in order 1 to 7
counts it, and nothing else of the slot's ring changes. -/
def Obligations.StripeDatagramsAreJudgedInOrder : Prop :=
  ∀ (s : State) (at_ : Nat) (p : EthNo) (src b : Bytes) (k : SlotNo), s.power.tripped = false →
    let a := slice src 0 16
    let w := (s.at_ at_).bump (ethIndex p) 0x20
    let v := w.settleRing k w.now
    (s.at_ at_).linkUp p = true → b.length ≤ w.udpRoom p a → w.nat 0x2700 1 = 0 → w.hasRole p 0 = true → w.dgSlot b = some k →
    let i := slotIndex k
    let sl := v.slots[k]
    let fresh := seqFresh (if v.dgNewKey k b then none else sl.seq) (dgSeq b)
    let ok12 := dgWellFormed b && v.sourceOk k a
    (∀ e u, ok12 = true → v.dgAuthentic k b = true → fresh = true → sl.frameFits (dgFrame b) = true → sl.conflicts b = false →
        dgRunOk b = true → (v.noteSequence k b).dgEntry k b = (some e, u) →
        exec (.stripeDatagram at_ p src b) s = .next (u.acceptDatagram k e b))
    ∧ (ok12 = false → exec (.stripeDatagram at_ p src b) s = .next (v.bump i 0x11))
    ∧ (ok12 = true → v.dgAuthentic k b = false →
        exec (.stripeDatagram at_ p src b) s = .next (((v.bump i 0x12).markDropped k b 9).raiseOnce 0x200A k { slot := k }))
    ∧ (ok12 = true → v.dgAuthentic k b = true → fresh = false → exec (.stripeDatagram at_ p src b) s = .next (v.bump i 0x13))
    ∧ (ok12 = true → v.dgAuthentic k b = true → fresh = true → sl.frameFits (dgFrame b) = false →
        exec (.stripeDatagram at_ p src b) s = .next (v.bump i 0x14))
    ∧ (ok12 = true → v.dgAuthentic k b = true → fresh = true → sl.frameFits (dgFrame b) = true → sl.conflicts b = true →
        exec (.stripeDatagram at_ p src b) s = .next ((v.bump i 0x15).markDropped k b 8))
    ∧ (ok12 = true → v.dgAuthentic k b = true → fresh = true → sl.frameFits (dgFrame b) = true → sl.conflicts b = false →
        dgRunOk b = false → exec (.stripeDatagram at_ p src b) s = .next (v.bump i 0x11))

/-- A timer of a filling entry closes it for its reason at the cycle it runs out, and an unauthenticated slot that has been silent
long enough forgets its newest frame and its sequence record (R82, R87). -/
def Obligations.RingTimersTakeEffect : Prop :=
  ∀ (s : State) (k : SlotNo), s.power.tripped = false → k ≠ 0 →
    (∀ i reason due, (s.slots[k]).filling = [i] → s.entryDue k ((s.slots[k]).entries.getD i {}) = (reason, due) → s.forgetDue k = none →
        (reason ≠ 4 → exec (.reorderGraceExpiry k) s = .next ((s.at_ due).closeEntry k i reason due))
        ∧ (reason = 4 → exec (.silenceTimeoutExpiry k) s = .next ((s.at_ due).closeEntry k i reason due)))
    ∧ (∀ due, (s.slots[k]).filling = [] → s.forgetDue k = some due →
        exec (.streamForget k) s = .next ((s.at_ due).modSlot k fun sl =>
          { sl with newest := none, seq := none, lastAccepted := none, restartPending := true, lost := [] }))

/-- A sequence that fails check 4 of R78 keeps failing it, whatever is accepted after, and one that has passed fails it from then
on (R79). -/
def Obligations.SequencesAreAcceptedOnce : Prop :=
  ∀ (r : Option SeqRecord) (q : Nat),
    seqFresh (some (seqNote r q).1) q = false
    ∧ ∀ q', seqFresh r q' = false → seqFresh (some (seqNote r q).1) q' = false

/-- A stripe the front may take, and whose turn it is, is processed: its samples are held for the first stage, it is the next stripe done,
and its samples are counted for the load and charged to the slot's owner (R96, R103 to R105, R114). A stage starts the next stripe its
producer and a free buffer allow, and a stripe it has started completes: its output, a function of the lines it reads, is held, its new
state is written, what no consumer needs is released, and a stripe of the cut leaves as DATA; a state read that meets an uncorrectable atom
ends the frame with 0x3E07 and invalidates the next under reason 7 (R127, R130, R133, R138, R145, R150, R416). -/
def Obligations.StripesAreProcessedInOrder : Prop :=
  (∀ (s : State) (at_ : Nat) (k : SlotNo) (n : BitVec 32) (i : Fin 512) (f : Frame) (p : PlanImage), s.power.tripped = false →
    let t := s.at_ at_
    let img := imageOf f.front
    let h := stripeHeight p.body
    (t.slots[k]).frameOf n.toNat = some f → t.planOf f.plan = some p → t.frontMay k f p.body i = true → t.frontTurn k f = true →
    let count := f.geo.width * f.geo.exposures * (stripeLines h f i).length
    let counted := ((if i.val = 0 then t.countOutside k f img else t).countFront k f img h i).codedReads k f h i
    let made := counted.modFrame k n.toNat fun g =>
      { g with
        frontDone := g.frontDone ++ [i.val]
        frontHeld := g.frontHeld ++ [StripeData.pack i 0 (t.frontSamples k f img p.body i)] }
    exec (.frontStripe at_ k n i) s =
      .next ((made.modTick fun x => { x with frontSamples := x.frontSamples + count }).chargeSamples (made.slotOwner k) count))
  ∧ (∀ (s : State) (at_ : Nat) (k : SlotNo) (n : BitVec 32) (j : Fin 16) (i : Fin 512) (f : Frame), s.power.tripped = false →
    let t := s.at_ at_
    let body := t.bodyOf f
    (t.slots[k]).frameOf n.toNat = some f →
    (t.stageMay f body j i = true → exec (.stageStripeStart at_ k n j i) s =
      .next (t.modFrame k n.toNat (·.modStage j fun r => { r with started := r.started ++ [i.val] })))
    ∧ (∀ img d r us, t.planOf f.plan = some img → (levelStages body f.level)[j.val]? = some d → f.stages[j.val]? = some r →
        t.nat 0x2700 1 = 0 → i.val ∈ r.started → i.val ∉ r.completed →
        let u := t.applyMemUpsets us.mem
        let v := u.readState (stateReads f d.1 body d.2 i)
        let out := StripeData.pack i (stOutType d.2) (u.stageOutput k f img d.1 d.2 j i)
        let held := ((v.2.writeState k f img d.1 d.2 j i).modFrame k n.toNat (·.modStage j fun r =>
          { r with completed := r.completed ++ [i.val], held := r.held ++ [out] })).release k n.toNat
        (v.1 = false → exec (.stageStripeComplete at_ k n j i us) s = .next
          (if held.slotNat k 0x70 = 1 ∧ j.val + 1 = (levelStages body f.level).length then
            held.sendCut k f (i.val + 1 == stripeCount f.height (stripeHeight body)) out
          else held))
        ∧ (v.1 = true → exec (.stageStripeComplete at_ k n j i us) s = .next
          (((v.2.raise 0x3E07 { slot := k, detail := n.toNat }).addReason k 7).finishFrame k n.toNat .failed 0x3E07))))

/-- Writes of a slot's parameter image: a write after which the whole image is legal leaves it in the slot's shadow, one after
which it is not is refused with 0x06090030, and a write of 0x30ss:26 copies the default image into the shadow (R118, R119). Writes
of plans: 0, or a loaded plan that passes the checks of R124 and R148 (R159 for an analysis plan), becomes the entry's pending
value; a plan that is not loaded is refused and raises 0x3E03, one that fails a check its code. Commands of a slot through the
object dictionary: 0x30ss:3B asks for warming with reason 8, 0x30ss:64 abandons the slot's adaptation steps and resets each stage
at the next frame, and 0x2100:0C has the next boundary declare a sync reset (R52, R59, R142, R346). -/
def Obligations.SlotEntriesAct : Prop :=
  (∀ (s : State) (w : Write) (k : SlotNo) (b : Bytes) (v : OdVal),
    let t := s.atWrite w
    let shadow (i : Bytes) : State := (t.modSlot k fun sl => { sl with frontShadow := some i }).answerTo w.req 0
    (∀ block : Fin 5,
      let sub := if block = 4 then 0x25 else 0x20 + block.val
      s.Admits w (slotIndex k) sub b v →
      (imageOk (t.shadowWith k sub v.bytes) = true →
        exec (.frontImageWrite w k block b) s = .next (shadow (imageTrim (t.shadowWith k sub v.bytes))))
      ∧ (imageOk (t.shadowWith k sub v.bytes) = false →
        exec (.frontImageWrite w k block b) s = .next (t.answerTo w.req 0x06090030)))
    ∧ (s.Admits w (slotIndex k) 0x24 b v →
      (imageOk (t.shadowWith k 0x24 v.bytes) = true →
        exec (.defectListWrite w k b) s = .next (shadow (imageTrim (t.shadowWith k 0x24 v.bytes))))
      ∧ (imageOk (t.shadowWith k 0x24 v.bytes) = false →
        exec (.defectListWrite w k b) s = .next (t.answerTo w.req 0x06090030)))
    ∧ (s.Admits w (slotIndex k) 0x26 b v →
        exec (.loadDefaults w k b) s = .next (shadow (imageOf (t.entry 0x2200 1).bytes))))
  ∧ (∀ (s : State) (w : Write) (k : SlotNo) (b : Bytes) (img : Option PlanImage) (v : OdVal),
    let l := s.loadPlan img
    let t := l.atWrite w
    let stored (sub : Nat) : State := (t.storeEntry (slotIndex k) sub v).answerTo w.req 0
    let refused (c : Nat) : State := (t.raise c { slot := k }).answerTo w.req 0x06090030
    (l.Admits w (slotIndex k) 0x30 b v →
      (v.int = 0 → exec (.planWrite w k b img) s = .next (stored 0x30))
      ∧ (∀ p, v.int ≠ 0 → t.planOf v.int.toNat = some p →
        exec (.planWrite w k b img) s = .next
          (match (t.planCheck k p.body).or (t.adaptCheck k p) with | none => stored 0x30 | some c => refused c))
      ∧ (v.int ≠ 0 → t.planOf v.int.toNat = none → exec (.planWrite w k b img) s = .next (refused 0x3E03)))
    ∧ (∀ source : Bool,
      let sub := if source then 0x4A else 0x49
      let plan := if source then (t.coming (slotIndex k) 0x49).toNat else v.int.toNat
      let src : SlotNo := Fin.ofNat 48 (if source then v.int.toNat else (t.coming (slotIndex k) 0x4A).toNat)
      l.Admits w (slotIndex k) sub b v →
      (plan = 0 → exec (.analysisPlanWrite w k source b img) s = .next (stored sub))
      ∧ (∀ p, plan ≠ 0 → t.analysisOf plan = some p →
        exec (.analysisPlanWrite w k source b img) s = .next
          (match t.analysisCheck k src p.body with | none => stored sub | some c => refused c))
      ∧ (plan ≠ 0 → t.analysisOf plan = none → exec (.analysisPlanWrite w k source b img) s = .next (refused 0x3E03))))
  ∧ (∀ (s : State) (w : Write) (k : SlotNo) (b : Bytes) (v : OdVal),
    let t := s.atWrite w
    (s.Admits w (slotIndex k) 0x3B b v → exec (.forceWarming w k b) s = .next ((t.addReason k 8).answerTo w.req 0))
    ∧ (s.Admits w (slotIndex k) 0x64 b v → exec (.adaptResetCommand w k b) s =
        .next (((t.each (t.slots[k]).adapt fun x a => x.abandonStep k a.desc 4).modSlot k fun sl =>
          { sl with adapt := sl.adapt.map fun a => { a with resetPending := true } }).answerTo w.req 0))
    ∧ (s.Admits w 0x2100 0x0C b v →
        (t.tick.sync = .internal → exec (.resyncCommand w b) s =
          .next ((t.modTick fun x => { x with resync := true }).answerTo w.req 0))
        ∧ (t.tick.sync ≠ .internal → exec (.resyncCommand w b) s =
          .next ((t.modTick fun x => { x with sync := .acquiring, edges := 0, lost := 0, resync := true }).answerTo w.req 0))))

/-- A formatter writes the stripe of its tap into the frame's output entry, or ends the frame where every entry is pinned;
analysis starts on its source's finished frame, whose entry is pinned, or is skipped where that frame has no usable outcome; and
the datagrams of a slot's oldest finished frame leave in order (R150, R157, R160, R171 to R174). -/
def Obligations.OutputsAreWrittenAndSent : Prop :=
  ∀ (s : State) (at_ : Nat) (k : SlotNo) (n : BitVec 32), s.power.tripped = false →
    let t := s.at_ at_
    (∀ (kind : Fin 3) (i : Fin 512) (f : Frame), (t.slots[k]).frameOf n.toNat = some f → t.formatMay k f (kind.val + 1) i = true →
      (t.takeOut k f = none → exec (.formatterStripe at_ k n kind i) s =
        .next ((t.raise 0x3D01 { slot := k, detail := n.toNat }).finishFrame k n.toNat .failed 0x3D01))
      ∧ (∀ e u, t.takeOut k f = some (e, u) →
        let h := stripeHeight (u.bodyOf f)
        let tap : TapStripe :=
          { alpha := f.knobs.alpha, w := f.width, h := f.height, lines := stripeLines h f i
            px := tapPixel h ((((u.tapOf k f (kind.val + 1)).bind fun j => f.stages[j]?).map (·.held)).getD []) }
        let put := u.each (u.formatted k (kind.val + 1) tap) fun x sec => x.each sec.2 fun y l =>
          (y.ringWrite k (y.outBase k e + y.sectionAt k f sec.1 + l.1 * (x.sectionShape k f.width f.height sec.1).1) l.2).2
        let done := put.modFrame k n.toNat fun g => { g with formatted := g.formatted ++ [(kind.val + 1, i.val)] }
        exec (.formatterStripe at_ k n kind i) s =
          .next ((done.chargeSamples (done.slotOwner k) (f.width * tap.lines.length)).release k n.toNat)))
    ∧ (∀ f : Frame, (t.slots[k]).frameOf n.toNat = some f → t.slotNat k 0x49 ≠ 0 → f.analysis = .none → t.nat 0x2700 1 = 0 →
      (∀ e, t.sourceOf k f = .ready e → exec (.analysisStart at_ k n) s =
        .next ((t.modSlot (Fin.ofNat 48 (t.slotNat k 0x4A)) fun sl =>
          { sl with outRing := modAt sl.outRing e fun x => { x with pins := (k.val, n.toNat) :: x.pins } }).modFrame k n.toNat fun g =>
            { g with analysis := .running }))
      ∧ (t.sourceOf k f = .missing → exec (.analysisStart at_ k n) s =
        .next ((t.modFrame k n.toNat fun g => { g with analysis := .skipped, status := setBit g.status 23 }).raise 0x3D06
          { slot := k, detail := n.toNat })))
    ∧ (∀ j rest, ((t.slots[k]).stop.stopped = true → t.resultStopped k = true) → (t.slots[k]).result.jobs = j :: rest →
      let u := t.modSlot k fun sl => { sl with result := { sl.result with jobs := rest } }
      exec (.resultTransmit at_ k) s =
        .next (u.each (u.resultParts k j (max 64 (((u.resultEgress k).map (u.resultLimit k)).getD 8896))) fun x r => x.sendResult k j r))

/-- A confirmed epoch that falls on this boundary is applied: it first makes every value that is pending for it active, those written
too late for it staying pending for the next; it leaves the tick's number as it is, and an epoch that is not due or has been applied is
not applied again (R423, R424). A boundary opens the tick of the next number, or of a number given, at the instant that was placed for it
(R37, R38, R41). -/
def Obligations.BoundariesOpenTicksAndEpochs : Prop :=
  ∀ s : State, s.power.tripped = false →
    (s.sys.confirmed = some s.tick.number → s.tick.epochDone ≠ some s.tick.number →
      let late := s.od.lateFor = some s.tick.number
      let due := if late then s.od.pendE else s.mergeLate.od.pendE
      exec .epochApply s = .next s.applyEpoch
      ∧ s.applyEpoch.tick.number = s.tick.number
      ∧ s.activate.od.pendE = (if late then s.od.pendLate else [])
      ∧ ∀ i sub v, (odKey i sub, v) ∈ due → due.Pairwise (·.1 ≠ ·.1) → sub < 256 → s.activate.entry i sub = v)
    ∧ (s.sys.confirmed ≠ some s.tick.number ∨ s.tick.epochDone = some s.tick.number → exec .epochApply s = .next s)
    ∧ ∀ prog : Option Programme,
      let t := (s.boundary prog).pump
      exec (.tickBoundary prog) s = .next t
      ∧ ((∀ k : SlotNo, (s.slots[k]).borrower = none) →
          t.tick.boundary = s.tick.next ∧ t.tick.number = s.tick.load.getD ((s.tick.number + 1) % 2 ^ 48)
          ∧ s.tick.next ≤ t.now ∧ s.now ≤ t.now)

/-- A device that starts as manager and hears no beacon until its wait ends becomes manager under the next term, the only member;
one that heard a beacon goes on joining. A standby without its manager takes over at a boundary, a worker that counted no beacon
for 8 boundaries is isolated, and a silent member is dropped (R395, R399, R405, R406). The manager sends a beacon 10 µs after its
boundary to every node of its table; a member counts the first beacon of a boundary that comes in time from its manager, whatever its term; a
boundary whose window ends without one is a missed beacon, the third of which in a row raises 0x7003 (R400, R401, R406). -/
def Obligations.ManagersAreElectedAndBeaconsCounted : Prop :=
  (∀ s : State, s.power.tripped = false →
    (∀ t, s.sys.listenUntil = some t → s.role = 4 →
      (s.sys.heard = true → exec .managerElection s =
        .next ((s.modSys fun y => { y with listenUntil := none }).raise 0x7002))
      ∧ (s.sys.heard = false → t ≤ s.tick.number → ∃ u, exec .managerElection s = .next u ∧ u.role = 1
          ∧ u.nat 0x2900 7 = (s.nat 0x2900 7 + 1) % 2 ^ 32 ∧ u.num 0x2900 6 = s.sys.node ∧ u.sys.listenUntil = none))
    ∧ (s.role = 2 → 3 ≤ s.sys.uncounted → s.tick.sync = .holdover ∨ s.tick.sync = .freeRun → s.now = s.tick.boundary →
        s.sys.confirmed = none → s.sys.namedEpoch = none →
        let others := (List.range 48).filter fun k => k != s.sys.node && s.isMember k
        let u := (s.becomeManager.raise 0x7001).modSys fun y =>
          { y with
            members := others.map fun k => { node := k, joined := true, since := (s.becomeManager.raise 0x7001).tick.number - 2 }
            placements := [] }
        exec .managerTakeover s = .next (u.each others fun x k => (x.negotiate k).readImage k))
    ∧ (s.role = 2 ∨ s.role = 3 → 8 ≤ s.sys.uncounted → exec .isolated s = .next ((s.takeRole 5).raise 0x7013))
    ∧ (∀ (node : Fin 48) (m : MemberState), s.role = 1 → s.member node = some m → m.joined = true → 3 ≤ s.tick.number →
        m.since + 3 ≤ s.tick.number → (∀ i, 1 ≤ i → i ≤ 3 → m.reported (s.tick.number - i) = false) →
        exec (.memberLost node) s = .next ((((s.setMembership (withoutBit s.membership node)).setMismatch node false).modSys fun y =>
          { y with members := y.members.filter (·.node != node.val) }).raise 0x7008 { detail := node })))
  ∧ (∀ s : State, s.power.tripped = false →
    (s.role = 1 → s.sys.beaconTick ≠ some s.tick.number → s.now ≤ s.tick.boundary + 20000 →
      let t := s.at_ (s.tick.boundary + 1000)
      let u := t.modSys fun y => { y with beaconTick := some t.tick.number, standby := t.standbyNode }
      exec .beaconTransmit s = .next (u.each u.otherNodes fun x k => x.cwOnce 3 k 0 0 t.beacon))
    ∧ (∀ at_ p src b f u, (s.at_ at_).cwTake 3 p src b = (some f, u) →
      let term := beAt f.payload 20 4
      (u.role = 1 → u.nat 0x2900 7 < term → exec (.beacon at_ p src b) s = .next (u.modSys fun y => { y with yieldDue := true }))
      ∧ (u.role ≠ 1 → u.sys.listenUntil ≠ none → exec (.beacon at_ p src b) s =
          .next ((u.setNum 0x2900 7 (max (u.nat 0x2900 7) term : Nat)).modSys fun y => { y with heard := true }))
      ∧ (u.role ≠ 1 → u.sys.listenUntil = none → u.nat 0x2900 6 = f.src → u.tick.boundary < u.now →
          u.now ≤ u.tick.boundary + u.period / 2 → u.sys.counted = false →
          exec (.beacon at_ p src b) s = .next (u.countBeacon f.src f.payload)))
    ∧ (s.role = 2 ∨ s.role = 3 ∨ s.role = 4 ∨ s.role = 5 → s.sys.counted = false → s.sys.expired = false →
        s.now ≤ s.tick.boundary + s.period / 2 → s.tick.sync ≠ .holdover → s.tick.sync ≠ .freeRun → s.sys.heldRaised = true →
        let t := s.at_ (s.tick.boundary + s.period / 2)
        let u := (t.modSys fun y => { y with uncounted := t.sys.uncounted + 1, expired := true }).bump 0x2900 0x12
        exec .beaconWindowExpiry s = .next
          (if t.sys.uncounted + 1 = 3 ∧ (u.role = 2 ∨ u.role = 3) then u.raise 0x7003 else u)))

/-- A JOIN is acknowledged and answered: with reason 0, and the node's image is then read, or with the reason that refuses it; a
refusal raises 0x7007 at the device that joins (R404). A member sends its report once a tick, the manager keeps it, and half a
period after the boundary each report of the tick is compared once, a member that ceases to agree raising 0x700A (R421, R427,
R428). -/
def Obligations.MembersJoinAndReport : Prop :=
  (∀ (s : State) (at_ : Nat) (p : EthNo) (src b : Bytes) (f : CwFrame) (t : State), s.power.tripped = false →
    ((s.at_ at_).cwTake 5 p src b = (some f, t) →
      let u := t.sendAck f.src f.chan
      let inUse : Prop := ∃ m ∈ u.member f.src, m.joined = true ∧ ∃ i ≤ 2, i ≤ u.tick.number ∧ m.reported (u.tick.number - i) = true
      let answered (reason : Nat) : State := u.cwReliableSend 6 f.src 1 (byte reason :: zeros 7)
      (u.role = 1 → inUse → exec (.join at_ p src b) s = .next (answered 1))
      ∧ (u.role = 1 → ¬ inUse → byteAt f.payload 0 / 16 ≠ 1 → exec (.join at_ p src b) s = .next (answered 2))
      ∧ (u.role = 1 → ¬ inUse → byteAt f.payload 0 / 16 = 1 → exec (.join at_ p src b) s =
          .next (((((answered 0).modSys fun y => { y with members := y.members.filter (·.node != f.src) ++ [{ node := f.src }] }).negotiate
            f.src).readImage f.src))))
    ∧ ((s.at_ at_).cwTake 6 p src b = (some f, t) →
      let u := t.sendAck f.src f.chan
      exec (.joinAccept at_ p src b) s =
        .next (if u.role = 4 ∧ byteAt f.payload 0 ≠ 0 then u.raise 0x7007 { detail := u.sys.node } else u)))
  ∧ (∀ s : State, s.power.tripped = false →
    (s.role = 2 ∨ s.role = 3 → s.sys.digestTick ≠ some s.tick.number → s.now ≤ s.tick.boundary + s.period / 4 →
      exec .digestSend s = .next ((s.modSys fun y => { y with digestTick := some s.tick.number }).cwOnce 4 (s.nat 0x2900 6) 0 0
        s.report.bytes))
    ∧ (∀ at_ p src b f u m, (s.at_ at_).cwTake 4 p src b = (some f, u) → u.member f.src = some m → u.role = 1 → m.joined = true →
        let r := reportOf f.payload
        (r.depleted = false ∨ (∃ q ∈ m.reports.head?, q.depleted = true)) → exec (.digest at_ p src b) s =
          .next (u.modMember f.src fun m => { m with reports := (r :: m.reports).take 4 }))
    ∧ (s.role = 1 → s.sys.compareTick ≠ some s.tick.number → s.now ≤ s.tick.boundary + s.period / 2 → s.avail.depleted = false →
        let t := (s.at_ (s.tick.boundary + s.period / 2)).modSys fun y => { y with compareTick := some s.tick.number, ownDepleted := false }
        exec .digestCompare s = .next (t.each t.sys.members fun x m =>
          match m.reports.find? (·.tick == x.tick.number) with
          | none => x
          | some r =>
            if m.joined = false then x
            else if x.reportMatches m r = true then
              (if x.mismatched m.node = true then (x.setMismatch m.node false).raise 0x700B { detail := m.node } else x)
            else if x.mismatched m.node = true then x
            else (x.setMismatch m.node true).raise 0x700A { detail := m.node })))

/-- Epochs: an epoch is scheduled at least 16 ticks ahead where none is scheduled, and cancelled until readiness closes; streams
are placed once for it; two ticks before it readiness closes and it is confirmed, or cleared with 0x700D; and a manager's write of
0x2900:10 reads a member's image afresh (R419, R422, R423, R428). -/
def Obligations.EpochsAreScheduledAndConfirmed : Prop :=
  ∀ s : State,
    (∀ w b v, s.Admits w 0x2900 0x0A b v →
      let t := s.atWrite w
      (t.role ≤ 1 → v.int ≠ 0 → t.nat 0x2900 0x0A = 0 → t.tick.number + 16 ≤ v.int.toNat →
        exec (.epochSchedule w b) s = .next ((t.setNum 0x2900 0x0A v.int).settleLate.answerTo w.req 0))
      ∧ (1 < t.role ∨ (v.int ≠ 0 ∧ (t.nat 0x2900 0x0A ≠ 0 ∨ v.int.toNat < t.tick.number + 16)) →
        exec (.epochSchedule w b) s = .next (t.answerTo w.req 0x06090030)))
    ∧ (∀ w v, s.Admits w 0x2900 0x0A (zeros 6) v → v.int = 0 →
      let t := s.atWrite w
      t.role ≤ 1 → t.nat 0x2900 0x0A = 0 ∨ t.tick.number + 2 < t.nat 0x2900 0x0A →
        exec (.epochCancel w) s = .next (((t.setNum 0x2900 0x0A 0).settleLate.modSys fun y => { y with confirmed := none }).answerTo w.req 0))
    ∧ (∀ w b v, s.Admits w 0x2900 0x10 b v →
      let t := s.atWrite w
      t.role ≤ 1 → exec (.rereadMember w b) s =
        .next ((if (t.member v.int.toNat).any (·.joined) then t.readImage v.int.toNat else t).answerTo w.req 0))
    ∧ (s.power.tripped = false → s.role ≤ 1 →
        (s.tick.number + 2 < s.nat 0x2900 0x0A → s.sys.placedFor ≠ some (s.nat 0x2900 0x0A) →
          exec .streamPlacement s = .next s.place)
        ∧ (s.nat 0x2900 0x0A = s.tick.number + 2 → s.sys.confirmed ≠ some (s.nat 0x2900 0x0A) → s.now ≤ s.tick.boundary + 1000 →
          ((if s.role = 0 then (if s.ready then none else some s.sys.node) else s.holdsBack (s.nat 0x2900 0x0A)) = none →
            exec .epochReadinessClose s = .next (State.releaseClaims (s.modSys fun y => { y with confirmed := some (s.nat 0x2900 0x0A) })))
          ∧ (∀ k, (if s.role = 0 then (if s.ready then none else some s.sys.node) else s.holdsBack (s.nat 0x2900 0x0A)) = some k →
            exec .epochReadinessClose s = .next (State.releaseClaims ((s.setNum 0x2900 0x0A 0).settleLate.raise 0x700D { detail := k })))))

/-- DATA an activation flow accepts reaches its slot and is acknowledged, an ACK moves its flow's window and what waits is sent,
an ACK is repeated 100 µs after the last, and a frame whose retransmission time is over is sent again, six times at most (R412 to
R417). A failed flow asks for a reset every 100 µs, and a receiver that is asked discards its window, ends the frames in progress
and answers with a fresh ACK (R414). -/
def Obligations.FlowsMoveAndReset : Prop :=
  (∀ s : State, s.power.tripped = false →
    (∀ at_ p src b a f t k, (s.at_ at_).freeBuffer p = some a → (s.at_ at_).cwTake 1 p src b = (some f, t) →
        t.flowSlot 2 f.src f.chan = some k →
        exec (.data at_ p src b) s = .next (State.pump ((t.takeData p a k f).sendAck f.src f.chan)))
    ∧ (∀ at_ p src b f t, (s.at_ at_).cwTake 2 p src b = (some f, t) →
        exec (.ack at_ p src b) s = .next (t.takeAck f.src f.payload))
    ∧ (∀ (node : Fin 48) (chan : BitVec 8) x, s.rxChannel node chan.toNat = some x → s.role ≠ 0 →
        exec (.ackPeriodic node chan) s = .next ((s.at_ (x.ackedAt + 10000)).sendAck node chan.toNat))
    ∧ (∀ (node : Fin 48) (chan : BitVec 8) t u, (s.flow node chan.toNat).due = some (t, u) →
        (u.again < 6 → exec (.causewayRetransmit node chan) s = .next (State.pump
          ((((s.at_ t).setFlow { s.flow node chan.toNat with
            unacked := (s.flow node chan.toNat).unacked.map fun x =>
              if x.seq = u.seq then { x with again := x.again + 1, sentAt := (s.at_ t).now } else x }).countAgain
                node chan.toNat).cwSend node (2 ≤ chan.toNat) u.bytes)))
        ∧ (6 ≤ u.again → exec (.causewayRetransmit node chan) s = .next (State.pump ((s.at_ t).failFlow node chan.toNat)))))
  ∧ (∀ s : State, s.power.tripped = false →
    (∀ (node : Fin 48) (chan : BitVec 8) t, (s.flow node chan.toNat).resetDue = true → (s.flow node chan.toNat).resetAt = some t →
      let u := (s.at_ t).setFlow { s.flow node chan.toNat with resetAt := some (max (s.at_ t).now t + 10000) }
      exec (.flowResetSend node chan) s = .next (u.cwOnce 9 node chan.toNat (u.chanOwner node chan.toNat) []))
    ∧ (∀ at_ p src b f t, (s.at_ at_).cwTake 9 p src b = (some f, t) →
      let u := (t.modSys fun y =>
        { y with
          spaces := y.spaces.map fun x =>
            if x.src == f.src && x.chan == f.chan && !x.ack then { x with next := 0, held := [] } else x }).releaseBuffers
              fun d => d.src == f.src && d.chan == f.chan
      exec (.flowReset at_ p src b) s = .next (State.pump
        ((match u.flowSlot 2 f.src f.chan with | some k => u.failFrames k 0x700E | none => u).sendAck f.src f.chan))))

/-- The relay: a member acknowledges a request, and executes and answers it once its last part has come, or holds it through the pause of
an activation; the manager takes an
answer once whole and abandons a request after 100 ms; a claim it holds on a member is renewed 500 ms after the last renewal; and
a poll asks a joined member for the number of its events (R418, R462, R475, R476, R525). -/
def Obligations.RequestsAreRelayed : Prop :=
  ∀ s : State, s.power.tripped = false →
    (∀ at_ p src b a f t, (s.at_ at_).cwTake 7 p src b = (some f, t) →
      let u := t.sendAck f.src f.chan
      (∀ x y, byteAt f.payload 2 = u.sys.node → u.joinRequest f.src f.payload = (x, y) →
        (x = none → exec (.relayRequest at_ p src b a) s = .next y.pump)
        ∧ (∀ r, x = some r →
          let v := y.loadPlan a.img
          (v.held (usdoIndex r) = true → exec (.relayRequest at_ p src b a) s =
            .next (v.hold (.relayed f.src (beAt f.payload 0 2) r a.card)).pump)
          ∧ (v.held (usdoIndex r) = false → exec (.relayRequest at_ p src b a) s =
            .next (State.pump ((v.relayed r a.card).2.each
              (relayFrames (beAt f.payload 0 2) (v.relayed r a.card).2.sys.node (v.relayed r a.card).1)
              fun s x => s.cwReliableSend 8 f.src 1 x))))))
    ∧ (∀ at_ p src b f t, (s.at_ at_).cwTake 8 p src b = (some f, t) →
      ∀ r got y, (t.sendAck f.src f.chan).joinAnswer (beAt f.payload 0 2) f.payload = (some (r, got), y) → r.member = f.src →
        exec (.relayResponse at_ p src b) s = .next (y.takeAnswer r got))
    ∧ (∀ (n : BitVec 16) r, s.sys.relays.find? (·.transaction == n.toNat) = some r →
        exec (.relayTimeout n) s = .next (State.takeAnswer
          ((s.at_ (r.sentAt + 10000000)).modSys fun y => { y with relays := y.relays.filter (·.transaction != n.toNat) })
          r (usdoAbort (usdoIndex r.request) (usdoSub r.request) 0x05040000)))
    ∧ (∀ (node : Fin 48) m token, s.member node = some m → m.claim = some token → s.role = 1 →
        let t := s.at_ (m.renewAt + 50000000)
        exec (.relayLeaseRenewal node) s =
          .next ((t.modMember node fun m => { m with renewAt := t.now }).relayTo node (usdoWrite 0x2010 4 (toLe 4 token))))
    ∧ (∀ (node : Fin 48) m, s.role = 1 → s.member node = some m → m.joined = true →
        exec (.eventLogPoll node) s = .next (s.relayTo node (usdoRead 0x2600 1)))

/-- A port's link comes up at its mode's rate with 0x7021 and goes down with 0x7020, its queued frames dropped; a port that runs
answers ARP, neighbour solicitations, echo requests and group queries, learns a neighbour on its link, and counts a frame outside
the subset (R431, R433, R436, R445). -/
def Obligations.PortsLinkAndAnswer : Prop :=
  ∀ (s : State) (p : EthNo), s.power.tripped = false →
    (∀ at_, let t := s.at_ at_
      (t.nat (ethIndex p) 1 ≠ 0 → t.linkUp p = false → t.nat 0x2700 1 ≠ 1 → exec (.ethLinkUp at_ p) s =
        .next (State.settleError ((t.setNum (ethIndex p) 9 (if t.nat (ethIndex p) 1 ≤ 2 then 2 else 3 : Nat)).raise 0x7021)))
      ∧ (t.linkUp p = true → exec (.ethLinkDown at_ p) s = .next (State.settleError (State.raise
          ((t.setNum (ethIndex p) 9 0).modPort p fun x =>
            { x with dropped := x.dropped + x.queue.length, queue := [], pausing := false, heldSince := none, discarding := false
                     neighbours := [] }) 0x7020))))
    ∧ (s.linkUp p = true → s.nat 0x2700 1 = 0 ∨ s.causewayPort = some p →
      let c := s.bump (ethIndex p) 0x20
      (∀ u, c.outside p u = true → exec (.ethUnsupportedFrame p u) s = .next (c.bump (ethIndex p) 0x23))
      ∧ (∀ mac sender target, c.ownAddr p (mapped target) = true → exec (.arpRequest p mac sender target) s =
          .next ((c.countFrame p).emit (.frame p 0x0806 (c.arpBody p 2 mac (mapped sender)))))
      ∧ (∀ mac sender, c.nextHop p (mapped sender) = mapped sender → exec (.arpReply p mac sender) s =
          .next (c.learn p (mapped sender) mac))
      ∧ (∀ target x y, c.ownAddr p target = true → exec (.ndMessage p (.solicit target x y)) s =
          .next ((c.countFrame p).emit
            (.frame p 0x1003A ([136, 0, 0, 0, 0x60, 0, 0, 0] ++ slice target 0 16 ++ [2, 1] ++ macOf p))))
      ∧ (∀ target mac, c.nextHop p target = slice target 0 16 → exec (.ndMessage p (.advertise target mac)) s =
          .next (c.learn p (slice target 0 16) mac))
      ∧ (∀ dst src body, body.length + (if isV4 dst then 24 else 44) ≤ s.nat (ethIndex p) 2 → c.ownAddr p dst = true →
          exec (.icmpEchoRequest p dst src body) s =
            .next (((c.resolve p src).countFrame p).emit
              (if isV4 dst then .frame p 0x10001 ([0, 0, 0, 0] ++ body) else .frame p 0x1003A ([129, 0, 0, 0] ++ body))))
      ∧ (∀ six group, exec (.multicastQuery p six group) s =
          .next (c.reportGroups p 2 ((c.groups p).filter fun g => isV4 g != six && (allZero group || g == group)))))

/-- A PFC frame that names the data class holds it for its quanta, a refresh repeats a pause 100 µs after the last while the
buffer is above 96 KiB, and the watchdog discards what waits once the class has been held longer than its limit (R440, R441). An
accepted stop frame is counted, its sequence noted, the stream's waiting datagrams dropped and the stream stopped for its hold; an
accepted release, or the end of the hold, lets it run; a frame that is not accepted is counted and changes no stream (R446 to
R448). -/
def Obligations.PausesAndStopFrames : Prop :=
  (∀ (s : State) (p : EthNo), s.power.tripped = false →
    (∀ at_ b,
      let c' := ((s.at_ at_).bump (ethIndex p) 0x20).bump (ethIndex p) 0x29
      let q := beAt b (4 + 2 * s.nat 0x2A00 5) 2
      20 ≤ b.length → beAt b 0 2 = 0x0101 → (s.at_ at_).linkUp p = true → (s.at_ at_).nat 0x2700 1 = 0 →
      bitOf (beAt b 2 2) (s.nat 0x2A00 5) = true → q ≠ 0 →
      let d := c'.flushData p
      exec (.pfcFrame at_ p b) s = .next (d.modPort p fun x =>
        { x with
          heldSince := if d.dataHeld p then (d.eth.ports[p]).heldSince else some d.now
          heldUntil := d.now + d.quantaCycles p q }))
    ∧ ((s.eth.ports[p]).pausing = true → 98304 < (s.eth.ports[p]).dataFill → s.linkUp p = true →
        let t := s.at_ ((s.eth.ports[p]).pausedAt + 10000)
        exec (.pfcRefresh p) s = .next ((t.modPort p fun q => { q with pausedAt := t.now }).sendPfc p 0xFFFF))
    ∧ (∀ since, (s.eth.ports[p]).heldSince = some since → since + 100000 * s.nat 0x2A00 6 < (s.eth.ports[p]).heldUntil →
        s.now < (s.eth.ports[p]).heldUntil → (s.eth.ports[p]).discarding = false →
        exec (.pfcWatchdog p) s = .next (State.raise
          (((s.at_ (since + 100000 * s.nat 0x2A00 6)).modPort p fun q => { q with discarding := true, queue := [] }).bump
            (ethIndex p) 0x2A) 0x7025)))
  ∧ (∀ (s : State) (at_ : Nat) (p : EthNo) (src : Bytes) (sport : BitVec 16) (b : Bytes), s.power.tripped = false →
    (let t := s.at_ at_
     let c := t.bump (ethIndex p) 0x20
     let noted (k : SlotNo) : State :=
       (c.bump (ethIndex p) 0x2B).modSlot k fun sl => { sl with stop := sl.stop.note c.now (beAt b 8 8) }
     t.linkUp p = true → t.nat 0x2700 1 = 0 ∨ t.causewayPort = some p →
      (∀ k, byteAt b 1 = 1 → c.stopAccepted src sport.toNat b = some k → (∀ q, (c.slots[k]).stop.lastSeq = some q → q ≤ beAt b 8 8) →
        let d := (noted k).dropJobs k
        exec (.stopCommand at_ p src sport b) s = .next (d.modSlot k fun sl =>
          { sl with
            stop := { sl.stop with
              stopped := true
              holdEnd := if beAt b 4 4 = 0 then none else some ((noted k).now + 100000 * beAt b 4 4) } }))
      ∧ (∀ k, byteAt b 1 = 2 → c.stopAccepted src sport.toNat b = some k → (∀ q, (c.slots[k]).stop.lastSeq = some q → q ≤ beAt b 8 8) →
        exec (.releaseCommand at_ p src sport b) s = .next ((noted k).releaseResult k))
      ∧ (byteAt b 1 = 1 → c.stopAccepted src sport.toNat b = none → exec (.stopCommand at_ p src sport b) s =
          .next ((c.bump (ethIndex p) 0x2C).raiseOnce 0x7024 p))
      ∧ (byteAt b 1 = 2 → c.stopAccepted src sport.toNat b = none → exec (.releaseCommand at_ p src sport b) s =
          .next ((c.bump (ethIndex p) 0x2C).raiseOnce 0x7024 p)))
    ∧ (∀ (k : SlotNo) t, (s.slots[k]).stop.stopped = true → (s.slots[k]).stop.holdEnd = some t →
        exec (.stopHoldExpiry k) s = .next ((s.at_ t).releaseResult k)))

/-- PTP: a Sync of the selected master that carries its time steers device time, one that does not waits for its follow-up, and 3
s without a Sync leave the clock in holdover with 0x7026 (R450, R451). -/
def Obligations.PtpSteersDeviceTime : Prop :=
  ∀ s : State, s.power.tripped = false →
    (∀ at_ (p : EthNo) (ns : Fin 10) peer b, let t := s.at_ at_
      t.nat 0x2A00 7 = p.val → t.linkUp p = true → 44 ≤ b.length → fieldAt b 1 0 4 = 2 → byteAt b 4 = byteAt t.ptpSettings 2 →
      t.eth.ptp.master = some (ptpSender b) → ptpType b = 0 →
      let c := t.bump (ethIndex p) 0x20
      let came := c.deviceNs + ns.val
      let u := c.modPtp fun x => { x with lastSync := some c.now }
      exec (.ptpEventMessage at_ p ns peer b) s = .next
        (if bitOf (byteAt b 6) 1 then u.modPtp fun x => { x with waiting := some (ptpSeq b, came - ptpCorrection b) }
         else u.synced p peer (ptpTime b + ptpCorrection b) came))
    ∧ (∀ t, s.eth.ptp.lastSync = some t → s.nat 0x2A00 9 = 1 →
        exec .ptpHoldover s = .next (((s.at_ (t + 300000000)).setNum 0x2A00 9 2).raise 0x7026))

/-- NMT commands reach an enabled port that is on the bus: start, stop and pre-operational set its state, and a reset of
communication frees its domains, forgets its negotiation, takes its settings and announces the port (R454, R458). A port sends its
heartbeat when it is due and arms the next; its supervisor's heartbeat restarts the leases of its requester; a consumer heartbeat
that is late lapses once, with 0x800A (R457, R464, R474). A port's fault confinement state follows its controller, with 0x8007 at
bus-off and 0x8008 at error passive, and a request from a node that is not its supervisor is counted (R455, R456). -/
def Obligations.ControlPortsFollowTheirCommands : Prop :=
  (∀ (s : State) (at_ : Nat) (p : CanNo), s.power.tripped = false →
    let t := s.at_ at_
    (t.can[p]).enabled = true → (t.can[p]).status ≠ .busOff →
    exec (.nmtStart at_ p) s = .next (t.modCan p fun c => { c with nmt := .operational })
    ∧ exec (.nmtStop at_ p) s = .next (t.modCan p fun c => { c with nmt := .stopped })
    ∧ exec (.nmtEnterPreoperational at_ p) s = .next (t.modCan p fun c => { c with nmt := .preOperational })
    ∧ (let q := portRequester p
       let u := (((t.freeDomains q).modReq q fun r => { r with nego := .none, version := 0, agreed := 0 }).applyCan p).modCan p fun c =>
         { c with nmt := .preOperational }
       exec (.nmtResetCommunication at_ p) s = .next
        ((if (u.can[p]).enabled then u.emit (.can p (0x700 + (u.can[p]).nodeId) [0]) else u).armHeartbeat p)))
  ∧ (∀ (s : State) (p : CanNo), s.power.tripped = false →
    (∀ t, (s.can[p]).produceAt = some t → (s.can[p]).enabled = true →
      let u := (s.at_ t).modCan p fun c => { c with produceAt := some (t + 100000 * (s.at_ t).nat 0x1017 0) }
      exec (.heartbeatProduce p) s = .next (if (u.can[p]).status = .busOff then u
        else u.emit (.can p (0x700 + (u.can[p]).nodeId) [byte (u.can[p]).nmt.code])))
    ∧ (∀ at_ (node : Fin 128),
      let t := (s.at_ at_).expireBefore (s.at_ at_).now
      (t.can[p]).enabled = true → (t.can[p]).status ≠ .busOff →
      let u := if node.val = (t.can[p]).supervisor then t.restartLease (portRequester p) else t
      exec (.heartbeatReceive at_ p node) s = .next
        (if u.nat 0x1016 (p.val + 1) / 65536 = node.val ∧ u.nat 0x1016 (p.val + 1) % 65536 ≠ 0 then
          u.modCan p fun c => { c with heartbeatAt := some u.now, lapsed := false } else u))
    ∧ (∀ t, (s.can[p]).heartbeatAt = some t → (s.can[p]).lapsed = false → s.nat 0x1016 (p.val + 1) % 65536 ≠ 0 →
        exec (.heartbeatLapse p) s =
          .next (((s.at_ (t + 100000 * (s.nat 0x1016 (p.val + 1) % 65536))).modCan p fun c => { c with lapsed := true }).raise 0x800A)))
  ∧ (∀ (s : State) (at_ : Nat) (p : CanNo), s.power.tripped = false →
    let t := s.at_ at_
    let become (c : CanStatus) : State := t.modCan p fun x => { x with status := c }
    ((t.can[p]).status ≠ .busOff → exec (.canBusOff at_ p) s = .next (((become .busOff).raise 0x8007).settleError))
    ∧ ((t.can[p]).status ≠ .passive → exec (.canErrorPassive at_ p) s = .next (((become .passive).raise 0x8008).settleError))
    ∧ ((t.can[p]).status ≠ .active → exec (.canErrorActive at_ p) s = .next (become .active).settleError)
    ∧ (∀ node : Fin 128, (t.can[p]).enabled = true → node.val ≠ (t.can[p]).supervisor →
        exec (.usdoForeignClient at_ p node) s = .next ((t.bump 0x2002 (16 * p.val + 7)).raiseOnce 0x8009 p)))

/-- A requester's version is agreed with 0x8005 on a major number the device speaks, at the lower minor number, and refused with
0x8004 otherwise; a start enters service where power is good and the memory is trained, and is refused elsewhere; a store takes
the settings into the bank, and a restore has the next reset load the defaults (R464, R466 to R468, R488, R558). -/
def Obligations.VersionsServiceAndSettings : Prop :=
  ∀ (s : State) (w : Write) (b : Bytes) (v : OdVal),
    let t := s.atWrite w
    (s.Admits w 0x2001 1 b v →
      let n := v.int.toNat
      (∀ m, minorFor t.protocols (n / 256) = some m → exec (.supervisorVersionWrite w b) s =
        .next (((t.modReq w.req fun r =>
          { r with nego := .agreed, version := n, agreed := n / 256 * 256 + min (n % 256) m }).raise 0x8005).answerTo w.req 0))
      ∧ (minorFor t.protocols (n / 256) = none → exec (.supervisorVersionWrite w b) s =
        .next (((t.modReq w.req fun r => { r with nego := .refused, version := n, agreed := 0 }).raise 0x8004).answerTo w.req 0)))
    ∧ (s.Admits w 0x2000 0x0B b v →
      (t.nat 0x2700 2 ≠ 0 → t.mem.trained = true → t.nat 0x2000 8 = 0 → exec (.startService w b) s =
        .next (State.answerTo (State.settleError (((t.setNum 0x2000 8 1).modFw fun x =>
          { x with trialSince := if (x.flash.record.find .trial).isSome then some t.now else none }).raise 0x8006)) w.req 0))
      ∧ (t.nat 0x2700 2 = 0 ∨ t.mem.trained = false → exec (.startService w b) s = .next (t.answerTo w.req 0x06090030)))
    ∧ (s.Admits w 0x1010 1 b v → exec (.storeParameters w b) s = .next (t.storeSettings.answerTo w.req 0))
    ∧ (s.Admits w 0x1011 1 b v → exec (.restoreDefaults w b) s =
        .next ((t.modFw fun x => { x with flash := { x.flash with loadDefaults := true } }).answerTo w.req 0))

/-- The write-domain semaphore: a claim whose domains are free or the claimer's own is granted whole under a new token with a
fresh lease, any other is refused whole and counted; the right token releases or renews, a wrong one does neither; a lease that
ends frees its domains (R469 to R475). -/
def Obligations.ClaimsAreGrantedWhole : Prop :=
  ∀ (s : State) (w : Write) (b : Bytes) (v : OdVal),
    let t := s.atWrite w
    (s.Admits w 0x2010 1 b v →
      let e := t.expireBefore (t.now + 1)
      let mask := v.int.toNat
      let free : Prop := ∀ d : Fin 8, mask.testBit d = true → e.od.holders[d] = none ∨ e.od.holders[d] = some w.req
      (free → ∃ u n, exec (.semaphoreClaim w b none) s = .next u ∧ u.od.reqs[reqNo w.req] = { e.requester w.req with
              token := freshToken (Config.randomNat n) (e.requester w.req).token
              leaseEnd := (u.requester w.req).leaseEnd, answer := 0 }
          ∧ (∀ d : Fin 8, u.od.holders[d] = if mask.testBit d then some w.req else e.od.holders[d])
          ∧ (mask % 256 ≠ 0 → (u.requester w.req).leaseEnd = e.now + 200000000))
      ∧ (¬ free → exec (.semaphoreClaim w b none) s = .next ((e.bump 0x2010 8).answerTo w.req 0x08000020)))
    ∧ ((∀ r, (t.requester w.req).limitEnd = some r → r ≤ t.now) →
      (s.Admits w 0x2010 3 b v → (t.requester w.req).token ≠ 0 → v.int.toNat = (t.requester w.req).token →
        exec (.semaphoreRelease w b) s = .next ((t.freeDomains w.req).answerTo w.req 0))
      ∧ (s.Admits w 0x2010 4 b v → (t.requester w.req).token ≠ 0 → v.int.toNat = (t.requester w.req).token →
        exec (.semaphoreRenew w b) s = .next ((t.restartLease w.req).answerTo w.req 0))
      ∧ (s.Admits w 0x2010 3 b v → v.int.toNat ≠ (t.requester w.req).token →
        exec (.semaphoreRelease w b) s = .next ((t.mismatch w.req).answerTo w.req 0x08000020)))
    ∧ (∀ q : Requester, s.power.tripped = false →
      (s.heldMask q ≠ 0 → exec (.leaseExpiry q) s =
        .next (State.raise (((s.at_ (s.requester q).leaseEnd).freeDomains q).bump 0x2010 0x0A) 0x8001))
      ∧ (∀ e, (s.requester q).limitEnd = some e → exec (.tokenRateLimitEnd q) s =
        .next ((s.at_ e).modReq q fun r => { r with limitEnd := none, mismatches := [] })))

/-- A write of an entry is answered with the code of the first check of R459 that fails, and changes nothing else of the device;
one that passes them all has its entry's effect: an entry without a rule of its own takes the value at once (RW), at the epoch
(RW-E), at the one after where readiness has closed, or at the frame boundary (RW-F) (R14, R424, R459). -/
def Obligations.WritesAreCheckedInOrder : Prop :=
  ∀ (s : State) (w : Write) (i : BitVec 16) (sub : BitVec 8) (b : Bytes) (a : Around),
    let l := s.loadPlan a.img
    let t := l.atWrite w
    let x := i.toNat
    let y := sub.toNat
    (l.power.tripped = false → l.reaches w.req = true → l.held x = false →
      (odRowsOf x = [] → exec (.odEntryWrite w i sub b a) s = .next (t.answerTo w.req 0x06020000))
      ∧ (odRowsOf x ≠ [] → t.nat 0x2000 8 ≠ 2 → odFind x y = none →
          exec (.odEntryWrite w i sub b a) s = .next (t.answerTo w.req 0x06090011))
      ∧ (∀ r, odRowsOf x ≠ [] → t.nat 0x2000 8 ≠ 2 → odFind x y = some r →
        (t.forbidden w x y = true → exec (.odEntryWrite w i sub b a) s = .next (t.answerTo w.req 0x08000022))
        ∧ (t.forbidden w x y = false →
          (r.acc = .ro → exec (.odEntryWrite w i sub b a) s = .next (t.answerTo w.req 0x06010002))
          ∧ (r.acc ≠ .ro → r.type.lengthOk b.length = false →
              exec (.odEntryWrite w i sub b a) s = .next (t.answerTo w.req 0x06070010))
          ∧ (∀ v, r.acc ≠ .ro → r.type.decode b = some v →
            (t.holdsFor w.req x = false → exec (.odEntryWrite w i sub b a) s = .next (t.answerTo w.req 0x08000020))
            ∧ (w.heldAtStart = true → t.holdsFor w.req x = true → t.entryRule w r x y v = false →
                exec (.odEntryWrite w i sub b a) s = .next (t.answerTo w.req 0x06090030))))))
    ∧ (∀ v r, l.Admits w x y b v → odFind x y = some r →
      exec (.odEntryWrite w i sub b a) s =
        .next ((odAct x y a.card w v t).2.answerTo w.req (odAct x y a.card w v t).1)
      ∧ (odAct x y a.card = storeAct x y → (x ≠ 0x1014 ∧ x ≠ 0x1015) →
        (r.acc = .rw → exec (.odEntryWrite w i sub b a) s = .next ((t.setEntry x y v).answerTo w.req 0))
        ∧ (r.acc = .rwe → let u := t.settleLate
            (t.afterReadiness = false → exec (.odEntryWrite w i sub b a) s =
              .next (State.answerTo { u with od := { u.od with pendE := kvPut (odKey x y) v u.od.pendE } } w.req 0))
            ∧ (t.afterReadiness = true → exec (.odEntryWrite w i sub b a) s =
              .next (State.answerTo { u with od := { u.od with
                pendLate := kvPut (odKey x y) v u.od.pendLate, lateFor := t.epochTick } } w.req 0)))
        ∧ (r.acc = .rwf → exec (.odEntryWrite w i sub b a) s =
            .next (State.answerTo { t with od := { t.od with pendF := kvPut (odKey x y) v t.od.pendF } } w.req 0))))

/-- A reset restarts the device whatever its state, tripped or not: the straps as they are, no window, an empty external memory, the
command queue and the loaded plans as they were, and the scratchpad of an isle that no plan's adaptation is placed in empty. As reset is
released every scratchpad is empty, and the flash, the MRAM, the owners' keys, the owner lock, the causeway sessions and the manager term
are kept; an active owner has a new memory key (R487 to R491, R529 to R533, R552, R557). -/
def Obligations.ResetsRestartTheDevice : Prop :=
  ∀ (s : State) (st : Straps) (trained : Bool) (fails : Fin 16),
    let t := s.restart st trained fails
    let c := s.cleared st trained
    exec (.deviceReset st trained fails) s = .next t
    ∧ (t.power.straps = st ∧ t.power.tripped = false ∧ t.windows = Vector.replicate 16 (Vector.replicate 64 {})
      ∧ t.provCounter = s.provCounter ∧ t.mem.cells = [] ∧ t.mem.eth = [] ∧ t.mem.trained = trained ∧ t.plans = s.plans
      ∧ t.pending = s.pending ∧ ∀ k : IsleNo, (∀ p ∈ s.plans, ∀ m ∈ p.sets, k ∉ m.isles) → (t.isles[k]).sp = {})
    ∧ ((∀ k : IsleNo, (c.isles[k]).sp = {}) ∧ c.fw.flash = s.fw.flash ∧ c.ledger.mram = s.ledger.mram ∧ c.sys.sessions = s.sys.sessions
      ∧ c.num 0x2900 7 = s.num 0x2900 7 ∧ c.num 0x2800 6 = s.num 0x2800 6
      ∧ ∀ o : OwnerNo, (c.owners[o]).kek = (s.owners[o]).kek ∧ (c.owners[o]).stream0 = (s.owners[o]).stream0
          ∧ (c.owners[o]).stream1 = (s.owners[o]).stream1 ∧ (c.owners[o]).causeway0 = (s.owners[o]).causeway0
          ∧ (c.owners[o]).causeway1 = (s.owners[o]).causeway1
          ∧ ((s.owners[o]).phase = .active → (c.owners[o]).memKey = s.mem.nextKey + o.val))

/-- Staging: a refused command names its lowest reason and raises 0x9006; one that runs empties the idle slot and takes the card,
or fails with 0x9008 without one; its end stages the image or fails with the first code; a card removed ends it (R492 to R494). A
trial is confirmed by a write of 0x2500:06, or by itself once its interval has run out: its slot is confirmed and the bank it
wrote becomes home, with 0x900D; a write without a trial is refused (R501). -/
def Obligations.StagingAndTrials : Prop :=
  (∀ s : State,
    (∀ w b card v, s.Admits w 0x2500 3 b v →
      let t := s.atWrite w
      (∀ n, t.updateRefusal .stage = n + 1 → exec (.stageFromSd w b card) s =
        .next (((t.setNum 0x2500 0x0C (n + 1 : Nat)).raise 0x9006).answerTo w.req 0x06090030))
      ∧ (t.updateRefusal .stage = 0 → exec (.stageFromSd w b card) s = .next (State.answerTo
          (match card with
          | none => (t.failStaging 0x9008).raise 0x9008
          | some c => ((t.modFw fun x => { x with staging := some c }).setNum 0x2500 4 0).emptyIdle) w.req 0)))
    ∧ (∀ at_ readBack c, s.power.tripped = false → s.fw.staging = some c →
      let t := s.at_ at_
      let slot := !t.boot.active
      (bundleFailure c = none → readBack = true → exec (.stagingComplete at_ readBack) s = .next (State.raise
        (((((t.modFw fun x => { x with staging := none, flash := x.flash.setImage slot (bundleImage c) }).setBoot fun r =>
          r.setPhase slot .staged).setNum 0x2500 4 100).setNum 0x2500 0x0B (imgFirmware (bundleImage c) : Nat))) 0x9012))
      ∧ (∀ e, bundleFailure c = some e → exec (.stagingComplete at_ readBack) s = .next ((t.failStaging e).raise e))
      ∧ (bundleFailure c = none → readBack = false → exec (.stagingComplete at_ readBack) s =
          .next ((t.failStaging 0x9009).raise 0x9009))
      ∧ exec (.sdCardRemoved at_) s = .next ((t.failStaging 0x9008).raise 0x9008)))
  ∧ (∀ s : State,
    let confirmed (t : State) (slot : Bool) : State :=
      ((t.setBoot fun r => r.setPhase slot .confirmed).modFw fun w =>
        { w with trialSince := none, flash := { w.flash with home := !w.flash.home, eraseOther := true } }).raise 0x900D
    (∀ w b v, s.Admits w 0x2500 6 b v →
      (∀ slot, (s.atWrite w).boot.find .trial = some slot →
        exec (.confirm w b) s = .next ((confirmed (s.atWrite w) slot).answerTo w.req 0))
      ∧ ((s.atWrite w).boot.find .trial = none → exec (.confirm w b) s = .next ((s.atWrite w).answerTo w.req 0x06090030)))
    ∧ (∀ t slot, s.power.tripped = false → s.fw.trialSince = some t → s.nat 0x2500 8 ≠ 0 → s.boot.find .trial = some slot →
        exec .autoConfirm s = .next (confirmed (s.at_ (t + s.nat 0x2500 8 * 6000000000)) slot)))

/-- Activation and revert: a command that may run begins the management pause with 0x900A; each core switches in order where its
record is accepted and its self-check passes, else every core goes back with 0x900C, and requests that the pause held are then answered;
the scheduler core completes it; and a suspended one resumes 1 s after power is good (R494 to R499, R504). -/
def Obligations.CoresSwitchInOrder : Prop :=
  ∀ s : State,
    (∀ w b v, s.Admits w 0x2500 5 b v →
      let t := s.atWrite w
      t.updateRefusal .activate = 0 → t.nat 0x2000 8 ≠ 2 → exec (.activate w b) s = .next (State.answerTo
        (((t.raise 0x900A).abandonWhere 6 fun _ _ => true).modFw fun x =>
          { x with activation := some ⟨false, (t.boot.find .staged).getD false, .verifying,
            ((t.raise 0x900A).abandonWhere 6 fun _ _ => true).now, false⟩ }) w.req 0))
    ∧ (∀ w b v, s.Admits w 0x2500 7 b v →
      let t := s.atWrite w
      t.updateRefusal .revert = 0 → exec (.revert w b) s = .next (State.answerTo
        (((t.raise 0x900A).abandonWhere 6 fun _ _ => true).modFw fun x =>
          { x with activation := some ⟨true, !((t.boot.find .trial).getD false), .verifying,
            ((t.raise 0x900A).abandonWhere 6 fun _ _ => true).now, false⟩ }) w.req 0))
    ∧ (∀ at_ r (n : Nat) a, s.power.tripped = false → s.fw.activation = some a → a.suspended = false → a.step = .switching n →
      let t := s.at_ at_
      let u := (t.writeHandoff n r).switchBank n
      (0 < n → n < 6 → u.takesOver a n true = true → exec (.activationCoreSwitch at_ r true) s =
        .next (u.modFw fun x => { x with activation := some { a with step := .switching (n + 1) } }).answerHeld.pump)
      ∧ (0 < n → n < 6 → exec (.activationCoreSwitch at_ r false) s =
        .next ((u.switchBack n).failActivation a 0x900C).answerHeld.pump)
      ∧ (n = 6 → t.schedulerMay = true → u.takesOver a 6 true = true → exec (.schedulerCoreSwitch at_ r true) s =
          .next (u.completeActivation a))
      ∧ (n = 6 → t.schedulerMay = true → exec (.schedulerCoreSwitch at_ r false) s = .next (State.failActivation
          (State.switchBack (u.modFw fun x => { x with coasting := some 0 }) 6) a 0x900C)))
    ∧ (∀ a, s.power.tripped = false → s.fw.activation = some a → a.suspended = true → s.nat 0x2700 2 = 1 →
        exec .activationResume s = .next ((s.at_ (s.power.goodAt + 100000000)).modFw fun x =>
          { x with activation := some { a with suspended := false } }))

/-- Fencing: a command fences an available isle with reason 7 and is refused for any other; an op that reaches the hang limit
raises 0x3F0A and fences with reason 5; the fence is complete a tick after it began, with 0x3F02 (R508, R511). Unfencing: a
command has a fenced isle tested, its scratchpad formatted to zero, where no isle is fencing, and is refused elsewhere; tests that
pass load its weights, rebuild its adaptation sets and make the isle available at a boundary with 0x3F08; a test that fails, or masters
that cannot be read, fence it again; weights that arrive fill their row, with 0x3F0B where a scrub asked for them (R517, R518; that the
weights of a tested isle come so is the model's choice, log entry 147). -/
def Obligations.IslesAreFencedAndReturn : Prop :=
  (∀ s : State,
    (∀ w b v, s.Admits w 0x2300 3 b v →
      let t := s.atWrite w
      let k : IsleNo := Fin.ofNat 16 v.int.toNat
      ((t.isles[k]).health.phase = .available → exec (.fenceCommand w b) s = .next ((t.trigger k 7).answerTo w.req 0))
      ∧ ((t.isles[k]).health.phase ≠ .available → exec (.fenceCommand w b) s = .next (t.answerTo w.req 0x06090030)))
    ∧ (∀ k c, s.power.tripped = false →
      (let x := s.ctx k c
       x.phase = .running → s.nat 0x2700 1 = 0 → exec (.isleHang k c) s =
        .next (((s.at_ (x.runSince + (s.hangLimit - x.ranFor))).raise 0x3F0A { isle := k }).trigger k 5))
      ∧ ((s.isles[k]).health.phase = .fencing → (s.isles[k]).health.fenceBegan + 2 ≤ s.tick.number →
        let u := (s.modIsle k fun i => { i with health := { i.health with phase := .fenced } }).each allSlots State.loseArgmax
        exec (.fenceComplete k) s = .next (State.shedTest (((u.bump 0x2300 0x0C).raise 0x3F02 { isle := k }).settleAvail.settleClocks)))
      ∧ ((s.isles[k]).health.phase = .fencing → (s.isles[k]).health.fenceBegan + 1 = s.tick.number →
        let u := ((s.at_ s.tick.next).modIsle k fun i => { i with health := { i.health with phase := .fenced } }).each allSlots
          State.loseArgmax
        exec (.fenceComplete k) s = .next (((u.bump 0x2300 0x0C).raise 0x3F02 { isle := k }).settleAvail.settleClocks))))
  ∧ (∀ s : State,
    (∀ w b v, s.Admits w 0x2300 4 b v →
      let t := s.atWrite w
      let k : IsleNo := Fin.ofNat 16 v.int.toNat
      ((t.isles[k]).health.phase = .fenced → t.someFencing = false → exec (.unfenceCommand w b) s =
        .next (State.answerTo (State.settleError (State.settleClocks (t.modIsle k fun i =>
          { i with
            health := { i.health with phase := .testing, reloads := [] }
            sp := { i.sp with cells := [], tags := [], upsets := [], toFormat := [] } }))) w.req 0))
      ∧ ((t.isles[k]).health.phase ≠ .fenced ∨ t.someFencing = true →
          exec (.unfenceCommand w b) s = .next (t.answerTo w.req 0x06090030)))
    ∧ (∀ at_ k, s.power.tripped = false →
      let t := s.at_ at_
      ((t.isles[k]).health.phase = .testing →
        (let v := (t.reloadIsle k).2
         (t.reloadIsle k).1 = true →
         let u := (if v.now = v.tick.boundary then v else v.at_ v.tick.next).modIsle k fun i =>
           { i with health := { i.health with phase := .available } }
         exec (.isleUnfenced at_ k true) s = .next (((u.returnMask k).raise 0x3F08 { isle := k }).settleAvail.settleClocks))
        ∧ ((t.reloadIsle k).1 = false →
          exec (.isleUnfenced at_ k true) s = .next ((t.reloadIsle k).2.trigger k 0))
        ∧ exec (.isleUnfenced at_ k false) s = .next (t.trigger k 0))
      ∧ (∀ (row : Fin 12288) data, (t.isles[k]).health.phase = .testing →
        exec (.weightsReloaded at_ k row data) s = .next (t.modIsle k fun i =>
          { i with sp := (List.range 64).foldl (fun p w => p.put (64 * row.val + w) (slice data (32 * w) 32) (t.rowOwner row)) i.sp }))
      ∧ (∀ (row : Fin 12288) data, (t.isles[k]).health.phase ≠ .testing → (row.val, false) ∈ (t.isles[k]).health.reloads →
        exec (.weightsReloaded at_ k row data) s = .next (State.raise (t.modIsle k fun i =>
          { i with
            health := { i.health with reloads := kvPut row.val true i.health.reloads }
            sp := (List.range 64).foldl (fun p w => p.put (64 * row.val + w) (slice data (32 * w) 32) (t.rowOwner row)) i.sp })
          0x3F0B { isle := k }))))

/-- Notices and messages: a write of 0x2600:11 clears a slot's ring notice and sets its high water to its level, and the oldest
waiting EMCY of a port leaves once the inhibit time has passed since the last (R519, R523, R524). -/
def Obligations.NoticesClearAndEmcysLeave : Prop :=
  ∀ s : State,
    (∀ w b v, s.Admits w 0x2600 0x11 b v → exec (.clearRingNotice w b) s =
      .next (((s.atWrite w).modSlot (Fin.ofNat 48 v.int.toNat) fun sl =>
        { sl with mark := { sl.mark with notice := false, highWater := ringLevel sl.entries } }).answerTo w.req 0))
    ∧ (∀ (p : CanNo) m ms, s.power.tripped = false → (s.can[p]).emcy = m :: ms → (s.can[p]).canEmcy = true →
        (s.can[p]).status ≠ .busOff →
        let t := match (s.can[p]).emcyAt with | some e => s.at_ (e + s.nat 0x1015 p * 10000) | none => s
        let u := t.modCan p fun c => { c with emcy := ms, emcyAt := some t.now }
        exec (.emcyTransmit p) s =
          .next (if (u.emcyCob p).testBit 31 then u else u.emit (.can p (u.emcyCob p % 2 ^ 29) m.bytes)))

/-- Owners, their keys and the lock: an absent owner is created under a fresh memory key, a key record that R532 accepts takes
effect with 0xA001 and any other raises 0xA002, and a lock request that R534 accepts sets or clears the owner's bit (R529, R531,
R532, R534). -/
def Obligations.OwnersKeysAndLocks : Prop :=
  ∀ (s : State) (w : Write) (b : Bytes) (v : OdVal),
    let t := s.atWrite w
    let o := ownerOf v.int.toNat
    (s.Admits w 0x2800 2 b v →
      ((t.owners[o]).phase = .absent → exec (.createOwner w b) s =
        .next (((t.modOwner o fun x => { x with phase := .active, memKey := t.mem.nextKey }).modMem fun m =>
          { m with nextKey := t.mem.nextKey + 1 }).answerTo w.req 0))
      ∧ ((t.owners[o]).phase ≠ .absent → exec (.createOwner w b) s = .next (t.answerTo w.req 0x06090030)))
    ∧ (s.Admits w 0x2800 4 b v →
      (∀ p, t.keyPlain v.bytes = some p → exec (.keyLoad w b) s =
        .next ((((t.putKey v.bytes p).noteKeyCounter v.bytes).raise 0xA001).answerTo w.req 0))
      ∧ (t.keyPlain v.bytes = none → exec (.keyLoad w b) s = .next ((t.raise 0xA002).answerTo w.req 0x06090030)))
    ∧ (s.Admits w 0x2800 7 b v →
      let n := recKeyOwner v.bytes
      let u := t.modOwner (ownerOf n) fun x => x.noteCounter (x.kek.getD []) (recCounter v.bytes)
      (t.lockOk v.bytes = true → byteAt v.bytes 1 = 1 → exec (.ownerLockSet w b) s =
        .next (((u.setLock n true).raise 0xA003).answerTo w.req 0))
      ∧ (t.lockOk v.bytes = true → byteAt v.bytes 1 = 2 → exec (.ownerLockClear w b) s =
        .next (((u.setLock n false).raise 0xA004).answerTo w.req 0))
      ∧ (t.lockOk v.bytes = false → exec (.ownerLockSet w b) s = .next (t.answerTo w.req 0x06090030)
          ∧ exec (.ownerLockClear w b) s = .next (t.answerTo w.req 0x06090030)))

/-- A killed owner stops, loses its windows, its memory key and its lock, and is scrubbed: when its scrub completes it is absent
and no word of an isle that was scrubbed keeps its tag, with 0xA006; 2 ticks after the kill a scrub still open is overdue, with
0xA007 (R536, R537). -/
def Obligations.KilledOwnersAreScrubbed : Prop :=
  ∀ s : State,
    (∀ w b v, s.Admits w 0x2800 3 b v → ((s.atWrite w).owners[ownerOf v.int.toNat]).phase = .active →
      let t := s.atWrite w
      let o := ownerOf v.int.toNat
      let m := t.modOwner o fun x => { x with phase := .scrubbing, killedAt := t.tick.number, overdue := false }
      exec (.killJob w b) s =
        .next (State.pump (((((m.raise 0xA005).stopOwner o).withdrawOwner o).relayKill v.int.toNat).answerTo w.req 0)))
    ∧ (∀ at_ (o : OwnerNo), s.power.tripped = false → ((s.at_ at_).owners[o]).phase = .scrubbing →
      let t := (s.at_ at_).completeScrub o
      exec (.scrubComplete at_ o) s = .next t ∧ (t.owners[o]).phase = .absent ∧ (t.owners[o]).scrubEth = []
        ∧ ∀ k : IsleNo, ((s.at_ at_).isles[k]).health.phase ≠ .fenced → ((s.at_ at_).isles[k]).health.phase ≠ .testing →
            ∀ e ∈ (t.isles[k]).sp.tags, e.2 ≠ o.val)
    ∧ (∀ o : OwnerNo, s.power.tripped = false → (s.owners[o]).phase = .scrubbing → (s.owners[o]).overdue = false →
        (s.owners[o]).killedAt + 2 ≤ s.tick.number →
        exec (.scrubOverdue o) s = .next ((s.modOwner o fun x => { x with overdue := true }).raise 0xA007))

/-- The ledger: a sample notes the rail and the energy, divides it among the owners and starts new shares; while a shed freezes
the ledger nothing is charged; and the interval closes when it is due (R538, R539, R544, R561, R570). -/
def Obligations.SamplesAreChargedAndIntervalsClose : Prop :=
  ∀ s : State, s.power.tripped = false →
    (∀ at_ (isles : Vector (BitVec 24) 16) (front movers rest : BitVec 24) (mv amps : BitVec 16),
      let e := isles.map (·.toNat)
      let t := (((s.at_ at_).setNum 0x2700 7 (mv.toNat : Int)).setNum 0x2700 8 (amps.toNat : Int)).setNum 0x2700 9
        ((e.toList.sum + front.toNat + movers.toNat + rest.toNat : Nat) : Int)
      let parts := allIsles.flatMap (fun k => divideEnergy e[k] (isleShares t.isles[k])) ++ divideEnergy front.toNat t.ledger.samples
        ++ divideEnergy movers.toNat t.ledger.moved ++ [(0, rest.toNat)]
      let charged := if t.ledger.frozen then t else t.each parts fun x p => x.chargeEnergy (Fin.ofNat 16 p.1) p.2
      let u := charged.modLedger fun l => { l with samples := [], moved := [] }
      exec (.ledgerSample at_ isles front movers rest mv amps) s =
        .next { u with isles := u.isles.map fun (i : IsleState) => { i with unitTime := [], idleTime := 0 } })
    ∧ (∀ fails : Fin 16, s.ledgerRuns = true →
        exec (.intervalClosed fails) s = .next ((s.at_ s.intervalDue).closeInterval false fails))

/-- Power: power good enters its state and, where the device starts by itself, service; PFW_N sheds once with 0xC001, and its
release recovers with 0xC002 (R558 to R561). A shed pauses the movers, stops every port but causeway's, abandons adaptation, stops
an activation, freezes and commits the ledger, and raises 0xC003 where it exceeds its bounds; requests that the activation's pause held
are then answered (R559, R560, R561). -/
def Obligations.PowerFailsShedAndRecover : Prop :=
  (∀ (s : State) (at_ : Nat), s.power.tripped = false →
    let t := s.at_ at_
    (t.nat 0x2700 2 = 0 →
      let u := (t.at_ 100000).setNum 0x2700 2 1
      exec (.powerGood at_) s = .next (State.settleError (if u.autoService then u.enterService else u)))
    ∧ (∀ f, t.nat 0x2700 2 = 1 →
      let u := (t.setNum 0x2700 2 2).raise 0xC001
      exec (.pfwAsserted at_ f) s = .next (State.settleError (if u.nat 0x2700 1 = 1 then u else u.startShed f)).answerHeld.pump)
    ∧ (t.nat 0x2700 2 = 2 →
      let u := ((t.setNum 0x2700 2 1).modPower fun p => { p with goodAt := (t.setNum 0x2700 2 1).now }).raise 0xC002
      exec (.pfwDeasserted at_) s = .next u.recover.settleError))
  ∧ (∀ (s : State) (at_ : Nat) (f : ShedFigures), s.power.tripped = false → (s.at_ at_).nat 0x2700 2 = 1 →
    ((s.at_ at_).setNum 0x2700 2 2 |>.raise 0xC001).nat 0x2700 1 ≠ 1 →
    let a := ((s.at_ at_).setNum 0x2700 2 2).raise 0xC001
    let b := ((a.setNum 0x2700 1 1).bump 0x2700 0x0C).setNum 0x2700 0x0D (f.ns.toNat : Int)
    let c := (b.modPower fun p => { p with shedAt := some b.now }).modLedger fun l => { l with frozen := true }
    let d := (c.pauseAll.stopPorts.abandonWhere 5 fun _ _ => true).updateOnPfw
    let e := d.commitPowerFail f.us.toNat f.uj.toNat f.fails
    exec (.pfwAsserted at_ f) s = .next (State.settleError
      (if f.late = true ∨ 10000 < f.ns.toNat ∨ 3000 < f.us.toNat ∨ 30000 < f.uj.toNat then e.raise 0xC003 else e)).answerHeld.pump)

/-- Temperature: THERM_N moves the device to and from its thermal state; each sensor's reading is recorded and two in a row at 110
°C trip the device; over the target the clocks go down; and an isle at the fence temperature for 10 ms is fenced with reason 6
(R508, R556, R557). -/
def Obligations.TemperatureLimitsAndTrips : Prop :=
  ∀ s : State, s.power.tripped = false →
    (∀ at_, let t := s.at_ at_
      (t.nat 0x2700 3 ≠ 1 → exec (.thermAsserted at_) s = .next (State.settleClocks ((t.setNum 0x2700 3 1).raise 0xC004)))
      ∧ (t.nat 0x2700 3 ≠ 0 → exec (.thermDeasserted at_) s = .next (t.setNum 0x2700 3 0).settleClocks.settleError))
    ∧ (∀ at_ (ts : Vector (BitVec 16) 20), ∃ t, exec (.thermalSample at_ ts) s = .next t
        ∧ (t.power.tripped = true ↔ ∃ k ∈ s.power.hot, k < 20 ∧ 1100 ≤ (ts.map (·.toInt)).toList.getD k 0)
        ∧ t.power.hot = (List.range 20).filter fun k => 1100 ≤ (ts.map (·.toInt)).toList.getD k 0)
    ∧ (∀ at_, exec (.thermalLimitStep at_) s = .next (s.at_ at_).limitStep
        ∧ ((∀ x ∈ (s.at_ at_).power.others, ¬ (s.at_ at_).thermTarget < x) →
            (∀ k : IsleNo, (s.at_ at_).num 0x2700 (0x20 + k.val) ≤ (s.at_ at_).thermTarget) →
            exec (.thermalLimitStep at_) s = .next (s.at_ at_).settleClocks.settleError))
    ∧ (∀ k t, (s.isles[k]).health.hotSince = some t → (s.isles[k]).health.hotAsked = false →
        exec (.isleThermal k) s = .next (State.trigger (((s.at_ (t + 1000000)).modIsle k fun i =>
          { i with health := { i.health with hotAsked := true } }).raise 0xC008 { isle := k }) k 6))

/-- Rails and JTAG: a sample of rails that stay in range changes only their counts, and ends a shed that nothing holds any more (a
request held by a pause that is over is answered);
an instruction of R568 is loaded, any other only with the test-mode strap and an authenticated tester (R563, R568). -/
def Obligations.RailsAreWatchedAndJtagLoads : Prop :=
  ∀ s : State, s.power.tripped = false →
    (∀ at_ (inRange : BitVec 8) f, let t := s.at_ at_
      let now := (List.range 8).map inRange.getLsbD
      let bad := countRuns t.power.railBad (now.map (!·))
      let good := countRuns t.power.railGood now
      (∀ i, i < 8 → bad.getD i 0 < 10 ∧ good.getD i 0 < 1000) → t.nat 0x2700 0x30 = 0 →
      let u := (t.modPower fun p => { p with railBad := bad.map (min 10), railGood := good.map (min 1000) }).setNum 0x2700 0x30 0
      exec (.railMonitorSample at_ inRange f) s =
        .next (State.settleError (State.recover (u.modPower fun p => { p with railShed := false }))).answerHeld.pump)
    ∧ (∀ op authenticated, (∀ x, op = .other x → s.power.straps.boot = 3 ∧ authenticated = true) →
        exec (.jtagInstruction op authenticated) s = .next
          (let u := s.modPower fun p => { p with jtag := op }
           if op = .idcode then u.emit (.jtag jtagIdcode) else u))
    ∧ (∀ x, s.power.straps.boot ≠ 3 → exec (.jtagInstruction (.other x) true) s = .next s)

/-- A step takes the command at the front of the queue and runs it on the state with the rest of the queue. -/
def Obligations.StepsRunTheFrontCommand : Prop :=
  ∀ (c : Instr) (rest : List Instr) (s : State), s.pending = c :: rest → step s = exec c { s with pending := rest }

/-- The model's choice (DESIGN CHOICE, log entry 2): on an empty queue the block idles for one reference cycle. The clock moves, the wait
counters of the isles count the cycle, and nothing else changes. -/
def Obligations.EmptyQueuesIdle : Prop :=
  ∀ s : State, s.pending = [] → step s = .next { s with now := s.now + 1, isles := s.isles.map (·.waited 1) }

/-- After a thermal trip every clock is gated: no command but a reset changes anything (R557). -/
def Obligations.TrippedDevicesWaitForReset : Prop :=
  ∀ (c : Instr) (s : State), s.power.tripped = true → (∀ st trained fails, c ≠ .deviceReset st trained fails) → exec c s = .next s

/-- After reset every window of the region table is legal and apart from other owners', and every store is in canonical form. -/
def Obligations.ResetLeavesWindowsAndStoresSafe : Prop := State.reset.Isolated ∧ State.reset.Canonical

/-- Every window stays legal, and windows of different owners never come to share external memory or the Ethernet buffers,
whatever command a step runs (R335, R336). -/
def Obligations.StepsKeepOwnersApart : Prop := ∀ s t : State, step s = .next t → s.Isolated → t.Isolated

/-- Every store keeps its canonical form, whatever command a step runs: scratchpads, owner tags, external memory, the keys of its
blocks and the Ethernet buffers. -/
def Obligations.StepsKeepStoresCanonical : Prop := ∀ s t : State, step s = .next t → s.Canonical → t.Canonical

/-- A step takes one command at most from the queue and adds none, draws no free value twice, and takes back nothing that has left
the device. -/
def Obligations.StepsOnlyMoveForward : Prop :=
  ∀ s t : State, step s = .next t → t.pending = s.pending.tail ∧ s.free ≤ t.free ∧ s.out <+: t.out

/-- Only TICK_BOUNDARY and what may restart the device (DEVICE_RESET, an activation in recovery mode, written, relayed, or held through
the pause of an activation that the command ends) change the tick's number and its boundary or set the clock back (R38, R41, R489). -/
def Obligations.OnlyBoundariesMoveTheTick : Prop :=
  ∀ (c : Instr) (s t : State), exec c s = .next t → (∀ prog, c ≠ .tickBoundary prog) →
    (∀ st trained fails, c ≠ .deviceReset st trained fails) → (∀ w b, c ≠ .activate w b) →
    (∀ w i sub b a, c ≠ .odEntryWrite w i sub b a) → (∀ at_ p src b a, c ≠ .relayRequest at_ p src b a) →
    (∀ at_ r ok, c ≠ .activationCoreSwitch at_ r ok) → (∀ at_ f, c ≠ .pfwAsserted at_ f) →
    (∀ at_ b f, c ≠ .railMonitorSample at_ b f) →
    t.tick.number = s.tick.number ∧ t.tick.boundary = s.tick.boundary ∧ s.now ≤ t.now

/-- Under every hash mode the 64 words of a row lie in 64 different banks: two words of one row that share a bank are one word
(R258, R263). -/
def Obligations.BanksAreOneToOne : Prop :=
  ∀ mode a b : Nat, a < 2 ^ 20 → b < 2 ^ 20 →
    bankOf mode a < 64 ∧ (rowOf a = rowOf b → bankOf mode a = bankOf mode b → a = b)

/-- What an owner writes to external memory it reads back, and every other byte reads as it did to that owner (R369, R374). -/
def Obligations.OwnersReadBackWhatTheyWrite : Prop :=
  ∀ (s : State) (o : OwnerNo) (a : Nat) (bs : Bytes), (s.owners[o]).memKey ≠ 0 →
    (s.extWrite o a bs).extRead o a bs.length = bs
    ∧ ∀ x, x < a ∨ a + bs.length ≤ x →
        (s.extWrite o a bs).mem.byteFor (s.owners[o]).memKey x = s.mem.byteFor (s.owners[o]).memKey x

/-- A whole-word write leaves its bytes under its owner's tag and no other word of the isle changed; a read by another owner of a
word the guard finds no error in is refused with 0x4005 and counted, and leaves every word as it is (R269, R271, R272). -/
def Obligations.ScratchpadWordsKeepTheirOwner : Prop :=
  ∀ (s : State) (k : IsleNo) (o : OwnerNo),
    (∀ w : WordWrite, w.isle = k → w.op = .plain → w.bytes.length = 32 →
      let t := (s.writeWord w o).2
      (s.writeWord w o).1 = none
      ∧ (t.isles[k]).sp.peek w.word = (List.range 32).map (fun b => (w.at_ b).getD 0)
      ∧ (t.isles[k]).sp.tag w.word = o.val
      ∧ ∀ j, j ≠ w.word → (t.isles[k]).sp.peek j = (s.isles[k]).sp.peek j ∧ (t.isles[k]).sp.tag j = (s.isles[k]).sp.tag j)
    ∧ (∀ j, (s.isles[k]).sp.flips j = [] → (s.isles[k]).sp.tag j ≠ 0 → (s.isles[k]).sp.tag j ≠ o.val →
        (s.readWord k j o).1 = some 0x4005 ∧ ((s.readWord k j o).2.isles[k]).sp = (s.isles[k]).sp)

/-- Frame a is later than frame b exactly when (a − b) mod 2^32 lies in 1 to 2^31 − 1; at a difference of 2^31 neither is later;
and the number after 0xFFFF_FFFF is 0 (R11). -/
def Obligations.FrameNumbersCompareModulo : Prop :=
  ∀ a b : Nat, a < 2 ^ 32 → b < 2 ^ 32 →
    (laterFrame a b = true ↔ 1 ≤ (a + (2 ^ 32 - b)) % 2 ^ 32 ∧ (a + (2 ^ 32 - b)) % 2 ^ 32 ≤ 2 ^ 31 - 1)
    ∧ ((a + (2 ^ 32 - b)) % 2 ^ 32 = 2 ^ 31 → laterFrame a b = false ∧ laterFrame b a = false)
    ∧ laterFrame 0 0xFFFFFFFF = true
end

