-- ==== Sys2Proof/Laws/Crypto.lean ====
section
/-! SUPPORT. AES-256-GCM opens what it sealed: a causeway frame sealed under the device's key is accepted, and a key record or a lock
request sealed under an owner's KEK is accepted (spec/15_system.md R408 to R411, spec/20_owners_and_ledger.md R532, R534). -/

namespace Sys2Proof.Machine

@[simp] theorem toLe_length : ∀ n v, (toLe n v).length = n
  | 0, _ => rfl
  | n + 1, v => by simp [toLe, toLe_length n]
@[simp] theorem toBe_length (n v : Nat) : (toBe n v).length = n := by simp [toBe]
@[simp] theorem xorBytes_length (a b : Bytes) : (xorBytes a b).length = min a.length b.length := by simp [xorBytes]

/-- Exclusive or with a string that is long enough undoes itself. -/
theorem xorBytes_xorBytes : ∀ a b : Bytes, a.length ≤ b.length → xorBytes (xorBytes a b) b = a
  | [], _, _ => by simp [xorBytes]
  | _ :: _, [], h => by simp at h
  | x :: a, y :: b, h => by
    have ih := xorBytes_xorBytes a b (by simpa using h)
    simp only [xorBytes] at ih
    simp [xorBytes, ih, BitVec.xor_assoc]

@[simp] theorem chunks_length {α : Type} (n : Nat) (xs : List α) : (chunks n xs).length = ceilDiv xs.length n := by simp [chunks]

/-- Every piece of a list whose length is a multiple of the piece's is whole. -/
theorem chunks_whole {α : Type} {n m : Nat} (hn : 0 < n) {xs : List α} (h : xs.length = m * n) : ∀ c ∈ chunks n xs, c.length = n := by
  intro c hc
  simp only [chunks, List.mem_map, List.mem_range, ceilDiv, h] at hc
  obtain ⟨i, hi, rfl⟩ := hc
  have : (m * n + n - 1) / n = m := by
    rw [show m * n + n - 1 = n - 1 + n * m by rw [Nat.mul_comm]; omega, Nat.add_mul_div_left _ _ hn, Nat.div_eq_of_lt (by omega)]
    omega
  rw [this] at hi
  have : (i + 1) * n ≤ m * n := Nat.mul_le_mul_right n hi
  rw [Nat.add_mul] at this
  simp only [List.length_take, List.length_drop, h]
  omega

/-- The key schedule adds whole words. -/
theorem aesExpand_words : ∀ n i (ws : List Bytes), (∀ w ∈ ws, w.length = 4) → 8 ≤ ws.length →
    (∀ w ∈ aesExpand n i ws, w.length = 4) ∧ (aesExpand n i ws).length = n + ws.length
  | 0, _, ws, h, _ => ⟨h, by simp [aesExpand]⟩
  | n + 1, i, ws, h, h8 => by
    have h0 : (ws.getD 0 []).length = 4 := by
      rw [List.getD_eq_getElem _ _ (by omega)]; exact h _ (List.getElem_mem _)
    have h7 : (ws.getD 7 []).length = 4 := by
      rw [List.getD_eq_getElem _ _ (by omega)]; exact h _ (List.getElem_mem _)
    simp only [aesExpand]
    have key := aesExpand_words n (i + 1) (xorBytes (ws.getD 7 [])
      (if i % 8 = 0 then xorBytes (((ws.getD 0 []).rotateLeft 1).map sbox) [Nat.iterate xtime (i / 8 - 1) 1, 0, 0, 0]
        else if i % 8 = 4 then (ws.getD 0 []).map sbox else ws.getD 0 []) :: ws)
      (by
        simp only [List.mem_cons, forall_eq_or_imp]
        refine ⟨?_, h⟩
        rw [xorBytes_length, h7]
        split
        · rw [xorBytes_length, List.length_map, List.rotateLeft]
          split <;> simp_all <;> omega
        · split <;> simp only [List.length_map, h0, Nat.min_self])
      (by simp; omega)
    exact ⟨key.1, by rw [key.2]; simp; omega⟩

/-- The round keys of a 32-byte key are 15 of 16 bytes. -/
theorem aesRoundKeys_words {key : Bytes} (h : key.length = 32) (i : Nat) (hi : i < 15) : ((aesRoundKeys key).getD i []).length = 16 := by
  have hw : ∀ w ∈ (chunks 4 key).reverse, w.length = 4 := fun w m => chunks_whole (m := 8) (by decide) h w (List.mem_reverse.mp m)
  have hl : (chunks 4 key).reverse.length = 8 := by simp [h, ceilDiv]
  obtain ⟨hs, hn⟩ := aesExpand_words 52 8 _ hw (by omega)
  have hr : ((aesExpand 52 8 (chunks 4 key).reverse).reverse).length = 15 * 4 := by rw [List.length_reverse, hn, hl]
  simp only [aesRoundKeys]
  have hc : (chunks 4 (aesExpand 52 8 (chunks 4 key).reverse).reverse).length = 15 := by rw [chunks_length, hr]; rfl
  rw [List.getD_eq_getElem _ _ (by simp only [List.length_map, hc]; exact hi), List.getElem_map]
  have hm := List.getElem_mem (l := chunks 4 (aesExpand 52 8 (chunks 4 key).reverse).reverse) (n := i) (by omega)
  have h4 := chunks_whole (by decide) hr _ hm
  rw [List.length_flatten]
  have : ∀ l : List Bytes, (∀ w ∈ l, w.length = 4) → (l.map List.length).sum = l.length * 4 := by
    intro l hl
    induction l with
    | nil => rfl
    | cons a l ih => simp_all; omega
  rw [this, h4]
  intro w hw
  have hsub : w ∈ (aesExpand 52 8 (chunks 4 key).reverse).reverse := by
    simp only [chunks, List.getElem_map] at hw
    exact List.mem_of_mem_drop (List.mem_of_mem_take hw)
  exact hs w (List.mem_reverse.mp hsub)

/-- A block is 16 bytes. -/
theorem aesBlock_length {key : Bytes} (h : key.length = 32) (b : Bytes) : (aesBlock (aesRoundKeys key) b).length = 16 := by
  simp only [aesBlock, xorBytes_length, aesRoundKeys_words h 14 (by decide)]
  simp [shiftRows]

/-- The stream covers its length. -/
theorem gcmStream_length {key : Bytes} (h : key.length = 32) (nonce : Bytes) (n : Nat) :
    (gcmStream (aesRoundKeys key) nonce n).length = n := by
  simp only [gcmStream, List.length_take, List.length_flatMap, aesBlock_length h, List.map_const', List.sum_replicate_nat,
    List.length_range, ceilDiv]
  have := Nat.div_add_mod (n + 16 - 1) 16
  omega

@[simp] theorem gcmSeal_length {key : Bytes} (h : key.length = 32) (nonce aad p : Bytes) : (gcmSeal key nonce aad p).1.length = p.length := by
  simp [gcmSeal, gcmStream_length h]
theorem gcmSeal_tag_length {key : Bytes} (h : key.length = 32) (nonce aad p : Bytes) : (gcmSeal key nonce aad p).2.length = 16 := by
  simp [gcmSeal, gcmTag, aesBlock_length h]

/-- What was sealed opens to what it was. -/
theorem gcmOpen_gcmSeal {key : Bytes} (h : key.length = 32) (nonce aad p : Bytes) :
    gcmOpen key nonce aad (gcmSeal key nonce aad p).1 (gcmSeal key nonce aad p).2 = some p := by
  simp only [gcmOpen, gcmSeal, if_true, xorBytes_length, gcmStream_length h, Nat.min_self]
  rw [xorBytes_xorBytes _ _ (by rw [gcmStream_length h])]

/-! ### A causeway frame -/

@[simp] theorem header_length (f : CwFrame) : f.header.length = 24 := by simp [CwFrame.header, zeros]

/-- A field of a string's head is read from the head alone. -/
theorem byteAt_head {b : Bytes} {i : Nat} (n : Nat) (h : i < n) : byteAt b i = byteAt (b.take n) i := by
  simp only [byteAt, List.getD_eq_getElem?_getD, List.getElem?_take, h, if_true]
theorem slice_head {b : Bytes} {off len : Nat} (n : Nat) (h : off + len ≤ n) : slice b off len = slice (b.take n) off len := by
  simp only [slice, List.drop_take, List.take_take, Nat.min_eq_left (Nat.le_sub_of_add_le' h)]

/-- Whether a frame is well-formed is a matter of its header and its length. -/
theorem cwWellFormed_head (s : State) {b c : Bytes} (h : b.take 24 = c.take 24) (hl : b.length = c.length) :
    s.cwWellFormed b = s.cwWellFormed c := by
  have hb : ∀ i, i < 24 → byteAt b i = byteAt c i := fun i hi => by rw [byteAt_head 24 hi, h, ← byteAt_head 24 hi]
  have hs : ∀ off len, off + len ≤ 24 → slice b off len = slice c off len := fun off len hi => by
    rw [slice_head 24 hi, h, ← slice_head 24 hi]
  simp only [State.cwWellFormed, beAt, fieldAt, hl, hb 0 (by decide), hb 1 (by decide), hb 2 (by decide), hb 3 (by decide),
    hb 4 (by decide), hb 5 (by decide), hb 6 (by decide), hb 7 (by decide), hs 16 2 (by decide), hs 18 6 (by decide)]
  rfl

/-- The frame that a header spells, its payload left out. -/
def headerFrame (b : Bytes) : CwFrame :=
  ⟨byteAt b 1, fieldAt b 6 0 4, bitOf (byteAt b 2) 1, byteAt b 3, byteAt b 4, byteAt b 5, beAt b 8 8, []⟩

/-- A frame sealed under the key the device holds opens to itself. -/
theorem cwOpen_seal {s : State} {f : CwFrame} {k : LoadedKey} (hk : k.key.length = 32) (hold : s.cwKey f.owner f.keySlot = some k)
    (hh : headerFrame f.header = { f with payload := [] }) : s.cwOpen (f.seal k) = some f := by
  obtain ⟨c, hc⟩ : ∃ c, gcmSeal k.key (f.nonce k.salt) f.header f.payload = c := ⟨_, rfl⟩
  have h1 : c.1.length = f.payload.length := by rw [← hc]; exact gcmSeal_length hk ..
  have h2 : c.2.length = 16 := by rw [← hc]; exact gcmSeal_tag_length hk ..
  have ht : (f.seal k).take 24 = f.header := by
    simp only [CwFrame.seal, List.append_assoc]
    rw [List.take_append_of_le_length (by simp), List.take_of_length_le (by simp)]
  have hd : (f.seal k).drop 24 = c.1 ++ c.2 := by
    simp only [CwFrame.seal, List.append_assoc, hc]
    rw [List.drop_append_of_le_length (by simp), List.drop_of_length_le (by simp), List.nil_append]
  have hl : (f.seal k).length - 40 = f.payload.length := by
    have := congrArg List.length hd
    simp only [List.length_drop, List.length_append, h1, h2] at this
    omega
  have hb : ∀ i, i < 24 → byteAt (f.seal k) i = byteAt f.header i := fun i hi => by rw [byteAt_head 24 hi, ht]
  have h8 : slice (f.seal k) 8 8 = slice f.header 8 8 := by rw [slice_head 24 (by decide), ht]
  simp only [headerFrame, CwFrame.mk.injEq] at hh
  obtain ⟨e1, e2, e3, e4, e5, e6, e7, -⟩ := hh
  simp only [fieldAt, beAt] at e2 e7
  have hs : slice (f.seal k) 24 ((f.seal k).length - 40) = c.1 := by
    simp only [slice, hd, hl]
    rw [List.take_append_of_le_length (by omega), List.take_of_length_le (by omega)]
    simp [h1]
  have hr : (f.seal k).drop (24 + ((f.seal k).length - 40)) = c.2 := by
    rw [← List.drop_drop, hd, hl, List.drop_append_of_le_length (by omega), List.drop_of_length_le (by omega), List.nil_append]
  have ho : gcmOpen k.key (f.nonce k.salt) f.header c.1 c.2 = some f.payload := by
    rw [← hc]; exact gcmOpen_gcmSeal hk ..
  simp only [State.cwOpen, fieldAt, beAt, hb 1 (by decide), hb 2 (by decide), hb 3 (by decide), hb 4 (by decide), hb 5 (by decide),
    hb 6 (by decide), h8, e1, e2, e3, e4, e5, e6, e7, hold, Option.bind_some, ht, hs, hr]
  rw [show (⟨f.type, f.owner, f.keySlot, f.chan, f.src, f.dst, f.seq, []⟩ : CwFrame).nonce k.salt = f.nonce k.salt from rfl, ho]
  rfl

/-- What acceptance asks of a frame sealed under the key the device holds. -/
def State.mayTake (s : State) (p : EthNo) (src : Bytes) (f : CwFrame) (k : LoadedKey) : Bool :=
  let plain := f.header ++ zeros (f.payload.length + 16)
  let t := s.bump (ethIndex p) 0x20
  let x := t.rxSpace (cwKeyNo f.owner f.keySlot) f.src f.chan (f.type == 2)
  s.role != 0 && s.linkUp p && plain.length ≤ s.udpRoom p src && (s.nat 0x2700 1 == 0 || s.causewayPort == some p)
    && t.cwWellFormed plain && t.cwKey f.owner f.keySlot == some k && k.key.length == 32
    && headerFrame f.header == { f with payload := [] } && cwPayloadOk f.type f.payload
    && x.top / 2 ^ 48 == f.seq / 2 ^ 48 && t.seqAccepted x (cwReliable f.type) f.seq

/-- The state after such a frame is accepted. -/
def State.took (s : State) (p : EthNo) (f : CwFrame) : State :=
  let t := s.bump (ethIndex p) 0x20
  (t.setRx ((t.rxSpace (cwKeyNo f.owner f.keySlot) f.src f.chan (f.type == 2)).take (cwReliable f.type) f.seq)).bump 0x2902 2

/-- A frame that meets it is accepted whole. -/
theorem cwTake_seal {s : State} {p : EthNo} {src : Bytes} {f : CwFrame} {k : LoadedKey} (h : s.mayTake p src f k = true) :
    s.cwTake f.type p src (f.seal k) = (some f, s.took p f) := by
  simp only [State.mayTake, Bool.and_eq_true, bne_iff_ne, ne_eq, beq_iff_eq, decide_eq_true_eq, Bool.or_eq_true] at h
  obtain ⟨⟨⟨⟨⟨⟨⟨⟨⟨⟨hr, hup⟩, hroom⟩, hp⟩, hw⟩, hk⟩, hk32⟩, hh⟩, hok⟩, hx⟩, hq⟩ := h
  have hlen : (f.seal k).length = (f.header ++ zeros (f.payload.length + 16)).length := by
    simp only [CwFrame.seal, List.length_append, gcmSeal_length hk32, gcmSeal_tag_length hk32, zeros, List.length_replicate, header_length]
    omega
  have htake : (f.seal k).take 24 = (f.header ++ zeros (f.payload.length + 16)).take 24 := by
    simp only [CwFrame.seal, List.append_assoc]
    rw [List.take_append_of_le_length (by simp), List.take_append_of_le_length (by simp)]
  have htype : byteAt (f.seal k) 1 = f.type := by
    rw [byteAt_head 24 (by decide), htake, ← byteAt_head 24 (by decide), byteAt_head 24 (by decide),
      List.take_append_of_le_length (by simp), List.take_of_length_le (by simp)]
    exact congrArg CwFrame.type hh
  have hopen := cwOpen_seal (s := s.bump (ethIndex p) 0x20) hk32 hk hh
  unfold State.cwTake State.cwReceive State.cwAccept
  rw [if_neg (by simp [hr, htype]), if_neg (by simp [hup, hlen] ; exact ⟨by simpa using hroom, fun h => hp.resolve_left h⟩)]
  rw [cwWellFormed_head _ htake hlen]
  have hx : ((s.bump (ethIndex p) 0x20).rxSpace (cwKeyNo f.owner f.keySlot) f.src f.chan (f.type == 2)).top / 281474976710656
      = f.seq / 281474976710656 := hx
  simp [hw, hopen, hok, hx, hq, State.took]

/-! ### Wrapped records -/

/-- The record of a kind for owner 1 with the counter 0, a plaintext sealed under a key. -/
def wrapped (kind : Byte) (kek p : Bytes) : Bytes :=
  let h := [0x10, kind, 1, 0] ++ zeros 4 ++ slice deviceUid 0 8
  let c := gcmSeal kek (slice h 4 12) h p
  h ++ c.1 ++ c.2

/-- The parts of such a record are the parts it was made of. -/
theorem wrapped_parts (kind : Byte) {kek p : Bytes} (hk : kek.length = 32) :
    let b := wrapped kind kek p
    (byteAt b 0 = 0x10 ∧ byteAt b 1 = kind.toNat ∧ byteAt b 2 = 1 ∧ byteAt b 3 = 0 ∧ leAt b 4 4 = 0)
      ∧ slice b 8 8 = slice deviceUid 0 8
      ∧ gcmOpen kek (slice b 4 12) (slice b 0 16) (slice b 16 p.length) (slice b (16 + p.length) 16) = some p := by
  have hd : (slice deviceUid 0 8).length = 8 := by simp [slice]
  obtain ⟨u, hu⟩ : ∃ u, slice deviceUid 0 8 = u := ⟨_, rfl⟩
  rw [hu] at hd
  match u, hd with
  | [a0, a1, a2, a3, a4, a5, a6, a7], _ =>
    obtain ⟨h, hh⟩ : ∃ h : Bytes, [0x10, kind, 1, 0] ++ zeros 4 ++ slice deviceUid 0 8 = h := ⟨_, rfl⟩
    have hs : h = [0x10, kind, 1, 0, 0, 0, 0, 0, a0, a1, a2, a3, a4, a5, a6, a7] := by rw [← hh, hu]; rfl
    obtain ⟨c, hc⟩ : ∃ c, gcmSeal kek (slice h 4 12) h p = c := ⟨_, rfl⟩
    have h1 : c.1.length = p.length := by rw [← hc]; exact gcmSeal_length hk ..
    have h2 : c.2.length = 16 := by rw [← hc]; exact gcmSeal_tag_length hk ..
    have hb : wrapped kind kek p = h ++ (c.1 ++ c.2) := by simp only [wrapped, hh, hc, List.append_assoc]
    have hl : h.length = 16 := by rw [hs]; rfl
    have ht : (wrapped kind kek p).take 16 = h := by
      rw [hb, List.take_append_of_le_length (by omega), List.take_of_length_le (by omega)]
    have hr : (wrapped kind kek p).drop 16 = c.1 ++ c.2 := by
      rw [hb, List.drop_append_of_le_length (by omega), List.drop_of_length_le (by omega), List.nil_append]
    have e0 : slice (wrapped kind kek p) 0 16 = h := by rw [slice_head 16 (by decide), ht, hs]; rfl
    have e4 : slice (wrapped kind kek p) 4 12 = slice h 4 12 := by rw [slice_head 16 (by decide), ht]
    have e1 : slice (wrapped kind kek p) 16 p.length = c.1 := by
      simp only [slice, hr]
      rw [List.take_append_of_le_length (by omega), List.take_of_length_le (by omega)]
      simp [h1]
    have e2 : slice (wrapped kind kek p) (16 + p.length) 16 = c.2 := by
      simp only [slice, ← List.drop_drop, hr]
      rw [List.drop_append_of_le_length (by omega), List.drop_of_length_le (by omega), List.nil_append, List.take_of_length_le (by omega)]
      simp [h2]
    refine ⟨?_, ?_, ?_⟩
    · have hb : ∀ i, i < 16 → byteAt (wrapped kind kek p) i = byteAt h i := fun i hi => by rw [byteAt_head 16 hi, ht]
      have h4 : slice (wrapped kind kek p) 4 4 = slice h 4 4 := by rw [slice_head 16 (by decide), ht]
      simp only [leAt, h4, hb 0 (by decide), hb 1 (by decide), hb 2 (by decide), hb 3 (by decide)]
      rw [hs]
      exact ⟨rfl, rfl, rfl, rfl, rfl⟩
    · rw [slice_head 16 (by decide), ht, hs, hu]
      rfl
    · rw [e0, e4, e1, e2, ← hc]
      exact gcmOpen_gcmSeal hk ..

/-- A stream key sealed for owner 1 under its KEK is accepted (R532). -/
theorem keyPlain_wrapped {s : State} {kek p : Bytes} (ha : (s.owners[(1 : OwnerNo)]).phase = .active)
    (hk : (s.owners[(1 : OwnerNo)]).kek = some kek) (hc : (s.owners[(1 : OwnerNo)]).counters = []) (h32 : kek.length = 32)
    (hp : p.length = 48) (hz : slice p 36 12 = zeros 12) : s.keyPlain (wrapped 1 kek p) = some p := by
  obtain ⟨⟨b0, b1, b2, b3, b4⟩, b8, open_⟩ := wrapped_parts 1 (kek := kek) (p := p) h32
  rw [hp] at open_
  generalize wrapped 1 kek p = b at *
  have b1 : byteAt b 1 = 1 := b1
  have ro : recKeyOwner b = 1 := by simp [recKeyOwner, fieldAt, b2, bitsOf]
  have h1 : ownerOf 1 = (1 : OwnerNo) := rfl
  have hf : keyFieldsOk b = true := by
    simp [keyFieldsOk, recKind, recSlot, ro, fieldAt, b0, b1, b2, b3, b8, bitsOf, bitOf]
  simp only [State.keyPlain, State.wrappingKey, ro, h1, recKind, b1, hf, ha, hk, recCounter, b4, OwnerState.counterOld, hc]
  simp [open_, hz, allZero, zeros]

/-- A lock request sealed for owner 1 under its KEK is accepted (R534): kind 1 sets the lock, kind 2 clears it. -/
theorem lockOk_wrapped {s : State} {kek : Bytes} {kind : Byte} (hkind : kind = 1 ∨ kind = 2)
    (hk : (s.owners[(1 : OwnerNo)]).kek = some kek) (hc : (s.owners[(1 : OwnerNo)]).counters = []) (h32 : kek.length = 32) :
    s.lockOk (wrapped kind kek []) = true ∧ byteAt (wrapped kind kek []) 1 = kind.toNat := by
  obtain ⟨⟨b0, b1, b2, b3, b4⟩, b8, open_⟩ := wrapped_parts kind (kek := kek) (p := []) h32
  have h1 : ownerOf 1 = (1 : OwnerNo) := rfl
  have hkn : kind.toNat = 1 ∨ kind.toNat = 2 := by rcases hkind with rfl | rfl <;> simp
  refine ⟨?_, b1⟩
  generalize wrapped kind kek [] = b at *
  have ro : recKeyOwner b = 1 := by simp [recKeyOwner, fieldAt, b2, bitsOf]
  have hz : slice b 16 0 = [] := by simp [slice]
  simp only [List.length_nil, Nat.add_zero, hz] at open_
  simp only [State.lockOk, ro, h1, hk, recCounter, b4, OwnerState.counterOld, hc]
  simp [fieldAt, b0, b1, b2, b3, b8, bitsOf, hkn, open_]

end Sys2Proof.Machine
end

