-- ==== Sys2Proof/Laws/Flows.lean ====
section
/-! SUPPORT. What each operation keeps and which way it goes: State.Goes and the shared operations. -/

namespace Sys2Proof.Machine

/-! ### Ops -/

set_option linter.tactic.unusedName false

/-- The device after some work of a command: `Flows`, and, but for a reset, the clock never goes back and the tick's number and
boundary stay. -/
structure State.Goes (cl : Bool) (s t : State) : Prop where
  flows : s.Flows t
  time : cl = true → s.now ≤ t.now
  tick : cl = true → t.tick.number = s.tick.number ∧ t.tick.boundary = s.tick.boundary

theorem State.Flows.refl (s : State) : s.Flows s := ⟨rfl, le_refl _, List.prefix_refl _, id, id⟩

theorem State.Flows.trans {s t u : State} (h : s.Flows t) (g : t.Flows u) : s.Flows u :=
  ⟨g.queue.trans h.queue, h.draws.trans g.draws, h.trace.trans g.trace,
    g.windows ∘ h.windows, g.stores ∘ h.stores⟩

theorem State.Goes.refl {cl : Bool} (s : State) : s.Goes cl s := ⟨.refl s, fun _ => le_refl _, fun _ => ⟨rfl, rfl⟩⟩

theorem State.Goes.trans {cl : Bool} {s t u : State} (h : s.Goes cl t) (g : t.Goes cl u) : s.Goes cl u :=
  ⟨h.flows.trans g.flows, fun c => (h.time c).trans (g.time c),
    fun c => ⟨(g.tick c).1.trans (h.tick c).1, (g.tick c).2.trans (h.tick c).2⟩⟩

theorem State.Goes.weaken {cl : Bool} {s t : State} (h : s.Goes cl t) : s.Goes false t := ⟨h.flows, nofun, nofun⟩

/-- A change that keeps the clock and the tick. -/
theorem State.Goes.next {cl : Bool} {r s t : State} (h : r.Goes cl s) (g : s.Flows t) (h1 : t.now = s.now) (h2 : t.tick = s.tick) :
    r.Goes cl t :=
  h.trans ⟨g, fun _ => h1 ▸ le_refl _, fun _ => h2 ▸ ⟨rfl, rfl⟩⟩

/-- A change of fields the relation does not look at. -/
theorem State.Goes.of {cl : Bool} {r s t : State} (h : r.Goes cl s) (h1 : t.pending = s.pending) (h3 : t.free = s.free)
    (h4 : t.out = s.out) (h5 : t.power.straps = s.power.straps) (h6 : t.windows = s.windows) (h9 : t.now = s.now)
    (h10 : t.tick.number = s.tick.number) (h11 : t.tick.boundary = s.tick.boundary) (h7 : s.mem.Canonical → t.mem.Canonical)
    (h8 : ∀ k : IsleNo, (s.isles[k]).sp.Canonical → (t.isles[k]).sp.Canonical) : r.Goes cl t :=
  h.trans ⟨⟨h1, h3 ▸ le_refl _, h4 ▸ List.prefix_refl _,
    by simp only [State.Isolated, State.memTop, h5, h6]; exact id,
    fun c => ⟨h7 c.1, fun k => h8 k (c.2 k)⟩⟩, fun _ => h9 ▸ le_refl _, fun _ => ⟨h10, h11⟩⟩

theorem State.Goes.snd {α : Type} {cl : Bool} {r t : State} {p : α × State} {a : α} (h : r.Goes cl p.2) (e : p = (a, t)) : r.Goes cl t := by
  subst e; exact h

theorem State.Goes.fst {α : Type} {cl : Bool} {r t : State} {p : State × α} {a : α} (h : r.Goes cl p.1) (e : p = (t, a)) : r.Goes cl t := by
  subst e; exact h

theorem State.Goes.thd {α β : Type} {cl : Bool} {r t : State} {p : α × β × State} {a : α} {b : β} (h : r.Goes cl p.2.2)
    (e : p = (a, b, t)) : r.Goes cl t := by
  subst e; exact h

theorem kvPut_key {α : Type} {k : Nat} {v : α} {m : List (Nat × α)} {e : Nat × α} (h : e ∈ kvPut k v m) : e = (k, v) ∨ e ∈ m := by
  induction m with
  | nil => simp [kvPut] at h; exact .inl h
  | cons x xs ih =>
    unfold kvPut at h
    split at h
    · rcases List.mem_cons.1 h with rfl | h
      · simp
      · rcases ih h with h | h <;> simp [h]
    · split at h <;> rcases List.mem_cons.1 h with rfl | h <;> simp_all

/-- A filtered store stays canonical. -/
theorem Stored.filter {α : Type} {d : α} {m : List (Nat × α)} (h : Stored d m) (p : Nat × α → Bool) : Stored d (m.filter p) :=
  ⟨h.1.filter p, fun e he => h.2 e (List.mem_of_mem_filter he)⟩

theorem kvPut_stored {α : Type} {d v : α} {k : Nat} {m : List (Nat × α)} (h : Stored d m) (hv : v ≠ d) : Stored d (kvPut k v m) := by
  refine ⟨?_, fun e he => ?_⟩
  · have h1 := h.1
    clear h
    induction m with
    | nil => simp [kvPut]
    | cons x xs ih =>
      have hx := List.pairwise_cons.1 h1
      unfold kvPut
      split
      · refine List.pairwise_cons.2 ⟨fun e he => ?_, ih hx.2⟩
        rcases kvPut_key he with rfl | he
        · assumption
        · exact hx.1 _ he
      · split
        · rename_i hk
          refine List.pairwise_cons.2 ⟨fun e he => ?_, hx.2⟩
          have := hx.1 _ he
          simp only [hk] at this
          exact this
        · refine List.pairwise_cons.2 ⟨fun e he => ?_, h1⟩
          rcases List.mem_cons.1 he with rfl | he
          · simp only; omega
          · have := hx.1 _ he
            simp only; omega
  · rcases kvPut_key he with rfl | he
    · exact hv
    · exact h.2 e he

/-- A write keeps the canonical form. -/
theorem kvSet_stored {α : Type} [DecidableEq α] {d v : α} {k : Nat} {m : List (Nat × α)} (h : Stored d m) : Stored d (kvSet d k v m) := by
  unfold kvSet kvDel
  split
  · exact h.filter _
  · exact kvPut_stored h ‹_›

theorem cellsWrite_wf {bs : Bytes} {m : List Host.Cell} {a : Nat} (h : Memory.wf m) : Memory.wf (cellsWrite m a bs) := by
  induction bs generalizing m a with
  | nil => exact h
  | cons b bs ih => exact ih (kvSet_stored h)

theorem cells_filter_wf {m : List Host.Cell} (h : Memory.wf m) (p : Host.Cell → Bool) : Memory.wf (m.filter p) := Stored.filter h p

theorem MemState.rekey_canonical {m : MemState} {k b : Nat} (h : m.Canonical) : (m.rekey k b).Canonical := by
  unfold MemState.rekey
  split
  · exact h
  · exact ⟨cellsWrite_wf h.1, kvSet_stored h.2.1, h.2.2⟩

/-- A write to external memory keeps the canonical form. -/
theorem MemState.write_canonical {m : MemState} {k a : Nat} {bs : Bytes} (h : m.Canonical) : (m.write k a bs).Canonical := by
  unfold MemState.write
  split
  · exact h
  · have hr : ∀ (l : List Nat) (m : MemState), m.Canonical → (l.foldl (fun m b => MemState.rekey m k b) m).Canonical := by
      intro l
      induction l with
      | nil => exact fun _ h => h
      | cons x xs ih => exact fun m h => ih _ (MemState.rekey_canonical h)
    have := hr ((List.range ((a + bs.length - 1) / 16 - a / 16 + 1)).map fun (i : Nat) => a / 16 + i) m h
    exact ⟨cellsWrite_wf this.1, this.2.1, this.2.2⟩

theorem State.Goes.cut {cl : Bool} {r t : State} {p : Prop} (h : r.Goes cl t) (hp : r.Goes cl t → p) : p := hp h

theorem MemState.useLine_canonical {m : MemState} (h : m.Canonical) {line : Nat} : (m.useLine line).Canonical := h

theorem MemState.install_canonical {m : MemState} (h : m.Canonical) {lines : List Nat} : (m.install lines).Canonical := by
  have : ∀ (l : List Nat) (m : MemState), m.Canonical → (l.foldl MemState.useLine m).Canonical := by
    intro l
    induction l with
    | nil => exact fun _ h => h
    | cons x xs ih => exact fun m h => ih _ (MemState.useLine_canonical h)
  exact this _ _ h

theorem MemState.codedBlocks_canonical {m : MemState} (h : m.Canonical) {b : BecType} {cs : List Chunk} :
    (m.codedBlocks b cs).Canonical := h

theorem MemState.invalidate_canonical {m : MemState} (h : m.Canonical) {lo hi : Nat} : (m.invalidate lo hi).Canonical := h

/-- A stored word keeps the canonical form. -/
theorem Scratchpad.put_canonical {p : Scratchpad} (h : p.Canonical) {word tag : Nat} {bs : Bytes} :
    (p.put word bs tag).Canonical := ⟨cellsWrite_wf h.1, kvSet_stored h.2⟩

theorem Scratchpad.zeroRow_canonical {p : Scratchpad} (h : p.Canonical) {row : Nat} : (p.zeroRow row).Canonical :=
  ⟨cells_filter_wf h.1 _, h.2.filter _⟩

theorem Scratchpad.zeroRows_canonical {p : Scratchpad} (h : p.Canonical) {rows : List Nat} :
    (rows.foldl Scratchpad.zeroRow p).Canonical := by
  induction rows generalizing p with
  | nil => exact h
  | cons x xs ih => exact ih (Scratchpad.zeroRow_canonical h)

theorem Scratchpad.upset_canonical {p : Scratchpad} (h : p.Canonical) {word : Nat} {bits : List Nat} :
    (p.upset word bits).Canonical := h

theorem Scratchpad.scrubOwner_canonical {p : Scratchpad} (h : p.Canonical) {o : Nat} : (p.scrubOwner o).Canonical :=
  ⟨cells_filter_wf h.1 _, h.2.filter _⟩

theorem State.Goes.ite {cl : Bool} {r a b : State} {c : Prop} [Decidable c] (ha : c → r.Goes cl a) (hb : ¬c → r.Goes cl b) :
    r.Goes cl (if c then a else b) := by
  split
  · exact ha ‹_›
  · exact hb ‹_›

theorem MemState.putEth_canonical {m : MemState} (h : m.Canonical) {a : Nat} {bs : Bytes} :
    MemState.Canonical { m with eth := cellsWrite m.eth a bs } := ⟨h.1, h.2.1, cellsWrite_wf h.2.2⟩

theorem State.Goes.mapIsles {cl : Bool} {r s : State} (h : r.Goes cl s) {f : IsleState → IsleState} (hf : ∀ i, (f i).sp = i.sp) :
    r.Goes cl { s with isles := s.isles.map f } :=
  State.Goes.of (s := s) h rfl rfl rfl rfl rfl rfl rfl rfl id fun k hk => by
    simp only [Fin.getElem_fin, Vector.getElem_map, hf]
    exact hk

theorem Scratchpad.empty_canonical {p : Scratchpad} (hc : p.cells = []) (ht : p.tags = []) : p.Canonical := by
  constructor
  · rw [hc]; exact ⟨List.Pairwise.nil, by simp⟩
  · rw [ht]; exact ⟨List.Pairwise.nil, by simp⟩

theorem Scratchpad.puts_canonical {p : Scratchpad} (h : p.Canonical) {ws : List Nat} {a : Nat → Nat} {b : Nat → Bytes} {o : Nat} :
    (ws.foldl (fun p w => p.put (a w) (b w) o) p).Canonical := by
  induction ws generalizing p with
  | nil => exact h
  | cons x xs ih => exact ih (Scratchpad.put_canonical h)

theorem MemState.filterEth_canonical {m : MemState} (h : m.Canonical) {p : Host.Cell → Bool} :
    MemState.Canonical { m with eth := m.eth.filter p } := ⟨h.1, h.2.1, cells_filter_wf h.2.2 _⟩

theorem Act.ite_goes {cl : Bool} {r s : State} {c : Prop} [Decidable c] {a b : Act} {w : Write} {v : OdVal} (ha : r.Goes cl (a w v s).2)
    (hb : r.Goes cl (b w v s).2) : r.Goes cl ((if c then a else b) w v s).2 := by
  split <;> assumption

theorem State.modIsle_goes {cl : Bool} {r s : State} (h : r.Goes cl s) {k : IsleNo} {f : IsleState → IsleState}
    (hf : ∀ i, i.sp.Canonical → (f i).sp.Canonical) : r.Goes cl (s.modIsle k f) := by
  refine State.Goes.of (s := s) h rfl rfl rfl rfl rfl rfl rfl rfl id fun j hj => ?_
  show (((s.isles.set k (f s.isles[k]))[j]).sp).Canonical
  simp only [Fin.getElem_fin, Vector.getElem_set]
  split
  · rename_i e
    have : k = j := Fin.ext e
    subst this
    exact hf _ hj
  · exact hj

theorem State.modCtx_goes {cl : Bool} {r s : State} (h : r.Goes cl s) {k : IsleNo} {c : CtxNo} {f : Context → Context} :
    r.Goes cl (State.modCtx s k c f) := by
  unfold State.modCtx
  repeat' first
    | with_reducible assumption
    | intro _
    | with_reducible apply State.modIsle_goes

theorem State.modSlot_goes {cl : Bool} {r s : State} (h : r.Goes cl s) {n : SlotNo} {f : Slot → Slot} :
    r.Goes cl (State.modSlot s n f) := by
  unfold State.modSlot
  repeat' first
    | with_reducible assumption
    | intro _
    | split
    | dsimp -zeta only
    | refine State.Goes.of (s := s) ?_ rfl rfl rfl rfl rfl rfl rfl rfl id (fun _ => id)

theorem State.modCounter_goes {cl : Bool} {r s : State} (h : r.Goes cl s) {n : CounterNo} {f : TileCounter → TileCounter} :
    r.Goes cl (State.modCounter s n f) := by
  unfold State.modCounter
  repeat' first
    | with_reducible assumption
    | intro _
    | split
    | dsimp -zeta only
    | refine State.Goes.of (s := s) ?_ rfl rfl rfl rfl rfl rfl rfl rfl id (fun _ => id)

set_option linter.tactic.unusedName false

theorem State.modSp_goes {cl : Bool} {r s : State} (h : r.Goes cl s) {k : IsleNo} {f : Scratchpad → Scratchpad}
    (hf : ∀ p, p.Canonical → (f p).Canonical) : r.Goes cl (s.modSp k f) :=
  State.modIsle_goes h fun _ hi => hf _ hi

theorem State.modCnt_goes {cl : Bool} {r s : State} (h : r.Goes cl s) {k : IsleNo} {f : IsleCounters → IsleCounters} :
    r.Goes cl (State.modCnt s k f) := by
  unfold State.modCnt
  repeat' first
    | with_reducible assumption
    | intro _
    | with_reducible apply State.modIsle_goes

theorem State.modTick_goes {cl : Bool} {r s : State} (h : r.Goes cl s) {f : TickState → TickState}
    (hf : ∀ t, (f t).number = t.number ∧ (f t).boundary = t.boundary) : r.Goes cl (s.modTick f) :=
  State.Goes.of (s := s) h rfl rfl rfl rfl rfl rfl (hf _).1 (hf _).2 id fun _ => id

theorem State.modMem_goes {cl : Bool} {r s : State} (h : r.Goes cl s) {f : MemState → MemState}
    (hf : ∀ m, m.Canonical → (f m).Canonical) : r.Goes cl (s.modMem f) :=
  State.Goes.of (s := s) h rfl rfl rfl rfl rfl rfl rfl rfl (hf _) fun _ => id

theorem State.modCan_goes {cl : Bool} {r s : State} (h : r.Goes cl s) {p : CanNo} {f : CanPort → CanPort} :
    r.Goes cl (State.modCan s p f) := by
  unfold State.modCan
  repeat' first
    | with_reducible assumption
    | intro _
    | split
    | dsimp -zeta only
    | refine State.Goes.of (s := s) ?_ rfl rfl rfl rfl rfl rfl rfl rfl id (fun _ => id)

theorem State.modOwner_goes {cl : Bool} {r s : State} (h : r.Goes cl s) {o : OwnerNo} {f : OwnerState → OwnerState} :
    r.Goes cl (State.modOwner s o f) := by
  unfold State.modOwner
  repeat' first
    | with_reducible assumption
    | intro _
    | split
    | dsimp -zeta only
    | refine State.Goes.of (s := s) ?_ rfl rfl rfl rfl rfl rfl rfl rfl id (fun _ => id)

theorem State.extWrite_goes {cl : Bool} {r s : State} (h : r.Goes cl s) {o : OwnerNo} {a : Nat} {bs : Bytes} : r.Goes cl (s.extWrite o a bs) :=
  State.modMem_goes h fun _ hm => MemState.write_canonical hm

theorem State.atCycle_goes {cl : Bool} {r s : State} (h : r.Goes cl s) {t : Nat} : r.Goes cl (s.at_ t) := by
  unfold State.at_
  split
  · rename_i hlt
    refine h.trans ⟨⟨rfl, le_refl _, List.prefix_refl _, id, fun c => ⟨c.1, fun k => ?_⟩⟩, fun _ => Nat.le_of_lt hlt, fun _ => ⟨rfl, rfl⟩⟩
    simp only [Fin.getElem_fin, Vector.getElem_map]
    exact c.2 k
  · exact h

theorem State.draw_goes {cl : Bool} {r s : State} (h : r.Goes cl s) : r.Goes cl s.draw.2 :=
  h.next ⟨rfl, by simp [State.draw], List.prefix_refl _, id, id⟩ rfl rfl

theorem State.emit_goes {cl : Bool} {r s : State} (h : r.Goes cl s) {o : Out} : r.Goes cl (s.emit o) :=
  h.next ⟨rfl, le_refl _, List.prefix_append _ _, id, id⟩ rfl rfl

theorem State.modLedger_goes {cl : Bool} {r s : State} (h : r.Goes cl s) {f : LedgerState → LedgerState} :
    r.Goes cl (State.modLedger s f) := by
  unfold State.modLedger
  repeat' first
    | with_reducible assumption
    | intro _
    | split
    | dsimp -zeta only
    | refine State.Goes.of (s := s) ?_ rfl rfl rfl rfl rfl rfl rfl rfl id (fun _ => id)

theorem State.modPower_goes {cl : Bool} {r s : State} (h : r.Goes cl s) {f : PowerState → PowerState}
    (hf : ∀ p, (f p).straps = p.straps) : r.Goes cl (s.modPower f) :=
  State.Goes.of (s := s) h rfl rfl rfl (hf _) rfl rfl rfl rfl id fun _ => id

theorem State.modSys_goes {cl : Bool} {r s : State} (h : r.Goes cl s) {f : SystemState → SystemState} :
    r.Goes cl (State.modSys s f) := by
  unfold State.modSys
  repeat' first
    | with_reducible assumption
    | intro _
    | split
    | dsimp -zeta only
    | refine State.Goes.of (s := s) ?_ rfl rfl rfl rfl rfl rfl rfl rfl id (fun _ => id)

theorem State.modFw_goes {cl : Bool} {r s : State} (h : r.Goes cl s) {f : FirmwareState → FirmwareState} :
    r.Goes cl (State.modFw s f) := by
  unfold State.modFw
  repeat' first
    | with_reducible assumption
    | intro _
    | split
    | dsimp -zeta only
    | refine State.Goes.of (s := s) ?_ rfl rfl rfl rfl rfl rfl rfl rfl id (fun _ => id)

theorem State.charge_goes {cl : Bool} {r s : State} (h : r.Goes cl s) {o : OwnerNo} {ops : Nat} {bytes : Nat} :
    r.Goes cl (State.charge s o ops bytes) := by
  unfold State.charge
  repeat' first
    | with_reducible assumption
    | intro _
    | extract_lets +onlyGivenNames _
    | with_reducible apply State.modLedger_goes
    | split

theorem State.chargeSamples_goes {cl : Bool} {r s : State} (h : r.Goes cl s) {o : OwnerNo} {n : Nat} :
    r.Goes cl (State.chargeSamples s o n) := by
  unfold State.chargeSamples
  repeat' first
    | with_reducible assumption
    | intro _
    | with_reducible apply State.modLedger_goes
    | split

theorem State.each_goes {cl : Bool} {r s : State} (h : r.Goes cl s) {α : Type} {xs : List α} {f : State → α → State}
    (hf : ∀ t x, r.Goes cl t → r.Goes cl (f t x)) : r.Goes cl (s.each xs f) := by
  unfold State.each
  induction xs generalizing s with
  | nil => exact h
  | cons x xs ih => exact ih (hf _ _ h)

/-- A fold whose step goes on from its state. -/
theorem State.Goes.foldl {α : Type} {cl : Bool} {r s : State} (h : r.Goes cl s) {xs : List α} {f : State → α → State}
    (hf : ∀ t x, r.Goes cl t → r.Goes cl (f t x)) : r.Goes cl (xs.foldl f s) := State.each_goes h hf

theorem State.Goes.foldlFst {α β : Type} {cl : Bool} {r : State} {p : State × β} (h : r.Goes cl p.1) {xs : List α} {f : State × β → α → State × β}
    (hf : ∀ q x, r.Goes cl q.1 → r.Goes cl (f q x).1) : r.Goes cl (xs.foldl f p).1 := by
  induction xs generalizing p with
  | nil => exact h
  | cons x xs ih => exact ih (hf _ _ h)

theorem State.Goes.foldlSnd {α β : Type} {cl : Bool} {r : State} {p : β × State} (h : r.Goes cl p.2) {xs : List α} {f : β × State → α → β × State}
    (hf : ∀ q x, r.Goes cl q.2 → r.Goes cl (f q x).2) : r.Goes cl (xs.foldl f p).2 := by
  induction xs generalizing p with
  | nil => exact h
  | cons x xs ih => exact ih (hf _ _ h)

theorem State.Goes.foldlThd {α β γ : Type} {cl : Bool} {r : State} {p : β × γ × State} (h : r.Goes cl p.2.2) {xs : List α}
    {f : β × γ × State → α → β × γ × State} (hf : ∀ q x, r.Goes cl q.2.2 → r.Goes cl (f q x).2.2) : r.Goes cl (xs.foldl f p).2.2 := by
  induction xs generalizing p with
  | nil => exact h
  | cons x xs ih => exact ih (hf _ _ h)

theorem State.Goes.foldlFth {α β γ δ : Type} {cl : Bool} {r : State} {p : β × γ × δ × State} (h : r.Goes cl p.2.2.2) {xs : List α}
    {f : β × γ × δ × State → α → β × γ × δ × State} (hf : ∀ q x, r.Goes cl q.2.2.2 → r.Goes cl (f q x).2.2.2) :
    r.Goes cl (xs.foldl f p).2.2.2 := by
  induction xs generalizing p with
  | nil => exact h
  | cons x xs ih => exact ih (hf _ _ h)

theorem State.setEntry_goes {cl : Bool} {r s : State} (h : r.Goes cl s) {i : Nat} {sub : Nat} {v : OdVal} :
    r.Goes cl (State.setEntry s i sub v) := by
  unfold State.setEntry
  repeat' first
    | with_reducible assumption
    | intro _
    | split
    | dsimp -zeta only
    | refine State.Goes.of (s := s) ?_ rfl rfl rfl rfl rfl rfl rfl rfl id (fun _ => id)

theorem State.setNum_goes {cl : Bool} {r s : State} (h : r.Goes cl s) {i : Nat} {sub : Nat} {v : Int} :
    r.Goes cl (State.setNum s i sub v) := by
  unfold State.setNum
  repeat' first
    | with_reducible assumption
    | intro _
    | with_reducible apply State.setEntry_goes

theorem State.bumpBy_goes {cl : Bool} {r s : State} (h : r.Goes cl s) {i : Nat} {sub : Nat} {n : Nat} :
    r.Goes cl (State.bumpBy s i sub n) := by
  unfold State.bumpBy
  repeat' first
    | with_reducible assumption
    | intro _
    | with_reducible apply State.setNum_goes

theorem State.bump_goes {cl : Bool} {r s : State} (h : r.Goes cl s) {i : Nat} {sub : Nat} :
    r.Goes cl (State.bump s i sub) := by
  unfold State.bump
  repeat' first
    | with_reducible assumption
    | intro _
    | with_reducible apply State.bumpBy_goes

theorem State.queueEmcy_goes {cl : Bool} {r s : State} (h : r.Goes cl s) {m : Emcy} :
    r.Goes cl (State.queueEmcy s m).1 := by
  unfold State.queueEmcy
  repeat' first
    | with_reducible assumption
    | intro _
    | extract_lets +onlyGivenNames _
    | with_reducible apply State.modCan_goes
    | with_reducible apply State.bump_goes
    | apply State.Goes.foldl
    | apply State.Goes.foldlFst
    | apply State.Goes.foldlSnd
    | apply State.Goes.foldlThd
    | apply State.Goes.foldlFth
    | split

theorem State.record_goes {cl : Bool} {r s : State} (h : r.Goes cl s) {r0 : EventRecord} :
    r.Goes cl (State.record s r0).1 := by
  unfold State.record
  repeat' first
    | with_reducible assumption
    | intro _
    | extract_lets +onlyGivenNames _
    | with_reducible apply State.setNum_goes
    | with_reducible apply State.queueEmcy_goes
    | with_reducible refine State.Goes.snd ?_ (by with_reducible assumption)
    | with_reducible refine State.Goes.fst ?_ (by with_reducible assumption)
    | with_reducible refine State.Goes.thd ?_ (by with_reducible assumption)
    | split
    | dsimp -zeta only
    | refine State.Goes.of (s := s) ?_ rfl rfl rfl rfl rfl rfl rfl rfl id (fun _ => id)

theorem State.markTick_goes {cl : Bool} {r s : State} (h : r.Goes cl s) {code : Nat} {q : Nat} :
    r.Goes cl (State.markTick s code q) := by
  unfold State.markTick
  repeat' first
    | with_reducible assumption
    | intro _
    | split
    | dsimp -zeta only
    | refine State.Goes.of (s := s) ?_ rfl rfl rfl rfl rfl rfl rfl rfl id (fun _ => id)

theorem State.log_goes {cl : Bool} {r s : State} (h : r.Goes cl s) {r0 : EventRecord} :
    r.Goes cl (State.log s r0) := by
  unfold State.log
  repeat' first
    | with_reducible assumption
    | intro _
    | with_reducible apply State.record_goes
    | with_reducible apply State.markTick_goes
    | with_reducible refine State.Goes.snd ?_ (by with_reducible assumption)
    | with_reducible refine State.Goes.fst ?_ (by with_reducible assumption)
    | with_reducible refine State.Goes.thd ?_ (by with_reducible assumption)
    | split

theorem State.raise_goes {cl : Bool} {r s : State} (h : r.Goes cl s) {code : Nat} {c : Concern} :
    r.Goes cl (State.raise s code c) := by
  unfold State.raise
  repeat' first
    | with_reducible assumption
    | intro _
    | with_reducible apply State.log_goes

theorem State.raiseOnce_goes {cl : Bool} {r s : State} (h : r.Goes cl s) {code : Nat} {q : Nat} {c : Concern} :
    r.Goes cl (State.raiseOnce s code q c) := by
  unfold State.raiseOnce
  repeat' first
    | with_reducible assumption
    | intro _
    | with_reducible apply State.markTick_goes
    | with_reducible apply State.raise_goes
    | split

theorem State.settleError_goes {cl : Bool} {r s : State} (h : r.Goes cl s) :
    r.Goes cl (State.settleError s) := by
  unfold State.settleError
  repeat' first
    | with_reducible assumption
    | intro _
    | extract_lets +onlyGivenNames _
    | with_reducible apply State.queueEmcy_goes
    | with_reducible refine State.Goes.snd ?_ (by with_reducible assumption)
    | with_reducible refine State.Goes.fst ?_ (by with_reducible assumption)
    | with_reducible refine State.Goes.thd ?_ (by with_reducible assumption)
    | split
    | dsimp -zeta only
    | refine State.Goes.of (s := s) ?_ rfl rfl rfl rfl rfl rfl rfl rfl id (fun _ => id)

theorem State.ringWrite_goes {cl : Bool} {r s : State} (h : r.Goes cl s) {k : SlotNo} {a : Nat} {bs : Bytes} :
    r.Goes cl (State.ringWrite s k a bs).2 := by
  unfold State.ringWrite
  repeat' first
    | with_reducible assumption
    | intro _
    | extract_lets +onlyGivenNames _
    | with_reducible apply State.raise_goes
    | with_reducible apply State.extWrite_goes
    | with_reducible apply State.charge_goes
    | with_reducible refine State.Goes.snd ?_ (by with_reducible assumption)
    | with_reducible refine State.Goes.fst ?_ (by with_reducible assumption)
    | with_reducible refine State.Goes.thd ?_ (by with_reducible assumption)
    | split

theorem State.modFrame_goes {cl : Bool} {r s : State} (h : r.Goes cl s) {k : SlotNo} {n : Nat} {f : Frame → Frame} :
    r.Goes cl (State.modFrame s k n f) := by
  unfold State.modFrame
  repeat' first
    | with_reducible assumption
    | intro _
    | with_reducible apply State.modSlot_goes

theorem State.raiseFrame_goes {cl : Bool} {r s : State} (h : r.Goes cl s) {k : SlotNo} {n : Nat} {code : Nat} :
    r.Goes cl (State.raiseFrame s k n code) := by
  unfold State.raiseFrame
  repeat' first
    | with_reducible assumption
    | intro _
    | with_reducible apply State.modFrame_goes
    | with_reducible apply State.raise_goes
    | with_reducible refine State.Goes.snd ?_ (by with_reducible assumption)
    | with_reducible refine State.Goes.fst ?_ (by with_reducible assumption)
    | with_reducible refine State.Goes.thd ?_ (by with_reducible assumption)
    | split

/-! ### Plans -/

theorem State.setWaitLimits_goes {cl : Bool} {r s : State} (h : r.Goes cl s) :
    r.Goes cl (State.setWaitLimits s) := by
  unfold State.setWaitLimits
  repeat' first
    | with_reducible assumption
    | intro _
    | (extract_lets +onlyGivenNames t; refine State.Goes.cut (cl := cl) (r := r) (t := t) ?_ fun ht => ?_; subst t; rotate_left; clear_value t)
    | extract_lets +onlyGivenNames _
    | with_reducible refine State.Goes.snd ?_ (by with_reducible assumption)
    | with_reducible refine State.Goes.fst ?_ (by with_reducible assumption)
    | with_reducible refine State.Goes.thd ?_ (by with_reducible assumption)
    | apply State.Goes.foldl
    | apply State.Goes.foldlFst
    | apply State.Goes.foldlSnd
    | apply State.Goes.foldlThd
    | apply State.Goes.foldlFth
    | refine State.Goes.mapIsles ?_ (fun _ => rfl)
    | split
    | dsimp -zeta only
    | refine State.Goes.of (s := s) ?_ rfl rfl rfl rfl rfl rfl rfl rfl id (fun _ => id)

/-! ### Claims -/

theorem State.answerClaims_goes {cl : Bool} {r s : State} (h : r.Goes cl s) {n : CounterNo} :
    r.Goes cl (State.answerClaims s n) := by
  unfold State.answerClaims
  repeat' first
    | with_reducible assumption
    | intro _
    | extract_lets +onlyGivenNames _
    | with_reducible apply State.modCounter_goes
    | with_reducible apply State.each_goes
    | with_reducible apply State.modCtx_goes
    | with_reducible refine State.Goes.snd ?_ (by with_reducible assumption)
    | with_reducible refine State.Goes.fst ?_ (by with_reducible assumption)
    | with_reducible refine State.Goes.thd ?_ (by with_reducible assumption)
    | split

theorem State.closeCounter_goes {cl : Bool} {r s : State} (h : r.Goes cl s) {n : CounterNo} :
    r.Goes cl (State.closeCounter s n) := by
  unfold State.closeCounter
  repeat' first
    | with_reducible assumption
    | intro _
    | with_reducible apply State.modCounter_goes
    | with_reducible apply State.answerClaims_goes

theorem State.withdraw_goes {cl : Bool} {r s : State} (h : r.Goes cl s) {k : IsleNo} {c : CtxNo} :
    r.Goes cl (State.withdraw s k c) := by
  unfold State.withdraw
  repeat' first
    | with_reducible assumption
    | intro _
    | with_reducible apply State.each_goes
    | with_reducible apply State.modCounter_goes
    | split

theorem State.stopCtx_goes {cl : Bool} {r s : State} (h : r.Goes cl s) {k : IsleNo} {c : CtxNo} :
    r.Goes cl (State.stopCtx s k c) := by
  unfold State.stopCtx
  repeat' first
    | with_reducible assumption
    | intro _
    | with_reducible apply State.modCnt_goes
    | with_reducible apply State.modCtx_goes
    | with_reducible apply State.withdraw_goes

theorem State.stopWhere_goes {cl : Bool} {r s : State} (h : r.Goes cl s) {p : IsleNo → Context → Bool} :
    r.Goes cl (State.stopWhere s p) := by
  unfold State.stopWhere
  repeat' first
    | with_reducible assumption
    | intro _
    | with_reducible apply State.each_goes
    | with_reducible apply State.stopCtx_goes
    | split

/-! ### MoverCore -/

theorem State.modEngine_goes {cl : Bool} {r s : State} (h : r.Goes cl s) {e : Engine} {f : EngineState → EngineState} :
    r.Goes cl (State.modEngine s e f) := by
  unfold State.modEngine
  repeat' first
    | with_reducible assumption
    | intro _
    | with_reducible apply State.modIsle_goes
    | with_reducible refine State.Goes.snd ?_ (by with_reducible assumption)
    | with_reducible refine State.Goes.fst ?_ (by with_reducible assumption)
    | with_reducible refine State.Goes.thd ?_ (by with_reducible assumption)
    | exact ‹Scratchpad.Canonical _›
    | split
    | dsimp -zeta only
    | refine State.Goes.of (s := s) ?_ rfl rfl rfl rfl rfl rfl rfl rfl id (fun _ => id)

theorem State.modChan_goes {cl : Bool} {r s : State} (h : r.Goes cl s) {e : Engine} {c : ChanNo} {f : Channel → Channel} :
    r.Goes cl (State.modChan s e c f) := by
  unfold State.modChan
  repeat' first
    | with_reducible assumption
    | intro _
    | with_reducible apply State.modEngine_goes

theorem State.abortChan_goes {cl : Bool} {r s : State} (h : r.Goes cl s) {e : Engine} {c : ChanNo} :
    r.Goes cl (State.abortChan s e c) := by
  unfold State.abortChan
  repeat' first
    | with_reducible assumption
    | intro _
    | with_reducible apply State.modChan_goes
    | with_reducible apply State.raise_goes

theorem State.abortWhere_goes {cl : Bool} {r s : State} (h : r.Goes cl s) {p : Engine → Channel → Bool} :
    r.Goes cl (State.abortWhere s p) := by
  unfold State.abortWhere
  repeat' first
    | with_reducible assumption
    | intro _
    | with_reducible apply State.each_goes
    | with_reducible apply State.abortChan_goes
    | split

theorem State.dropUnstarted_goes {cl : Bool} {r s : State} (h : r.Goes cl s) {p : Channel → Bool} :
    r.Goes cl (State.dropUnstarted s p) := by
  unfold State.dropUnstarted
  repeat' first
    | with_reducible assumption
    | intro _
    | extract_lets +onlyGivenNames _
    | with_reducible apply State.each_goes
    | with_reducible apply State.modChan_goes
    | split

/-! ### AdaptCore -/

theorem State.abandonStep_goes {cl : Bool} {r s : State} (h : r.Goes cl s) {k : SlotNo} {d : Nat} {reason : Nat} :
    r.Goes cl (State.abandonStep s k d reason) := by
  unfold State.abandonStep
  repeat' first
    | with_reducible assumption
    | intro _
    | extract_lets +onlyGivenNames _
    | with_reducible apply State.modSlot_goes
    | with_reducible apply State.stopWhere_goes
    | with_reducible apply State.abortWhere_goes
    | with_reducible apply State.bump_goes
    | with_reducible apply State.setNum_goes
    | with_reducible apply State.raiseOnce_goes
    | with_reducible refine State.Goes.snd ?_ (by with_reducible assumption)
    | with_reducible refine State.Goes.fst ?_ (by with_reducible assumption)
    | with_reducible refine State.Goes.thd ?_ (by with_reducible assumption)
    | split

theorem State.abandonWhere_goes {cl : Bool} {r s : State} (h : r.Goes cl s) {reason : Nat} {p : SlotNo → AdaptStep → Bool} :
    r.Goes cl (State.abandonWhere s reason p) := by
  unfold State.abandonWhere
  repeat' first
    | with_reducible assumption
    | intro _
    | with_reducible apply State.each_goes
    | with_reducible apply State.abandonStep_goes
    | with_reducible refine State.Goes.snd ?_ (by with_reducible assumption)
    | with_reducible refine State.Goes.fst ?_ (by with_reducible assumption)
    | with_reducible refine State.Goes.thd ?_ (by with_reducible assumption)
    | split

theorem State.writeAdaptHeaders_goes {cl : Bool} {r s : State} (h : r.Goes cl s) {k : SlotNo} {d : Nat} :
    r.Goes cl (State.writeAdaptHeaders s k d) := by
  unfold State.writeAdaptHeaders
  repeat' first
    | with_reducible assumption
    | intro _
    | extract_lets +onlyGivenNames _
    | with_reducible apply State.extWrite_goes
    | with_reducible refine State.Goes.snd ?_ (by with_reducible assumption)
    | with_reducible refine State.Goes.fst ?_ (by with_reducible assumption)
    | with_reducible refine State.Goes.thd ?_ (by with_reducible assumption)
    | split

theorem State.noteSets_goes {cl : Bool} {r s : State} (h : r.Goes cl s) {k : SlotNo} :
    r.Goes cl (State.noteSets s k) := by
  unfold State.noteSets
  repeat' first
    | with_reducible assumption
    | intro _
    | with_reducible apply State.setNum_goes

theorem State.loadSets_goes {cl : Bool} {r s : State} (h : r.Goes cl s) {k : SlotNo} {isle : IsleNo} {m : AdaptImage} {ws : Bytes} :
    r.Goes cl (State.loadSets s k isle m ws) := by
  unfold State.loadSets
  extract_lets put
  refine State.modSp_goes h fun x hp => ?_
  exact Scratchpad.puts_canonical (p := List.foldl _ x _) (Scratchpad.puts_canonical hp)

theorem State.loadPlanSets_goes {cl : Bool} {r s : State} (h : r.Goes cl s) {k : SlotNo} {d : Nat} :
    r.Goes cl (State.loadPlanSets s k d) := by
  unfold State.loadPlanSets
  repeat' first
    | with_reducible assumption
    | intro _
    | (extract_lets +onlyGivenNames t; refine State.Goes.cut (cl := cl) (r := r) (t := t) ?_ fun ht => ?_; subst t; rotate_left; clear_value t)
    | extract_lets +onlyGivenNames _
    | with_reducible apply State.each_goes
    | with_reducible apply State.loadSets_goes
    | with_reducible refine State.Goes.snd ?_ (by with_reducible assumption)
    | with_reducible refine State.Goes.fst ?_ (by with_reducible assumption)
    | with_reducible refine State.Goes.thd ?_ (by with_reducible assumption)
    | apply State.Goes.foldl
    | apply State.Goes.foldlFst
    | apply State.Goes.foldlSnd
    | apply State.Goes.foldlThd
    | apply State.Goes.foldlFth
    | refine State.Goes.mapIsles ?_ (fun _ => rfl)
    | split
    | dsimp -zeta only
    | refine State.Goes.of (s := s) ?_ rfl rfl rfl rfl rfl rfl rfl rfl id (fun _ => id)

theorem State.writeReset_goes {cl : Bool} {r s : State} (h : r.Goes cl s) {k : SlotNo} {d : Nat} :
    r.Goes cl (State.writeReset s k d) := by
  unfold State.writeReset
  repeat' first
    | with_reducible assumption
    | intro _
    | (extract_lets +onlyGivenNames t; refine State.Goes.cut (cl := cl) (r := r) (t := t) ?_ fun ht => ?_; subst t; rotate_left; clear_value t)
    | extract_lets +onlyGivenNames _
    | with_reducible apply State.extWrite_goes
    | with_reducible apply State.writeAdaptHeaders_goes
    | with_reducible apply State.noteSets_goes
    | with_reducible apply State.loadPlanSets_goes
    | with_reducible refine State.Goes.snd ?_ (by with_reducible assumption)
    | with_reducible refine State.Goes.fst ?_ (by with_reducible assumption)
    | with_reducible refine State.Goes.thd ?_ (by with_reducible assumption)
    | apply State.Goes.foldl
    | apply State.Goes.foldlFst
    | apply State.Goes.foldlSnd
    | apply State.Goes.foldlThd
    | apply State.Goes.foldlFth
    | refine State.Goes.mapIsles ?_ (fun _ => rfl)
    | split
    | dsimp -zeta only
    | refine State.Goes.of (s := s) ?_ rfl rfl rfl rfl rfl rfl rfl rfl id (fun _ => id)

theorem State.adaptResets_goes {cl : Bool} {r s : State} (h : r.Goes cl s) {k : SlotNo} :
    r.Goes cl (State.adaptResets s k) := by
  unfold State.adaptResets
  repeat' first
    | with_reducible assumption
    | intro _
    | extract_lets +onlyGivenNames _
    | with_reducible apply State.each_goes
    | with_reducible apply State.abandonStep_goes
    | with_reducible apply State.modSlot_goes
    | with_reducible apply State.writeReset_goes
    | with_reducible apply State.raise_goes
    | split

/-! ### Frames -/

theorem State.commitIndex_goes {cl : Bool} {r s : State} (h : r.Goes cl s) {i : Nat} :
    r.Goes cl (State.commitIndex s i) := by
  unfold State.commitIndex
  repeat' first
    | with_reducible assumption
    | intro _
    | (extract_lets +onlyGivenNames t; refine State.Goes.cut (cl := cl) (r := r) (t := t) ?_ fun ht => ?_; subst t; rotate_left; clear_value t)
    | extract_lets +onlyGivenNames _
    | with_reducible apply State.each_goes
    | with_reducible apply State.setEntry_goes
    | split
    | dsimp -zeta only
    | refine State.Goes.of (s := s) ?_ rfl rfl rfl rfl rfl rfl rfl rfl id (fun _ => id)

theorem State.commitSlot_goes {cl : Bool} {r s : State} (h : r.Goes cl s) {k : SlotNo} :
    r.Goes cl (State.commitSlot s k) := by
  unfold State.commitSlot
  repeat' first
    | with_reducible assumption
    | intro _
    | (extract_lets +onlyGivenNames t; refine State.Goes.cut (cl := cl) (r := r) (t := t) ?_ fun ht => ?_; subst t; rotate_left; clear_value t)
    | extract_lets +onlyGivenNames _
    | with_reducible apply State.modSlot_goes
    | with_reducible apply State.bump_goes
    | with_reducible apply State.commitIndex_goes
    | with_reducible refine State.Goes.snd ?_ (by with_reducible assumption)
    | with_reducible refine State.Goes.fst ?_ (by with_reducible assumption)
    | with_reducible refine State.Goes.thd ?_ (by with_reducible assumption)
    | apply State.Goes.foldl
    | apply State.Goes.foldlFst
    | apply State.Goes.foldlSnd
    | apply State.Goes.foldlThd
    | apply State.Goes.foldlFth
    | refine State.Goes.mapIsles ?_ (fun _ => rfl)
    | split
    | dsimp -zeta only
    | refine State.Goes.of (s := s) ?_ rfl rfl rfl rfl rfl rfl rfl rfl id (fun _ => id)

theorem State.noteFirstUse_goes {cl : Bool} {r s : State} (h : r.Goes cl s) {k : SlotNo} {n : Nat} :
    r.Goes cl (State.noteFirstUse s k n) := by
  unfold State.noteFirstUse
  repeat' first
    | with_reducible assumption
    | intro _
    | (extract_lets +onlyGivenNames t; refine State.Goes.cut (cl := cl) (r := r) (t := t) ?_ fun ht => ?_; subst t; rotate_left; clear_value t)
    | extract_lets +onlyGivenNames _
    | with_reducible apply State.modSlot_goes
    | with_reducible apply State.setNum_goes
    | with_reducible refine State.Goes.snd ?_ (by with_reducible assumption)
    | with_reducible refine State.Goes.fst ?_ (by with_reducible assumption)
    | with_reducible refine State.Goes.thd ?_ (by with_reducible assumption)
    | apply State.Goes.foldl
    | apply State.Goes.foldlFst
    | apply State.Goes.foldlSnd
    | apply State.Goes.foldlThd
    | apply State.Goes.foldlFth
    | refine State.Goes.mapIsles ?_ (fun _ => rfl)
    | split
    | dsimp -zeta only
    | refine State.Goes.of (s := s) ?_ rfl rfl rfl rfl rfl rfl rfl rfl id (fun _ => id)

theorem State.invalidate_goes {cl : Bool} {r s : State} (h : r.Goes cl s) {k : SlotNo} {reason : Nat} :
    r.Goes cl (State.invalidate s k reason) := by
  unfold State.invalidate
  repeat' first
    | with_reducible assumption
    | intro _
    | (extract_lets +onlyGivenNames t; refine State.Goes.cut (cl := cl) (r := r) (t := t) ?_ fun ht => ?_; subst t; rotate_left; clear_value t)
    | extract_lets +onlyGivenNames _
    | with_reducible apply State.bump_goes
    | with_reducible apply State.setNum_goes
    | with_reducible apply State.modSlot_goes
    | with_reducible apply State.raise_goes

theorem State.addReason_goes {cl : Bool} {r s : State} (h : r.Goes cl s) {k : SlotNo} {r0 : Nat} :
    r.Goes cl (State.addReason s k r0) := by
  unfold State.addReason
  repeat' first
    | with_reducible assumption
    | intro _
    | with_reducible apply State.modSlot_goes

theorem State.takeOut_goes {cl : Bool} {r s t : State} (h : r.Goes cl s) {k : SlotNo} {f : Frame} {i : Nat}
    (e : s.takeOut k f = some (i, t)) : r.Goes cl t := by
  unfold State.takeOut at e
  split at e
  · cases e; exact h
  · dsimp only at e
    split at e
    · cases e
    · cases e
      refine State.modFrame_goes (State.ringWrite_goes ?_)
      exact State.modSlot_goes h

theorem State.claimOut_goes {cl : Bool} {r s : State} (h : r.Goes cl s) {k : SlotNo} {f : Frame} {o : FrameOutcome} {code : Nat} :
    r.Goes cl (State.claimOut s k f o code).2.2.2 := by
  unfold State.claimOut
  split
  · exact h
  · split
    · exact State.takeOut_goes h ‹_›
    · split
      · exact h
      · exact State.raise_goes h

theorem State.writeHeader_goes {cl : Bool} {r s : State} (h : r.Goes cl s) {k : SlotNo} {f : Frame} :
    r.Goes cl (State.writeHeader s k f) := by
  unfold State.writeHeader
  split
  · exact h
  · refine State.ringWrite_goes (State.modSlot_goes (State.modSlot_goes ?_))
    exact State.takeOut_goes h ‹_›

theorem State.noteRing_goes {cl : Bool} {r s : State} (h : r.Goes cl s) {k : SlotNo} :
    r.Goes cl (State.noteRing s k) := by
  unfold State.noteRing
  repeat' first
    | with_reducible assumption
    | intro _
    | (extract_lets +onlyGivenNames t; refine State.Goes.cut (cl := cl) (r := r) (t := t) ?_ fun ht => ?_; subst t; rotate_left; clear_value t)
    | extract_lets +onlyGivenNames _
    | with_reducible apply State.modSlot_goes
    | with_reducible apply State.raise_goes
    | split

theorem State.modEntry_goes {cl : Bool} {r s : State} (h : r.Goes cl s) {k : SlotNo} {i : Nat} {f : RingEntry → RingEntry} :
    r.Goes cl (State.modEntry s k i f) := by
  unfold State.modEntry
  repeat' first
    | with_reducible assumption
    | intro _
    | (extract_lets +onlyGivenNames t; refine State.Goes.cut (cl := cl) (r := r) (t := t) ?_ fun ht => ?_; subst t; rotate_left; clear_value t)
    | extract_lets +onlyGivenNames _
    | with_reducible apply State.modSlot_goes
    | with_reducible apply State.noteRing_goes
    | with_reducible apply State.ringWrite_goes
    | with_reducible refine State.Goes.snd ?_ (by with_reducible assumption)
    | with_reducible refine State.Goes.fst ?_ (by with_reducible assumption)
    | with_reducible refine State.Goes.thd ?_ (by with_reducible assumption)
    | split

theorem State.setHalf_goes {cl : Bool} {r s : State} (h : r.Goes cl s) {k : SlotNo} {body : Bytes} {desc : Nat} {one : Bool} {h0 : StateHeader} :
    r.Goes cl (State.setHalf s k body desc one h0) := by
  unfold State.setHalf
  repeat' first
    | with_reducible assumption
    | intro _
    | (extract_lets +onlyGivenNames t; refine State.Goes.cut (cl := cl) (r := r) (t := t) ?_ fun ht => ?_; subst t; rotate_left; clear_value t)
    | extract_lets +onlyGivenNames _
    | with_reducible apply State.modSlot_goes
    | with_reducible apply State.extWrite_goes

theorem State.commitState_goes {cl : Bool} {r s : State} (h : r.Goes cl s) {k : SlotNo} {f : Frame} :
    r.Goes cl (State.commitState s k f) := by
  unfold State.commitState
  repeat' first
    | with_reducible assumption
    | intro _
    | (extract_lets +onlyGivenNames t; refine State.Goes.cut (cl := cl) (r := r) (t := t) ?_ fun ht => ?_; subst t; rotate_left; clear_value t)
    | extract_lets +onlyGivenNames _
    | with_reducible apply State.each_goes
    | with_reducible apply State.setHalf_goes
    | with_reducible apply State.bump_goes
    | with_reducible apply State.raise_goes
    | split

theorem State.countWarming_goes {cl : Bool} {r s : State} (h : r.Goes cl s) {k : SlotNo} {f : Frame} :
    r.Goes cl (State.countWarming s k f) := by
  unfold State.countWarming
  repeat' first
    | with_reducible assumption
    | intro _
    | with_reducible apply State.setNum_goes
    | split

theorem State.countOutcome_goes {cl : Bool} {r s : State} (h : r.Goes cl s) {k : SlotNo} {f : Frame} :
    r.Goes cl (State.countOutcome s k f) := by
  unfold State.countOutcome
  repeat' first
    | with_reducible assumption
    | intro _
    | (extract_lets +onlyGivenNames t; refine State.Goes.cut (cl := cl) (r := r) (t := t) ?_ fun ht => ?_; subst t; rotate_left; clear_value t)
    | extract_lets +onlyGivenNames _
    | with_reducible apply State.setNum_goes
    | with_reducible apply State.bump_goes
    | with_reducible refine State.Goes.snd ?_ (by with_reducible assumption)
    | with_reducible refine State.Goes.fst ?_ (by with_reducible assumption)
    | with_reducible refine State.Goes.thd ?_ (by with_reducible assumption)
    | split

theorem State.retireFrame_goes {cl : Bool} {r s : State} (h : r.Goes cl s) {k : SlotNo} {f : Frame} :
    r.Goes cl (State.retireFrame s k f) := by
  unfold State.retireFrame
  repeat' first
    | with_reducible assumption
    | intro _
    | with_reducible apply State.each_goes
    | (extract_lets +onlyGivenNames t; refine State.Goes.cut (cl := cl) (r := r) (t := t) ?_ fun ht => ?_; subst t; rotate_left; clear_value t)
    | extract_lets +onlyGivenNames _
    | with_reducible apply State.modSlot_goes
    | with_reducible apply State.modEntry_goes
    | with_reducible refine State.Goes.snd ?_ (by with_reducible assumption)
    | with_reducible refine State.Goes.fst ?_ (by with_reducible assumption)
    | with_reducible refine State.Goes.thd ?_ (by with_reducible assumption)
    | split

theorem State.setFlow_goes {cl : Bool} {r s : State} (h : r.Goes cl s) {f : TxFlow} :
    r.Goes cl (State.setFlow s f) := by
  unfold State.setFlow
  repeat' first
    | with_reducible assumption
    | intro _
    | with_reducible apply State.modSys_goes

theorem State.enqueue_goes {cl : Bool} {r s : State} (h : r.Goes cl s) {dest : Nat} {chan : Nat} {u : Unsent} :
    r.Goes cl (State.enqueue s dest chan u) := by
  unfold State.enqueue
  repeat' first
    | with_reducible assumption
    | intro _
    | extract_lets +onlyGivenNames _
    | with_reducible apply State.setFlow_goes

theorem State.abandonCut_goes {cl : Bool} {r s : State} (h : r.Goes cl s) {k : SlotNo} {f : Frame} :
    r.Goes cl (State.abandonCut s k f) := by
  unfold State.abandonCut
  repeat' first
    | with_reducible assumption
    | intro _
    | with_reducible apply State.enqueue_goes
    | split

theorem State.flushReports_goes {cl : Bool} {r s : State} (h : r.Goes cl s) {k : SlotNo} :
    r.Goes cl (State.flushReports s k) := by
  unfold State.flushReports
  repeat' first
    | with_reducible assumption
    | intro _
    | (extract_lets +onlyGivenNames t; refine State.Goes.cut (cl := cl) (r := r) (t := t) ?_ fun ht => ?_; subst t; rotate_left; clear_value t)
    | extract_lets +onlyGivenNames _
    | with_reducible apply State.modSlot_goes
    | with_reducible apply State.each_goes
    | with_reducible apply State.writeHeader_goes
    | with_reducible refine State.Goes.snd ?_ (by with_reducible assumption)
    | with_reducible refine State.Goes.fst ?_ (by with_reducible assumption)
    | with_reducible refine State.Goes.thd ?_ (by with_reducible assumption)
    | apply State.Goes.foldl
    | apply State.Goes.foldlFst
    | apply State.Goes.foldlSnd
    | apply State.Goes.foldlThd
    | apply State.Goes.foldlFth
    | refine State.Goes.mapIsles ?_ (fun _ => rfl)
    | split
    | dsimp -zeta only
    | refine State.Goes.of (s := s) ?_ rfl rfl rfl rfl rfl rfl rfl rfl id (fun _ => id)

theorem State.reportFrame_goes {cl : Bool} {r s : State} (h : r.Goes cl s) {k : SlotNo} {f : Frame} :
    r.Goes cl (State.reportFrame s k f) := by
  unfold State.reportFrame
  repeat' first
    | with_reducible assumption
    | intro _
    | (extract_lets +onlyGivenNames t; refine State.Goes.cut (cl := cl) (r := r) (t := t) ?_ fun ht => ?_; subst t; rotate_left; clear_value t)
    | extract_lets +onlyGivenNames _
    | with_reducible apply State.modSlot_goes
    | with_reducible apply State.flushReports_goes
    | with_reducible refine State.Goes.snd ?_ (by with_reducible assumption)
    | with_reducible refine State.Goes.fst ?_ (by with_reducible assumption)
    | with_reducible refine State.Goes.thd ?_ (by with_reducible assumption)
    | apply State.Goes.foldl
    | apply State.Goes.foldlFst
    | apply State.Goes.foldlSnd
    | apply State.Goes.foldlThd
    | apply State.Goes.foldlFth
    | refine State.Goes.mapIsles ?_ (fun _ => rfl)
    | split
    | dsimp -zeta only
    | refine State.Goes.of (s := s) ?_ rfl rfl rfl rfl rfl rfl rfl rfl id (fun _ => id)

theorem State.endFrame_goes {cl : Bool} {r s : State} (h : r.Goes cl s) {k : SlotNo} {n : Nat} {o : FrameOutcome} {code : Nat} :
    r.Goes cl (State.endFrame s k n o code) := by
  unfold State.endFrame
  repeat' first
    | with_reducible assumption
    | intro _
    | with_reducible apply State.claimOut_goes
    | with_reducible apply State.reportFrame_goes
    | (extract_lets +onlyGivenNames t; refine State.Goes.cut (cl := cl) (r := r) (t := t) ?_ fun ht => ?_; subst t; rotate_left; clear_value t)
    | extract_lets +onlyGivenNames _
    | with_reducible apply State.closeCounter_goes
    | with_reducible apply State.stopWhere_goes
    | with_reducible apply State.dropUnstarted_goes
    | with_reducible apply State.modFrame_goes
    | with_reducible apply State.commitState_goes
    | with_reducible apply State.countWarming_goes
    | with_reducible apply State.setNum_goes
    | with_reducible apply State.writeHeader_goes
    | with_reducible apply State.countOutcome_goes
    | with_reducible apply State.retireFrame_goes
    | with_reducible apply State.abandonCut_goes
    | with_reducible refine State.Goes.snd ?_ (by with_reducible assumption)
    | with_reducible refine State.Goes.fst ?_ (by with_reducible assumption)
    | with_reducible refine State.Goes.thd ?_ (by with_reducible assumption)
    | apply State.Goes.foldl
    | apply State.Goes.foldlFst
    | apply State.Goes.foldlSnd
    | apply State.Goes.foldlThd
    | apply State.Goes.foldlFth
    | split

theorem State.endEntry_goes {cl : Bool} {r s : State} (h : r.Goes cl s) {k : SlotNo} {i : Nat} {o : FrameOutcome} {code : Nat} {overtaken : Bool} :
    r.Goes cl (State.endEntry s k i o code overtaken) := by
  unfold State.endEntry
  repeat' first
    | with_reducible assumption
    | intro _
    | with_reducible apply State.claimOut_goes
    | with_reducible apply State.reportFrame_goes
    | (extract_lets +onlyGivenNames t; refine State.Goes.cut (cl := cl) (r := r) (t := t) ?_ fun ht => ?_; subst t; rotate_left; clear_value t)
    | extract_lets +onlyGivenNames _
    | with_reducible apply State.raise_goes
    | with_reducible apply State.writeHeader_goes
    | with_reducible apply State.countOutcome_goes
    | with_reducible apply State.modSlot_goes
    | with_reducible apply State.modEntry_goes
    | with_reducible refine State.Goes.snd ?_ (by with_reducible assumption)
    | with_reducible refine State.Goes.fst ?_ (by with_reducible assumption)
    | with_reducible refine State.Goes.thd ?_ (by with_reducible assumption)
    | split

theorem State.lateEntry_goes {cl : Bool} {r s : State} (h : r.Goes cl s) {k : SlotNo} {i : Nat} {overtaken : Bool} :
    r.Goes cl (State.lateEntry s k i overtaken) := by
  unfold State.lateEntry
  repeat' first
    | with_reducible assumption
    | intro _
    | with_reducible apply State.endEntry_goes
    | split

theorem State.markShape_goes {cl : Bool} {r s : State} (h : r.Goes cl s) {k : SlotNo} {code : Nat} :
    r.Goes cl (State.markShape s k code) := by
  unfold State.markShape
  repeat' first
    | with_reducible assumption
    | intro _
    | with_reducible apply State.modSlot_goes

theorem State.failShape_goes {cl : Bool} {r s : State} (h : r.Goes cl s) {k : SlotNo} {n : Nat} {code : Nat} :
    r.Goes cl (State.failShape s k n code) := by
  unfold State.failShape
  repeat' first
    | with_reducible assumption
    | intro _
    | with_reducible apply State.markShape_goes
    | with_reducible apply State.modFrame_goes
    | with_reducible apply State.endFrame_goes

theorem State.openLayer_goes {cl : Bool} {r s : State} (h : r.Goes cl s) {k : SlotNo} {n : Nat} {img : PlanImage} {l : LayerPlan} :
    r.Goes cl (State.openLayer s k n img l) := by
  unfold State.openLayer
  repeat' first
    | with_reducible assumption
    | intro _
    | extract_lets +onlyGivenNames _
    | with_reducible apply State.modCounter_goes
    | with_reducible apply State.raise_goes
    | with_reducible apply State.failShape_goes
    | with_reducible refine State.Goes.snd ?_ (by with_reducible assumption)
    | with_reducible refine State.Goes.fst ?_ (by with_reducible assumption)
    | with_reducible refine State.Goes.thd ?_ (by with_reducible assumption)
    | split

theorem State.openGrids_goes {cl : Bool} {r s : State} (h : r.Goes cl s) {k : SlotNo} {n : Nat} :
    r.Goes cl (State.openGrids s k n) := by
  unfold State.openGrids
  repeat' first
    | with_reducible assumption
    | intro _
    | with_reducible apply State.each_goes
    | with_reducible apply State.openLayer_goes
    | with_reducible refine State.Goes.snd ?_ (by with_reducible assumption)
    | with_reducible refine State.Goes.fst ?_ (by with_reducible assumption)
    | with_reducible refine State.Goes.thd ?_ (by with_reducible assumption)
    | split

theorem State.renewStep_goes {cl : Bool} {r s : State} (h : r.Goes cl s) {k : SlotNo} {n : Nat} {step : Nat} :
    r.Goes cl (State.renewStep s k n step) := by
  unfold State.renewStep
  repeat' first
    | with_reducible assumption
    | intro _
    | (extract_lets +onlyGivenNames t; refine State.Goes.cut (cl := cl) (r := r) (t := t) ?_ fun ht => ?_; subst t; rotate_left; clear_value t)
    | extract_lets +onlyGivenNames _
    | with_reducible apply State.each_goes
    | with_reducible apply State.closeCounter_goes
    | with_reducible apply State.modCounter_goes
    | with_reducible refine State.Goes.snd ?_ (by with_reducible assumption)
    | with_reducible refine State.Goes.fst ?_ (by with_reducible assumption)
    | with_reducible refine State.Goes.thd ?_ (by with_reducible assumption)
    | split

theorem State.rerunStep_goes {cl : Bool} {r s : State} (h : r.Goes cl s) {k : SlotNo} {n : Nat} {step : Nat} :
    r.Goes cl (State.rerunStep s k n step) := by
  unfold State.rerunStep
  repeat' first
    | with_reducible assumption
    | intro _
    | (extract_lets +onlyGivenNames t; refine State.Goes.cut (cl := cl) (r := r) (t := t) ?_ fun ht => ?_; subst t; rotate_left; clear_value t)
    | extract_lets +onlyGivenNames _
    | with_reducible apply State.stopWhere_goes
    | with_reducible apply State.renewStep_goes
    | with_reducible apply State.modFrame_goes

theorem State.settleShape_goes {cl : Bool} {r s : State} (h : r.Goes cl s) {k : SlotNo} :
    r.Goes cl (State.settleShape s k) := by
  unfold State.settleShape
  repeat' first
    | with_reducible assumption
    | intro _
    | extract_lets +onlyGivenNames _
    | with_reducible apply State.modSlot_goes
    | with_reducible refine State.Goes.snd ?_ (by with_reducible assumption)
    | with_reducible refine State.Goes.fst ?_ (by with_reducible assumption)
    | with_reducible refine State.Goes.thd ?_ (by with_reducible assumption)
    | split

theorem State.fixLevel_goes {cl : Bool} {r s : State} (h : r.Goes cl s) {k : SlotNo} {n : Nat} {lv : Nat} :
    r.Goes cl (State.fixLevel s k n lv) := by
  unfold State.fixLevel
  repeat' first
    | with_reducible assumption
    | intro _
    | (extract_lets +onlyGivenNames t; refine State.Goes.cut (cl := cl) (r := r) (t := t) ?_ fun ht => ?_; subst t; rotate_left; clear_value t)
    | extract_lets +onlyGivenNames _
    | with_reducible apply State.modSlot_goes
    | with_reducible apply State.setNum_goes
    | with_reducible apply State.bump_goes
    | with_reducible apply State.raise_goes
    | with_reducible apply State.addReason_goes
    | with_reducible refine State.Goes.snd ?_ (by with_reducible assumption)
    | with_reducible refine State.Goes.fst ?_ (by with_reducible assumption)
    | with_reducible refine State.Goes.thd ?_ (by with_reducible assumption)
    | apply State.Goes.foldl
    | apply State.Goes.foldlFst
    | apply State.Goes.foldlSnd
    | apply State.Goes.foldlThd
    | apply State.Goes.foldlFth
    | refine State.Goes.mapIsles ?_ (fun _ => rfl)
    | split
    | dsimp -zeta only
    | refine State.Goes.of (s := s) ?_ rfl rfl rfl rfl rfl rfl rfl rfl id (fun _ => id)

theorem State.settleState_goes {cl : Bool} {r s : State} (h : r.Goes cl s) {k : SlotNo} {body : Bytes} {lv : Nat} {n : Nat} :
    r.Goes cl (State.settleState s k body lv n) := by
  unfold State.settleState
  repeat' first
    | with_reducible assumption
    | intro _
    | (extract_lets +onlyGivenNames t; refine State.Goes.cut (cl := cl) (r := r) (t := t) ?_ fun ht => ?_; subst t; rotate_left; clear_value t)
    | extract_lets +onlyGivenNames _
    | with_reducible apply State.invalidate_goes
    | with_reducible refine State.Goes.snd ?_ (by with_reducible assumption)
    | with_reducible refine State.Goes.fst ?_ (by with_reducible assumption)
    | with_reducible refine State.Goes.thd ?_ (by with_reducible assumption)
    | apply State.Goes.foldl
    | apply State.Goes.foldlFst
    | apply State.Goes.foldlSnd
    | apply State.Goes.foldlThd
    | apply State.Goes.foldlFth
    | refine State.Goes.mapIsles ?_ (fun _ => rfl)
    | split
    | dsimp -zeta only
    | refine State.Goes.of (s := s) ?_ rfl rfl rfl rfl rfl rfl rfl rfl id (fun _ => id)

theorem State.settleArgmax_goes {cl : Bool} {r s : State} (h : r.Goes cl s) {k : SlotNo} {n : Nat} :
    r.Goes cl (State.settleArgmax s k n) := by
  unfold State.settleArgmax
  repeat' first
    | with_reducible assumption
    | intro _
    | (extract_lets +onlyGivenNames t; refine State.Goes.cut (cl := cl) (r := r) (t := t) ?_ fun ht => ?_; subst t; rotate_left; clear_value t)
    | extract_lets +onlyGivenNames _
    | with_reducible apply State.modSlot_goes
    | with_reducible apply State.modFrame_goes
    | with_reducible apply State.raise_goes
    | split

theorem State.loseArgmax_goes {cl : Bool} {r s : State} (h : r.Goes cl s) {k : SlotNo} :
    r.Goes cl (State.loseArgmax s k) := by
  unfold State.loseArgmax
  repeat' first
    | with_reducible assumption
    | intro _
    | (extract_lets +onlyGivenNames t; refine State.Goes.cut (cl := cl) (r := r) (t := t) ?_ fun ht => ?_; subst t; rotate_left; clear_value t)
    | extract_lets +onlyGivenNames _
    | with_reducible apply State.each_goes
    | with_reducible apply State.settleArgmax_goes
    | with_reducible refine State.Goes.snd ?_ (by with_reducible assumption)
    | with_reducible refine State.Goes.fst ?_ (by with_reducible assumption)
    | with_reducible refine State.Goes.thd ?_ (by with_reducible assumption)
    | apply State.Goes.foldl
    | apply State.Goes.foldlFst
    | apply State.Goes.foldlSnd
    | apply State.Goes.foldlThd
    | apply State.Goes.foldlFth
    | refine State.Goes.mapIsles ?_ (fun _ => rfl)
    | split
    | dsimp -zeta only
    | refine State.Goes.of (s := s) ?_ rfl rfl rfl rfl rfl rfl rfl rfl id (fun _ => id)

theorem State.openHalves_goes {cl : Bool} {r s : State} (h : r.Goes cl s) {k : SlotNo} {body : Bytes} {hs : List HalfChoice} :
    r.Goes cl (State.openHalves s k body hs) := by
  unfold State.openHalves
  repeat' first
    | with_reducible assumption
    | intro _
    | with_reducible apply State.each_goes
    | with_reducible apply State.setHalf_goes

theorem State.runFrame_goes {cl : Bool} {r s : State} (h : r.Goes cl s) {k : SlotNo} {f : Frame} {img : PlanImage} :
    r.Goes cl (State.runFrame s k f img) := by
  unfold State.runFrame
  repeat' first
    | with_reducible assumption
    | intro _
    | (extract_lets +onlyGivenNames t; refine State.Goes.cut (cl := cl) (r := r) (t := t) ?_ fun ht => ?_; subst t; rotate_left; clear_value t)
    | extract_lets +onlyGivenNames _
    | with_reducible apply State.modSlot_goes
    | with_reducible apply State.bump_goes
    | with_reducible apply State.adaptResets_goes
    | with_reducible apply State.openGrids_goes
    | with_reducible apply State.fixLevel_goes
    | with_reducible apply State.settleState_goes
    | with_reducible apply State.settleArgmax_goes
    | with_reducible apply State.openHalves_goes
    | with_reducible refine State.Goes.snd ?_ (by with_reducible assumption)
    | with_reducible refine State.Goes.fst ?_ (by with_reducible assumption)
    | with_reducible refine State.Goes.thd ?_ (by with_reducible assumption)
    | apply State.Goes.foldl
    | apply State.Goes.foldlFst
    | apply State.Goes.foldlSnd
    | apply State.Goes.foldlThd
    | apply State.Goes.foldlFth
    | refine State.Goes.mapIsles ?_ (fun _ => rfl)
    | split
    | dsimp -zeta only
    | refine State.Goes.of (s := s) ?_ rfl rfl rfl rfl rfl rfl rfl rfl id (fun _ => id)

theorem State.startFrame_goes {cl : Bool} {r s : State} (h : r.Goes cl s) {k : SlotNo} {f : Frame} :
    r.Goes cl (State.startFrame s k f) := by
  unfold State.startFrame
  repeat' first
    | with_reducible assumption
    | intro _
    | with_reducible apply State.invalidate_goes
    | with_reducible apply State.openGrids_goes
    | (extract_lets +onlyGivenNames t; refine State.Goes.cut (cl := cl) (r := r) (t := t) ?_ fun ht => ?_; subst t; rotate_left; clear_value t)
    | extract_lets +onlyGivenNames _
    | with_reducible apply State.settleShape_goes
    | with_reducible apply State.modSlot_goes
    | with_reducible apply State.raise_goes
    | with_reducible apply State.endFrame_goes
    | with_reducible apply State.runFrame_goes
    | with_reducible refine State.Goes.snd ?_ (by with_reducible assumption)
    | with_reducible refine State.Goes.fst ?_ (by with_reducible assumption)
    | with_reducible refine State.Goes.thd ?_ (by with_reducible assumption)
    | split

theorem State.takeFrame_goes {cl : Bool} {r s : State} (h : r.Goes cl s) {k : SlotNo} {cutoff : Nat} :
    r.Goes cl (State.takeFrame s k cutoff) := by
  unfold State.takeFrame
  repeat' first
    | with_reducible assumption
    | intro _
    | with_reducible apply State.noteFirstUse_goes
    | (extract_lets +onlyGivenNames t; refine State.Goes.cut (cl := cl) (r := r) (t := t) ?_ fun ht => ?_; subst t; rotate_left; clear_value t)
    | extract_lets +onlyGivenNames _
    | with_reducible apply State.each_goes
    | with_reducible apply State.lateEntry_goes
    | with_reducible apply State.commitSlot_goes
    | with_reducible apply State.modEntry_goes
    | with_reducible apply State.addReason_goes
    | with_reducible apply State.startFrame_goes
    | with_reducible refine State.Goes.snd ?_ (by with_reducible assumption)
    | with_reducible refine State.Goes.fst ?_ (by with_reducible assumption)
    | with_reducible refine State.Goes.thd ?_ (by with_reducible assumption)
    | split

theorem State.beginCut_goes {cl : Bool} {r s : State} (h : r.Goes cl s) {k : SlotNo} {b : Bytes} :
    r.Goes cl (State.beginCut s k b) := by
  unfold State.beginCut
  repeat' first
    | with_reducible assumption
    | intro _
    | with_reducible apply State.noteFirstUse_goes
    | with_reducible apply State.endFrame_goes
    | extract_lets +onlyGivenNames _
    | with_reducible apply State.modSlot_goes
    | with_reducible apply State.commitSlot_goes
    | with_reducible apply State.startFrame_goes
    | split

theorem State.takeSegment_goes {cl : Bool} {r s : State} (h : r.Goes cl s) {k : SlotNo} {b : Bytes} :
    r.Goes cl (State.takeSegment s k b) := by
  unfold State.takeSegment
  repeat' first
    | with_reducible assumption
    | intro _
    | (extract_lets +onlyGivenNames t; refine State.Goes.cut (cl := cl) (r := r) (t := t) ?_ fun ht => ?_; subst t; rotate_left; clear_value t)
    | extract_lets +onlyGivenNames _
    | with_reducible apply State.modFrame_goes
    | with_reducible refine State.Goes.snd ?_ (by with_reducible assumption)
    | with_reducible refine State.Goes.fst ?_ (by with_reducible assumption)
    | with_reducible refine State.Goes.thd ?_ (by with_reducible assumption)
    | apply State.Goes.foldl
    | apply State.Goes.foldlFst
    | apply State.Goes.foldlSnd
    | apply State.Goes.foldlThd
    | apply State.Goes.foldlFth
    | refine State.Goes.mapIsles ?_ (fun _ => rfl)
    | split
    | dsimp -zeta only
    | refine State.Goes.of (s := s) ?_ rfl rfl rfl rfl rfl rfl rfl rfl id (fun _ => id)

theorem State.abandonOutcome_goes {cl : Bool} {r s : State} (h : r.Goes cl s) {b : Bytes} :
    r.Goes cl (State.abandonOutcome s b).2.2 := by
  unfold State.abandonOutcome
  repeat' first
    | with_reducible assumption
    | intro _
    | (extract_lets +onlyGivenNames t; refine State.Goes.cut (cl := cl) (r := r) (t := t) ?_ fun ht => ?_; subst t; rotate_left; clear_value t)
    | extract_lets +onlyGivenNames _
    | with_reducible apply State.draw_goes
    | with_reducible refine State.Goes.snd ?_ (by with_reducible assumption)
    | with_reducible refine State.Goes.fst ?_ (by with_reducible assumption)
    | with_reducible refine State.Goes.thd ?_ (by with_reducible assumption)
    | apply State.Goes.foldl
    | apply State.Goes.foldlFst
    | apply State.Goes.foldlSnd
    | apply State.Goes.foldlThd
    | apply State.Goes.foldlFth
    | refine State.Goes.mapIsles ?_ (fun _ => rfl)
    | split
    | dsimp -zeta only
    | refine State.Goes.of (s := s) ?_ rfl rfl rfl rfl rfl rfl rfl rfl id (fun _ => id)

theorem State.startWaiting_goes {cl : Bool} {r s : State} (h : r.Goes cl s) {k : SlotNo} :
    r.Goes cl (State.startWaiting s k) := by
  unfold State.startWaiting
  repeat' first
    | with_reducible assumption
    | intro _
    | (extract_lets +onlyGivenNames t; refine State.Goes.cut (cl := cl) (r := r) (t := t) ?_ fun ht => ?_; subst t; rotate_left; clear_value t)
    | extract_lets +onlyGivenNames _
    | with_reducible apply State.modSlot_goes
    | with_reducible apply State.each_goes
    | with_reducible apply State.endFrame_goes
    | with_reducible apply State.beginCut_goes
    | with_reducible apply State.takeSegment_goes
    | with_reducible apply State.abandonOutcome_goes
    | with_reducible refine State.Goes.snd ?_ (by with_reducible assumption)
    | with_reducible refine State.Goes.fst ?_ (by with_reducible assumption)
    | with_reducible refine State.Goes.thd ?_ (by with_reducible assumption)
    | apply State.Goes.foldl
    | apply State.Goes.foldlFst
    | apply State.Goes.foldlSnd
    | apply State.Goes.foldlThd
    | apply State.Goes.foldlFth
    | refine State.Goes.mapIsles ?_ (fun _ => rfl)
    | split
    | dsimp -zeta only
    | refine State.Goes.of (s := s) ?_ rfl rfl rfl rfl rfl rfl rfl rfl id (fun _ => id)

theorem State.afterBorrow_goes {cl : Bool} {r s : State} (h : r.Goes cl s) {k : SlotNo} :
    r.Goes cl (State.afterBorrow s k) := by
  unfold State.afterBorrow
  repeat' first
    | with_reducible assumption
    | intro _
    | (extract_lets +onlyGivenNames t; refine State.Goes.cut (cl := cl) (r := r) (t := t) ?_ fun ht => ?_; subst t; rotate_left; clear_value t)
    | extract_lets +onlyGivenNames _
    | with_reducible apply State.commitSlot_goes
    | with_reducible apply State.takeFrame_goes
    | with_reducible apply State.startWaiting_goes
    | with_reducible refine State.Goes.snd ?_ (by with_reducible assumption)
    | with_reducible refine State.Goes.fst ?_ (by with_reducible assumption)
    | with_reducible refine State.Goes.thd ?_ (by with_reducible assumption)
    | apply State.Goes.foldl
    | apply State.Goes.foldlFst
    | apply State.Goes.foldlSnd
    | apply State.Goes.foldlThd
    | apply State.Goes.foldlFth
    | refine State.Goes.mapIsles ?_ (fun _ => rfl)
    | split
    | dsimp -zeta only
    | refine State.Goes.of (s := s) ?_ rfl rfl rfl rfl rfl rfl rfl rfl id (fun _ => id)

theorem State.finishFrame_goes {cl : Bool} {r s : State} (h : r.Goes cl s) {k : SlotNo} {n : Nat} {o : FrameOutcome} {code : Nat} :
    r.Goes cl (State.finishFrame s k n o code) := by
  unfold State.finishFrame
  repeat' first
    | with_reducible assumption
    | intro _
    | (extract_lets +onlyGivenNames t; refine State.Goes.cut (cl := cl) (r := r) (t := t) ?_ fun ht => ?_; subst t; rotate_left; clear_value t)
    | extract_lets +onlyGivenNames _
    | with_reducible apply State.endFrame_goes
    | with_reducible apply State.afterBorrow_goes
    | with_reducible refine State.Goes.snd ?_ (by with_reducible assumption)
    | with_reducible refine State.Goes.fst ?_ (by with_reducible assumption)
    | with_reducible refine State.Goes.thd ?_ (by with_reducible assumption)
    | split

theorem State.failServed_goes {cl : Bool} {r s : State} (h : r.Goes cl s) {v : Serves} {code : Nat} :
    r.Goes cl (State.failServed s v code) := by
  unfold State.failServed
  repeat' first
    | with_reducible assumption
    | intro _
    | with_reducible apply State.finishFrame_goes
    | with_reducible apply State.abandonStep_goes
    | with_reducible refine State.Goes.snd ?_ (by with_reducible assumption)
    | with_reducible refine State.Goes.fst ?_ (by with_reducible assumption)
    | with_reducible refine State.Goes.thd ?_ (by with_reducible assumption)
    | split

theorem State.haltOp_goes {cl : Bool} {r s : State} (h : r.Goes cl s) {k : IsleNo} {c : CtxNo} {code : Nat} {v : Serves} {op : Nat} :
    r.Goes cl (State.haltOp s k c code v op) := by
  unfold State.haltOp
  repeat' first
    | with_reducible assumption
    | intro _
    | (extract_lets +onlyGivenNames t; refine State.Goes.cut (cl := cl) (r := r) (t := t) ?_ fun ht => ?_; subst t; rotate_left; clear_value t)
    | extract_lets +onlyGivenNames _
    | with_reducible apply State.modCtx_goes
    | with_reducible apply State.withdraw_goes
    | with_reducible apply State.failServed_goes
    | with_reducible refine State.Goes.snd ?_ (by with_reducible assumption)
    | with_reducible refine State.Goes.fst ?_ (by with_reducible assumption)
    | with_reducible refine State.Goes.thd ?_ (by with_reducible assumption)
    | apply State.Goes.foldl
    | apply State.Goes.foldlFst
    | apply State.Goes.foldlSnd
    | apply State.Goes.foldlThd
    | apply State.Goes.foldlFth
    | refine State.Goes.mapIsles ?_ (fun _ => rfl)
    | split
    | dsimp -zeta only
    | refine State.Goes.of (s := s) ?_ rfl rfl rfl rfl rfl rfl rfl rfl id (fun _ => id)

theorem State.haltCtx_goes {cl : Bool} {r s : State} (h : r.Goes cl s) {k : IsleNo} {c : CtxNo} {code : Nat} :
    r.Goes cl (State.haltCtx s k c code) := by
  unfold State.haltCtx
  repeat' first
    | with_reducible assumption
    | intro _
    | with_reducible apply State.haltOp_goes
    | (extract_lets +onlyGivenNames t; refine State.Goes.cut (cl := cl) (r := r) (t := t) ?_ fun ht => ?_; subst t; rotate_left; clear_value t)
    | extract_lets +onlyGivenNames _
    | with_reducible apply State.modCtx_goes
    | with_reducible apply State.withdraw_goes
    | with_reducible apply State.failServed_goes

theorem State.noteOverrun_goes {cl : Bool} {r s : State} (h : r.Goes cl s) {v : Serves} {block : Option TileBlock} {code : Nat} :
    r.Goes cl (State.noteOverrun s v block code) := by
  unfold State.noteOverrun
  repeat' first
    | with_reducible assumption
    | intro _
    | (extract_lets +onlyGivenNames t; refine State.Goes.cut (cl := cl) (r := r) (t := t) ?_ fun ht => ?_; subst t; rotate_left; clear_value t)
    | extract_lets +onlyGivenNames _
    | with_reducible apply State.modFrame_goes
    | with_reducible apply State.markShape_goes
    | with_reducible refine State.Goes.snd ?_ (by with_reducible assumption)
    | with_reducible refine State.Goes.fst ?_ (by with_reducible assumption)
    | with_reducible refine State.Goes.thd ?_ (by with_reducible assumption)
    | apply State.Goes.foldl
    | apply State.Goes.foldlFst
    | apply State.Goes.foldlSnd
    | apply State.Goes.foldlThd
    | apply State.Goes.foldlFth
    | refine State.Goes.mapIsles ?_ (fun _ => rfl)
    | split
    | dsimp -zeta only
    | refine State.Goes.of (s := s) ?_ rfl rfl rfl rfl rfl rfl rfl rfl id (fun _ => id)

theorem State.faultCtx_goes {cl : Bool} {r s : State} (h : r.Goes cl s) {k : IsleNo} {c : CtxNo} {code : Nat} :
    r.Goes cl (State.faultCtx s k c code) := by
  unfold State.faultCtx
  repeat' first
    | with_reducible assumption
    | intro _
    | (extract_lets +onlyGivenNames t; refine State.Goes.cut (cl := cl) (r := r) (t := t) ?_ fun ht => ?_; subst t; rotate_left; clear_value t)
    | extract_lets +onlyGivenNames _
    | with_reducible apply State.raise_goes
    | with_reducible apply State.haltCtx_goes
    | with_reducible apply State.noteOverrun_goes
    | with_reducible refine State.Goes.snd ?_ (by with_reducible assumption)
    | with_reducible refine State.Goes.fst ?_ (by with_reducible assumption)
    | with_reducible refine State.Goes.thd ?_ (by with_reducible assumption)
    | apply State.Goes.foldl
    | apply State.Goes.foldlFst
    | apply State.Goes.foldlSnd
    | apply State.Goes.foldlThd
    | apply State.Goes.foldlFth
    | refine State.Goes.mapIsles ?_ (fun _ => rfl)
    | split
    | dsimp -zeta only
    | refine State.Goes.of (s := s) ?_ rfl rfl rfl rfl rfl rfl rfl rfl id (fun _ => id)

/-! ### Od -/

theorem State.withPending_goes {cl : Bool} {r s : State} (h : r.Goes cl s) {i : Nat} {sub : Nat} {v : OdVal} :
    r.Goes cl (State.withPending s i sub v) := by
  unfold State.withPending
  repeat' first
    | with_reducible assumption
    | intro _
    | split
    | dsimp -zeta only
    | refine State.Goes.of (s := s) ?_ rfl rfl rfl rfl rfl rfl rfl rfl id (fun _ => id)

theorem State.modReq_goes {cl : Bool} {r s : State} (h : r.Goes cl s) {q : Requester} {f : RequesterState → RequesterState} :
    r.Goes cl (State.modReq s q f) := by
  unfold State.modReq
  repeat' first
    | with_reducible assumption
    | intro _
    | split
    | dsimp -zeta only
    | refine State.Goes.of (s := s) ?_ rfl rfl rfl rfl rfl rfl rfl rfl id (fun _ => id)

theorem State.answerTo_goes {cl : Bool} {r s : State} (h : r.Goes cl s) {q : Requester} {code : Nat} :
    r.Goes cl (State.answerTo s q code) := by
  unfold State.answerTo
  repeat' first
    | with_reducible assumption
    | intro _
    | with_reducible apply State.modReq_goes

theorem State.freeDomains_goes {cl : Bool} {r s : State} (h : r.Goes cl s) {q : Requester} :
    r.Goes cl (State.freeDomains s q) := by
  unfold State.freeDomains
  repeat' first
    | with_reducible assumption
    | intro _
    | split
    | dsimp -zeta only
    | refine State.Goes.of (s := s) ?_ rfl rfl rfl rfl rfl rfl rfl rfl id (fun _ => id)

theorem State.expireLease_goes {cl : Bool} {r s : State} (h : r.Goes cl s) {q : Requester} :
    r.Goes cl (State.expireLease s q) := by
  unfold State.expireLease
  repeat' first
    | with_reducible assumption
    | intro _
    | with_reducible apply State.freeDomains_goes
    | with_reducible apply State.bump_goes
    | with_reducible apply State.raise_goes

theorem State.expireBefore_goes {cl : Bool} {r s : State} (h : r.Goes cl s) {t : Nat} :
    r.Goes cl (State.expireBefore s t) := by
  unfold State.expireBefore
  repeat' first
    | with_reducible assumption
    | intro _
    | with_reducible apply State.each_goes
    | with_reducible apply State.expireLease_goes
    | split

theorem State.mergeLate_goes {cl : Bool} {r s : State} (h : r.Goes cl s) :
    r.Goes cl (State.mergeLate s) := by
  unfold State.mergeLate
  repeat' first
    | with_reducible assumption
    | intro _
    | (extract_lets +onlyGivenNames t; refine State.Goes.cut (cl := cl) (r := r) (t := t) ?_ fun ht => ?_; subst t; rotate_left; clear_value t)
    | extract_lets +onlyGivenNames _
    | with_reducible refine State.Goes.snd ?_ (by with_reducible assumption)
    | with_reducible refine State.Goes.fst ?_ (by with_reducible assumption)
    | with_reducible refine State.Goes.thd ?_ (by with_reducible assumption)
    | apply State.Goes.foldl
    | apply State.Goes.foldlFst
    | apply State.Goes.foldlSnd
    | apply State.Goes.foldlThd
    | apply State.Goes.foldlFth
    | refine State.Goes.mapIsles ?_ (fun _ => rfl)
    | split
    | dsimp -zeta only
    | refine State.Goes.of (s := s) ?_ rfl rfl rfl rfl rfl rfl rfl rfl id (fun _ => id)

theorem State.settleLate_goes {cl : Bool} {r s : State} (h : r.Goes cl s) :
    r.Goes cl (State.settleLate s) := by
  unfold State.settleLate
  repeat' first
    | with_reducible assumption
    | intro _
    | (extract_lets +onlyGivenNames t; refine State.Goes.cut (cl := cl) (r := r) (t := t) ?_ fun ht => ?_; subst t; rotate_left; clear_value t)
    | extract_lets +onlyGivenNames _
    | with_reducible apply State.mergeLate_goes
    | with_reducible refine State.Goes.snd ?_ (by with_reducible assumption)
    | with_reducible refine State.Goes.fst ?_ (by with_reducible assumption)
    | with_reducible refine State.Goes.thd ?_ (by with_reducible assumption)
    | apply State.Goes.foldl
    | apply State.Goes.foldlFst
    | apply State.Goes.foldlSnd
    | apply State.Goes.foldlThd
    | apply State.Goes.foldlFth
    | refine State.Goes.mapIsles ?_ (fun _ => rfl)
    | split
    | dsimp -zeta only
    | refine State.Goes.of (s := s) ?_ rfl rfl rfl rfl rfl rfl rfl rfl id (fun _ => id)

theorem State.storeEntry_goes {cl : Bool} {r s : State} (h : r.Goes cl s) {i : Nat} {sub : Nat} {v : OdVal} :
    r.Goes cl (State.storeEntry s i sub v) := by
  have hl := State.settleLate_goes h
  unfold State.storeEntry
  repeat' first
    | with_reducible assumption
    | extract_lets +onlyGivenNames _
    | with_reducible apply State.setEntry_goes
    | split
    | exact State.Goes.of hl rfl rfl rfl rfl rfl rfl rfl rfl id (fun _ => id)
    | exact State.Goes.of h rfl rfl rfl rfl rfl rfl rfl rfl id (fun _ => id)

theorem always_goes {cl : Bool} {r s : State} (h : r.Goes cl s) {f : Write → OdVal → State → State} {w : Write} {v : OdVal} (hf : ∀ a0 a1 t, r.Goes cl t → r.Goes cl (f a0 a1 t)) :
    r.Goes cl (always f w v s).2 := by
  unfold always
  repeat' first
    | with_reducible assumption
    | intro _
    | with_reducible apply hf

theorem storeAct_goes {cl : Bool} {r s : State} (h : r.Goes cl s) {i : Nat} {sub : Nat} {w : Write} {v : OdVal} :
    r.Goes cl (storeAct i sub w v s).2 := by
  unfold storeAct
  repeat' first
    | with_reducible assumption
    | intro _
    | with_reducible apply always_goes
    | with_reducible apply State.storeEntry_goes

theorem guarded_goes {cl : Bool} {r s : State} (h : r.Goes cl s) {ok : Write → OdVal → State → Bool} {a : Act} {w : Write} {v : OdVal} (ha : ∀ w v t, r.Goes cl t → r.Goes cl (a w v t).2) :
    r.Goes cl (guarded ok a w v s).2 := by
  unfold guarded
  repeat' first
    | with_reducible assumption
    | intro _
    | with_reducible apply ha
    | split

theorem State.hold_goes {cl : Bool} {r s : State} (h : r.Goes cl s) {h0 : HeldRequest} :
    r.Goes cl (State.hold s h0) := by
  unfold State.hold
  repeat' first
    | with_reducible assumption
    | intro _
    | (extract_lets +onlyGivenNames t; refine State.Goes.cut (cl := cl) (r := r) (t := t) ?_ fun ht => ?_; subst t; rotate_left; clear_value t)
    | extract_lets +onlyGivenNames _
    | with_reducible refine State.Goes.snd ?_ (by with_reducible assumption)
    | with_reducible refine State.Goes.fst ?_ (by with_reducible assumption)
    | with_reducible refine State.Goes.thd ?_ (by with_reducible assumption)
    | apply State.Goes.foldl
    | apply State.Goes.foldlFst
    | apply State.Goes.foldlSnd
    | apply State.Goes.foldlThd
    | apply State.Goes.foldlFth
    | refine State.Goes.mapIsles ?_ (fun _ => rfl)
    | split
    | dsimp -zeta only
    | refine State.Goes.of (s := s) ?_ rfl rfl rfl rfl rfl rfl rfl rfl id (fun _ => id)

theorem State.odRun_goes {cl : Bool} {r s : State} (h : r.Goes cl s) {w : Write} {i : Nat} {sub : Nat} {bs : Bytes} {act : Act}
    (hact : ∀ w v t, r.Goes cl t → r.Goes cl (act w v t).2) {card : Option Bytes} :
    r.Goes cl (State.odRun s w i sub bs act card) := by
  unfold State.odRun
  split
  · exact h
  · split
    · exact State.hold_goes (State.atCycle_goes h)
    · dsimp only
      split
      · exact State.answerTo_goes (State.expireBefore_goes (State.atCycle_goes h))
      · exact State.answerTo_goes (hact _ _ _ (State.expireBefore_goes (State.atCycle_goes h)))

/-! ### FenceCore -/

theorem State.secondFault_goes {cl : Bool} {r s : State} (h : r.Goes cl s) {k : IsleNo} :
    r.Goes cl (State.secondFault s k) := by
  unfold State.secondFault
  repeat' first
    | with_reducible assumption
    | intro _
    | with_reducible apply State.bump_goes
    | with_reducible apply State.raise_goes
    | split
    | dsimp -zeta only
    | refine State.Goes.of (s := s) ?_ rfl rfl rfl rfl rfl rfl rfl rfl id (fun _ => id)

theorem State.maskIsle_goes {cl : Bool} {r s : State} (h : r.Goes cl s) {k : IsleNo} {on : Bool} {p : CounterNo → Bool} :
    r.Goes cl (State.maskIsle s k on p) := by
  unfold State.maskIsle
  repeat' first
    | with_reducible assumption
    | intro _
    | with_reducible apply State.each_goes
    | with_reducible apply State.modCounter_goes

theorem State.resetIsle_goes {cl : Bool} {r s : State} (h : r.Goes cl s) {k : IsleNo} :
    r.Goes cl (State.resetIsle s k) := by
  unfold State.resetIsle
  repeat' first
    | with_reducible assumption
    | intro _
    | with_reducible apply State.modIsle_goes

theorem State.rerunLayer_goes {cl : Bool} {r s : State} (h : r.Goes cl s) {n : CounterNo} :
    r.Goes cl (State.rerunLayer s n) := by
  unfold State.rerunLayer
  repeat' first
    | with_reducible assumption
    | intro _
    | with_reducible apply State.rerunStep_goes
    | with_reducible refine State.Goes.snd ?_ (by with_reducible assumption)
    | with_reducible refine State.Goes.fst ?_ (by with_reducible assumption)
    | with_reducible refine State.Goes.thd ?_ (by with_reducible assumption)
    | split

theorem State.returnTiles_goes {cl : Bool} {r s : State} (h : r.Goes cl s) {k : IsleNo} {n : CounterNo} :
    r.Goes cl (State.returnTiles s k n) := by
  unfold State.returnTiles
  repeat' first
    | with_reducible assumption
    | intro _
    | extract_lets +onlyGivenNames _
    | with_reducible apply State.modCounter_goes
    | with_reducible apply State.rerunLayer_goes
    | with_reducible refine State.Goes.snd ?_ (by with_reducible assumption)
    | with_reducible refine State.Goes.fst ?_ (by with_reducible assumption)
    | with_reducible refine State.Goes.thd ?_ (by with_reducible assumption)
    | apply State.Goes.foldl
    | apply State.Goes.foldlFst
    | apply State.Goes.foldlSnd
    | apply State.Goes.foldlThd
    | apply State.Goes.foldlFth
    | split
    | dsimp -zeta only
    | (clear_value *; split)

theorem State.restepLinked_goes {cl : Bool} {r s : State} (h : r.Goes cl s) {k : IsleNo} :
    r.Goes cl (State.restepLinked s k) := by
  unfold State.restepLinked
  repeat' first
    | with_reducible assumption
    | intro _
    | extract_lets +onlyGivenNames _
    | with_reducible apply State.each_goes
    | with_reducible apply State.stopCtx_goes
    | with_reducible apply State.rerunStep_goes
    | with_reducible refine State.Goes.snd ?_ (by with_reducible assumption)
    | with_reducible refine State.Goes.fst ?_ (by with_reducible assumption)
    | with_reducible refine State.Goes.thd ?_ (by with_reducible assumption)
    | split
    | dsimp -zeta only
    | (clear_value *; split)

theorem State.startFence_goes {cl : Bool} {r s : State} (h : r.Goes cl s) {k : IsleNo} {reason : Nat} :
    r.Goes cl (State.startFence s k reason) := by
  unfold State.startFence
  repeat' first
    | with_reducible assumption
    | intro _
    | (extract_lets +onlyGivenNames t; refine State.Goes.cut (cl := cl) (r := r) (t := t) ?_ fun ht => ?_; subst t; rotate_left; clear_value t)
    | extract_lets +onlyGivenNames _
    | with_reducible apply State.secondFault_goes
    | with_reducible apply State.modIsle_goes
    | with_reducible apply State.setNum_goes
    | with_reducible apply State.raise_goes
    | with_reducible apply State.maskIsle_goes
    | with_reducible apply State.abandonWhere_goes
    | with_reducible apply State.each_goes
    | with_reducible apply State.stopCtx_goes
    | with_reducible apply State.abortChan_goes
    | with_reducible apply State.returnTiles_goes
    | with_reducible apply State.restepLinked_goes
    | with_reducible apply State.resetIsle_goes
    | with_reducible apply State.settleError_goes
    | exact ‹Scratchpad.Canonical _›
    | split

theorem State.trigger_goes {cl : Bool} {r s : State} (h : r.Goes cl s) {k : IsleNo} {reason : Nat} :
    r.Goes cl (State.trigger s k reason) := by
  unfold State.trigger
  repeat' first
    | with_reducible assumption
    | intro _
    | with_reducible apply State.startFence_goes
    | with_reducible apply State.modIsle_goes
    | with_reducible apply State.raise_goes
    | with_reducible apply State.settleError_goes
    | with_reducible refine State.Goes.snd ?_ (by with_reducible assumption)
    | with_reducible refine State.Goes.fst ?_ (by with_reducible assumption)
    | with_reducible refine State.Goes.thd ?_ (by with_reducible assumption)
    | exact ‹Scratchpad.Canonical _›
    | split

theorem State.noteUncorrectable_goes {cl : Bool} {r s : State} (h : r.Goes cl s) {k : IsleNo} {row : Nat} {c : Concern} :
    r.Goes cl (State.noteUncorrectable s k row c) := by
  unfold State.noteUncorrectable
  repeat' first
    | with_reducible assumption
    | intro _
    | (extract_lets +onlyGivenNames t; refine State.Goes.cut (cl := cl) (r := r) (t := t) ?_ fun ht => ?_; subst t; rotate_left; clear_value t)
    | extract_lets +onlyGivenNames _
    | with_reducible apply State.raise_goes
    | with_reducible apply State.secondFault_goes
    | with_reducible apply State.trigger_goes
    | with_reducible apply State.modIsle_goes
    | with_reducible apply State.maskIsle_goes
    | exact ‹Scratchpad.Canonical _›
    | split

theorem State.noteCorrected_goes {cl : Bool} {r s : State} (h : r.Goes cl s) {k : IsleNo} :
    r.Goes cl (State.noteCorrected s k) := by
  unfold State.noteCorrected
  repeat' first
    | with_reducible assumption
    | intro _
    | (extract_lets +onlyGivenNames t; refine State.Goes.cut (cl := cl) (r := r) (t := t) ?_ fun ht => ?_; subst t; rotate_left; clear_value t)
    | extract_lets +onlyGivenNames _
    | with_reducible apply State.modCnt_goes
    | with_reducible apply State.raiseOnce_goes
    | with_reducible apply State.modIsle_goes
    | with_reducible apply State.trigger_goes
    | exact ‹Scratchpad.Canonical _›
    | split

theorem State.noteParity_goes {cl : Bool} {r s : State} (h : r.Goes cl s) {k : IsleNo} {fail : Bool} :
    r.Goes cl (State.noteParity s k fail) := by
  unfold State.noteParity
  repeat' first
    | with_reducible assumption
    | intro _
    | (extract_lets +onlyGivenNames t; refine State.Goes.cut (cl := cl) (r := r) (t := t) ?_ fun ht => ?_; subst t; rotate_left; clear_value t)
    | extract_lets +onlyGivenNames _
    | with_reducible apply State.secondFault_goes
    | with_reducible apply State.modIsle_goes
    | with_reducible apply State.trigger_goes
    | exact ‹Scratchpad.Canonical _›
    | split

theorem State.noteOpParity_goes {cl : Bool} {r s : State} (h : r.Goes cl s) {k : IsleNo} :
    r.Goes cl (State.noteOpParity s k) := by
  unfold State.noteOpParity
  repeat' first
    | with_reducible assumption
    | intro _
    | (extract_lets +onlyGivenNames t; refine State.Goes.cut (cl := cl) (r := r) (t := t) ?_ fun ht => ?_; subst t; rotate_left; clear_value t)
    | extract_lets +onlyGivenNames _
    | with_reducible apply State.modIsle_goes
    | with_reducible apply State.trigger_goes
    | exact ‹Scratchpad.Canonical _›
    | split

/-! ### RingCore -/

theorem State.noteClose_goes {cl : Bool} {r s : State} (h : r.Goes cl s) {k : SlotNo} {n : Nat} {st : Word32} :
    r.Goes cl (State.noteClose s k n st) := by
  unfold State.noteClose
  repeat' first
    | with_reducible assumption
    | intro _
    | (extract_lets +onlyGivenNames t; refine State.Goes.cut (cl := cl) (r := r) (t := t) ?_ fun ht => ?_; subst t; rotate_left; clear_value t)
    | extract_lets +onlyGivenNames _
    | with_reducible apply State.setNum_goes
    | with_reducible apply State.bump_goes
    | with_reducible apply State.raise_goes
    | split

theorem State.closeEntry_goes {cl : Bool} {r s : State} (h : r.Goes cl s) {k : SlotNo} {i : Nat} {reason : Nat} {t : Nat} :
    r.Goes cl (State.closeEntry s k i reason t) := by
  unfold State.closeEntry
  repeat' first
    | with_reducible assumption
    | intro _
    | (extract_lets +onlyGivenNames t; refine State.Goes.cut (cl := cl) (r := r) (t := t) ?_ fun ht => ?_; subst t; rotate_left; clear_value t)
    | extract_lets +onlyGivenNames _
    | with_reducible apply State.modEntry_goes
    | with_reducible apply State.raise_goes
    | with_reducible apply State.noteClose_goes
    | with_reducible refine State.Goes.snd ?_ (by with_reducible assumption)
    | with_reducible refine State.Goes.fst ?_ (by with_reducible assumption)
    | with_reducible refine State.Goes.thd ?_ (by with_reducible assumption)
    | split

theorem State.forgetStream_goes {cl : Bool} {r s : State} (h : r.Goes cl s) {k : SlotNo} :
    r.Goes cl (State.forgetStream s k) := by
  unfold State.forgetStream
  repeat' first
    | with_reducible assumption
    | intro _
    | with_reducible apply State.modSlot_goes

theorem State.settleRing_goes {cl : Bool} {r s : State} (h : r.Goes cl s) {k : SlotNo} {t : Nat} :
    r.Goes cl (State.settleRing s k t) := by
  unfold State.settleRing
  repeat' first
    | with_reducible assumption
    | intro _
    | (extract_lets +onlyGivenNames t; refine State.Goes.cut (cl := cl) (r := r) (t := t) ?_ fun ht => ?_; subst t; rotate_left; clear_value t)
    | extract_lets +onlyGivenNames _
    | with_reducible apply State.each_goes
    | with_reducible apply State.closeEntry_goes
    | with_reducible apply State.forgetStream_goes
    | with_reducible refine State.Goes.snd ?_ (by with_reducible assumption)
    | with_reducible refine State.Goes.fst ?_ (by with_reducible assumption)
    | with_reducible refine State.Goes.thd ?_ (by with_reducible assumption)
    | split

end Sys2Proof.Machine
end

