-- ==== Sys2Proof/Laws/FlowsNet.lean ====
section
/-! SUPPORT. What each operation keeps and which way it goes: the network, the ledger and the epochs. -/

namespace Sys2Proof.Machine

/-! ### NetCore -/

theorem State.modPort_goes {cl : Bool} {r s : State} (h : r.Goes cl s) {p : EthNo} {f : PortState → PortState} :
    r.Goes cl (State.modPort s p f) := by
  unfold State.modPort
  repeat' first
    | with_reducible assumption
    | intro _
    | split
    | dsimp -zeta only
    | refine State.Goes.of (s := s) ?_ rfl rfl rfl rfl rfl rfl rfl rfl id (fun _ => id)

theorem State.countFrame_goes {cl : Bool} {r s : State} (h : r.Goes cl s) {p : EthNo} :
    r.Goes cl (State.countFrame s p) := by
  unfold State.countFrame
  repeat' first
    | with_reducible assumption
    | intro _
    | with_reducible apply State.bump_goes

theorem State.solicit_goes {cl : Bool} {r s : State} (h : r.Goes cl s) {p : EthNo} {hop : Bytes} :
    r.Goes cl (State.solicit s p hop) := by
  unfold State.solicit
  repeat' first
    | with_reducible assumption
    | intro _
    | (extract_lets +onlyGivenNames t; refine State.Goes.cut (cl := cl) (r := r) (t := t) ?_ fun ht => ?_; subst t; rotate_left; clear_value t)
    | extract_lets +onlyGivenNames _
    | with_reducible apply State.countFrame_goes
    | with_reducible apply State.emit_goes
    | split

theorem State.resolve_goes {cl : Bool} {r s : State} (h : r.Goes cl s) {p : EthNo} {dst : Bytes} :
    r.Goes cl (State.resolve s p dst) := by
  unfold State.resolve
  repeat' first
    | with_reducible assumption
    | intro _
    | extract_lets +onlyGivenNames _
    | with_reducible apply State.solicit_goes
    | split

theorem State.sendUdp_goes {cl : Bool} {r s : State} (h : r.Goes cl s) {p : EthNo} {mark : TxMark} {dst : Bytes} {dport : Nat} {sport : Nat} {payload : Bytes} :
    r.Goes cl (State.sendUdp s p mark dst dport sport payload) := by
  unfold State.sendUdp
  repeat' first
    | with_reducible assumption
    | intro _
    | (extract_lets +onlyGivenNames t; refine State.Goes.cut (cl := cl) (r := r) (t := t) ?_ fun ht => ?_; subst t; rotate_left; clear_value t)
    | extract_lets +onlyGivenNames _
    | with_reducible apply State.emit_goes
    | with_reducible apply State.countFrame_goes
    | with_reducible apply State.resolve_goes
    | with_reducible refine State.Goes.snd ?_ (by with_reducible assumption)
    | with_reducible refine State.Goes.fst ?_ (by with_reducible assumption)
    | with_reducible refine State.Goes.thd ?_ (by with_reducible assumption)
    | apply State.Goes.foldl
    | apply State.Goes.foldlFst
    | apply State.Goes.foldlSnd
    | apply State.Goes.foldlThd
    | apply State.Goes.foldlFth
    | refine State.Goes.mapIsles ?_ (fun _ => rfl)
    | split
    | dsimp -zeta only
    | refine State.Goes.of (s := s) ?_ rfl rfl rfl rfl rfl rfl rfl rfl id (fun _ => id)

theorem State.reportGroups_goes {cl : Bool} {r s : State} (h : r.Goes cl s) {p : EthNo} {record : Nat} {gs : List Bytes} :
    r.Goes cl (State.reportGroups s p record gs) := by
  unfold State.reportGroups
  repeat' first
    | with_reducible assumption
    | intro _
    | (extract_lets +onlyGivenNames t; refine State.Goes.cut (cl := cl) (r := r) (t := t) ?_ fun ht => ?_; subst t; rotate_left; clear_value t)
    | extract_lets +onlyGivenNames _
    | with_reducible apply State.countFrame_goes
    | with_reducible apply State.emit_goes
    | with_reducible apply State.record_goes
    | with_reducible refine State.Goes.snd ?_ (by with_reducible assumption)
    | with_reducible refine State.Goes.fst ?_ (by with_reducible assumption)
    | with_reducible refine State.Goes.thd ?_ (by with_reducible assumption)
    | split

theorem State.dropLink_goes {cl : Bool} {r s : State} (h : r.Goes cl s) {p : EthNo} {code : Nat} :
    r.Goes cl (State.dropLink s p code) := by
  unfold State.dropLink
  repeat' first
    | with_reducible assumption
    | intro _
    | (extract_lets +onlyGivenNames t; refine State.Goes.cut (cl := cl) (r := r) (t := t) ?_ fun ht => ?_; subst t; rotate_left; clear_value t)
    | extract_lets +onlyGivenNames _
    | with_reducible apply State.setNum_goes
    | with_reducible apply State.modPort_goes
    | with_reducible apply State.raise_goes
    | with_reducible apply State.settleError_goes
    | split

/-! ### Epoch -/

theorem State.takeRole_goes {cl : Bool} {r s : State} (h : r.Goes cl s) {r0 : Nat} :
    r.Goes cl (State.takeRole s r0) := by
  unfold State.takeRole
  repeat' first
    | with_reducible assumption
    | intro _
    | (extract_lets +onlyGivenNames t; refine State.Goes.cut (cl := cl) (r := r) (t := t) ?_ fun ht => ?_; subst t; rotate_left; clear_value t)
    | extract_lets +onlyGivenNames _
    | with_reducible apply State.setNum_goes
    | split

theorem State.startRole_goes {cl : Bool} {r s : State} (h : r.Goes cl s) :
    r.Goes cl (State.startRole s) := by
  unfold State.startRole
  repeat' first
    | with_reducible assumption
    | intro _
    | (extract_lets +onlyGivenNames t; refine State.Goes.cut (cl := cl) (r := r) (t := t) ?_ fun ht => ?_; subst t; rotate_left; clear_value t)
    | extract_lets +onlyGivenNames _
    | with_reducible apply State.modSys_goes
    | with_reducible apply State.takeRole_goes
    | with_reducible apply State.setNum_goes
    | split

theorem State.freeRing_goes {cl : Bool} {r s : State} (h : r.Goes cl s) {k : SlotNo} :
    r.Goes cl (State.freeRing s k) := by
  unfold State.freeRing
  repeat' first
    | with_reducible assumption
    | intro _
    | with_reducible apply State.each_goes
    | with_reducible apply State.ringWrite_goes
    | extract_lets +onlyGivenNames _
    | with_reducible apply State.bumpBy_goes
    | with_reducible apply State.modSlot_goes
    | with_reducible apply State.noteRing_goes

theorem State.startSlot_goes {cl : Bool} {r s : State} (h : r.Goes cl s) {k : SlotNo} :
    r.Goes cl (State.startSlot s k) := by
  unfold State.startSlot
  repeat' first
    | with_reducible assumption
    | intro _
    | (extract_lets +onlyGivenNames t; refine State.Goes.cut (cl := cl) (r := r) (t := t) ?_ fun ht => ?_; subst t; rotate_left; clear_value t)
    | extract_lets +onlyGivenNames _
    | with_reducible apply State.modSlot_goes
    | with_reducible apply State.addReason_goes

theorem State.renewAdapt_goes {cl : Bool} {r s : State} (h : r.Goes cl s) {k : SlotNo} :
    r.Goes cl (State.renewAdapt s k) := by
  unfold State.renewAdapt
  repeat' first
    | with_reducible assumption
    | intro _
    | with_reducible apply State.loadPlanSets_goes
    | (extract_lets +onlyGivenNames t; refine State.Goes.cut (cl := cl) (r := r) (t := t) ?_ fun ht => ?_; subst t; rotate_left; clear_value t)
    | extract_lets +onlyGivenNames _
    | with_reducible apply State.each_goes
    | with_reducible apply State.abandonStep_goes
    | with_reducible apply State.modSlot_goes

theorem State.checkShape_goes {cl : Bool} {r s : State} (h : r.Goes cl s) {k : SlotNo} :
    r.Goes cl (State.checkShape s k) := by
  unfold State.checkShape
  repeat' first
    | with_reducible assumption
    | intro _
    | with_reducible apply State.markShape_goes
    | with_reducible apply State.raise_goes
    | with_reducible refine State.Goes.snd ?_ (by with_reducible assumption)
    | with_reducible refine State.Goes.fst ?_ (by with_reducible assumption)
    | with_reducible refine State.Goes.thd ?_ (by with_reducible assumption)
    | split

theorem State.epochSlot_goes {cl : Bool} {r s : State} (h : r.Goes cl s) {old : State} {k : SlotNo} :
    r.Goes cl (State.epochSlot old s k) := by
  unfold State.epochSlot
  repeat' first
    | with_reducible assumption
    | intro _
    | (extract_lets +onlyGivenNames t; refine State.Goes.cut (cl := cl) (r := r) (t := t) ?_ fun ht => ?_; subst t; rotate_left; clear_value t)
    | extract_lets +onlyGivenNames _
    | with_reducible apply State.freeRing_goes
    | with_reducible apply State.startSlot_goes
    | with_reducible apply State.addReason_goes
    | with_reducible apply State.modSlot_goes
    | with_reducible apply State.renewAdapt_goes
    | with_reducible apply State.each_goes
    | with_reducible apply State.abandonStep_goes
    | with_reducible apply State.checkShape_goes
    | split

theorem State.epochPort_goes {cl : Bool} {r s : State} (h : r.Goes cl s) {old : State} {p : EthNo} :
    r.Goes cl (State.epochPort old s p) := by
  unfold State.epochPort
  repeat' first
    | with_reducible assumption
    | intro _
    | (extract_lets +onlyGivenNames t; refine State.Goes.cut (cl := cl) (r := r) (t := t) ?_ fun ht => ?_; subst t; rotate_left; clear_value t)
    | extract_lets +onlyGivenNames _
    | with_reducible apply State.dropLink_goes
    | with_reducible apply State.reportGroups_goes
    | split

theorem State.activate_goes {cl : Bool} {r s : State} (h : r.Goes cl s) : r.Goes cl (State.activate s) := by
  unfold State.activate
  extract_lets t ps u
  have ht : r.Goes cl t := by
    show r.Goes cl (if _ then _ else _)
    split
    · exact h
    · exact State.mergeLate_goes h
  clear_value t
  refine State.each_goes ?_ fun _ _ g => State.setEntry_goes g
  exact State.Goes.of ht rfl rfl rfl rfl rfl rfl rfl rfl id (fun _ => id)

theorem State.applyEpoch_goes {cl : Bool} {r s : State} (h : r.Goes cl s) :
    r.Goes cl (State.applyEpoch s) := by
  unfold State.applyEpoch
  repeat' first
    | with_reducible assumption
    | intro _
    | with_reducible apply State.setWaitLimits_goes
    | (extract_lets +onlyGivenNames t; refine State.Goes.cut (cl := cl) (r := r) (t := t) ?_ fun ht => ?_; subst t; rotate_left; clear_value t)
    | extract_lets +onlyGivenNames _
    | with_reducible apply State.activate_goes
    | with_reducible apply State.modTick_goes
    | with_reducible apply State.modSys_goes
    | with_reducible apply State.setNum_goes
    | with_reducible apply State.bump_goes
    | with_reducible apply State.raise_goes
    | with_reducible apply State.each_goes
    | with_reducible apply State.epochSlot_goes
    | with_reducible apply State.epochPort_goes
    | with_reducible apply State.startRole_goes
    | with_reducible apply State.settleError_goes
    | apply State.Goes.foldl
    | apply State.Goes.foldlFst
    | apply State.Goes.foldlSnd
    | apply State.Goes.foldlThd
    | apply State.Goes.foldlFth
    | exact ⟨rfl, rfl⟩
    | split

theorem State.epochIfDue_goes {cl : Bool} {r s : State} (h : r.Goes cl s) :
    r.Goes cl (State.epochIfDue s) := by
  unfold State.epochIfDue
  repeat' first
    | with_reducible assumption
    | intro _
    | with_reducible apply State.applyEpoch_goes
    | split

/-! ### Causeway -/

theorem State.openSession_goes {cl : Bool} {r s t : State} (h : r.Goes cl s) {key : Nat} (e : s.openSession key = some t) : r.Goes cl t := by
  unfold State.openSession at e
  dsimp only at e
  split at e
  · cases e
  · cases e
    exact State.modSys_goes h

theorem State.nextSeq_goes {cl : Bool} {r s : State} (h : r.Goes cl s) {key dest chan space : Nat} :
    r.Goes cl (s.nextSeq key dest chan space).2 := by
  unfold State.nextSeq
  dsimp only
  split
  · exact State.raiseOnce_goes h
  · rename_i t e
    dsimp only
    split at e
    · apply State.modSys_goes
      exact State.openSession_goes h e
    · cases e
      apply State.modSys_goes
      exact h

theorem State.cwEmit_goes {cl : Bool} {r s : State} (h : r.Goes cl s) {p : EthNo} {data : Bool} {addr : Bytes} {bytes : Bytes} :
    r.Goes cl (State.cwEmit s p data addr bytes) := by
  unfold State.cwEmit
  repeat' first
    | with_reducible assumption
    | intro _
    | (extract_lets +onlyGivenNames t; refine State.Goes.cut (cl := cl) (r := r) (t := t) ?_ fun ht => ?_; subst t; rotate_left; clear_value t)
    | extract_lets +onlyGivenNames _
    | with_reducible apply State.sendUdp_goes
    | with_reducible refine State.Goes.snd ?_ (by with_reducible assumption)
    | with_reducible refine State.Goes.fst ?_ (by with_reducible assumption)
    | with_reducible refine State.Goes.thd ?_ (by with_reducible assumption)
    | apply State.Goes.foldl
    | apply State.Goes.foldlFst
    | apply State.Goes.foldlSnd
    | apply State.Goes.foldlThd
    | apply State.Goes.foldlFth
    | refine State.Goes.mapIsles ?_ (fun _ => rfl)
    | split
    | dsimp -zeta only
    | refine State.Goes.of (s := s) ?_ rfl rfl rfl rfl rfl rfl rfl rfl id (fun _ => id)

theorem State.flushData_goes {cl : Bool} {r s : State} (h : r.Goes cl s) {p : EthNo} :
    r.Goes cl (State.flushData s p) := by
  unfold State.flushData
  repeat' first
    | with_reducible assumption
    | intro _
    | (extract_lets +onlyGivenNames t; refine State.Goes.cut (cl := cl) (r := r) (t := t) ?_ fun ht => ?_; subst t; rotate_left; clear_value t)
    | extract_lets +onlyGivenNames _
    | with_reducible apply State.modPort_goes
    | with_reducible apply State.each_goes
    | with_reducible apply State.cwEmit_goes
    | split

theorem State.cwSend_goes {cl : Bool} {r s : State} (h : r.Goes cl s) {dest : Nat} {data : Bool} {bytes : Bytes} :
    r.Goes cl (State.cwSend s dest data bytes) := by
  unfold State.cwSend
  repeat' first
    | with_reducible assumption
    | intro _
    | (extract_lets +onlyGivenNames t; refine State.Goes.cut (cl := cl) (r := r) (t := t) ?_ fun ht => ?_; subst t; rotate_left; clear_value t)
    | extract_lets +onlyGivenNames _
    | with_reducible apply State.bump_goes
    | with_reducible apply State.flushData_goes
    | with_reducible apply State.modPort_goes
    | with_reducible apply State.cwEmit_goes
    | with_reducible refine State.Goes.snd ?_ (by with_reducible assumption)
    | with_reducible refine State.Goes.fst ?_ (by with_reducible assumption)
    | with_reducible refine State.Goes.thd ?_ (by with_reducible assumption)
    | split

theorem State.cwMake_goes {cl : Bool} {r s : State} (h : r.Goes cl s) {type : Nat} {dest : Nat} {chan : Nat} {owner : Nat} {payload : Bytes} :
    r.Goes cl (State.cwMake s type dest chan owner payload).2 := by
  unfold State.cwMake
  repeat' first
    | with_reducible assumption
    | intro _
    | extract_lets +onlyGivenNames _
    | with_reducible apply State.nextSeq_goes
    | with_reducible apply State.cwSend_goes
    | with_reducible refine State.Goes.snd ?_ (by with_reducible assumption)
    | with_reducible refine State.Goes.fst ?_ (by with_reducible assumption)
    | with_reducible refine State.Goes.thd ?_ (by with_reducible assumption)
    | split

theorem State.cwOnce_goes {cl : Bool} {r s : State} (h : r.Goes cl s) {type : Nat} {dest : Nat} {chan : Nat} {owner : Nat} {payload : Bytes} :
    r.Goes cl (State.cwOnce s type dest chan owner payload) := by
  unfold State.cwOnce
  repeat' first
    | with_reducible assumption
    | intro _
    | with_reducible apply State.cwMake_goes

theorem State.pumpFlow_goes {cl : Bool} {r s : State} (h : r.Goes cl s) {dest : Nat} {chan : Nat} {y0 : Nat} :
    r.Goes cl (State.pumpFlow s dest chan y0) := by
  induction y0 generalizing s with
  | zero =>
    unfold State.pumpFlow
    repeat' first
      | with_reducible assumption
  | succ n ih =>
    unfold State.pumpFlow
    repeat' first
      | with_reducible assumption
      | intro _
      | with_reducible apply ih
      | extract_lets +onlyGivenNames _
      | with_reducible apply State.setFlow_goes
      | with_reducible apply State.bump_goes
      | with_reducible apply State.cwMake_goes
      | with_reducible refine State.Goes.snd ?_ (by with_reducible assumption)
      | with_reducible refine State.Goes.fst ?_ (by with_reducible assumption)
      | with_reducible refine State.Goes.thd ?_ (by with_reducible assumption)
      | split

theorem State.pump_goes {cl : Bool} {r s : State} (h : r.Goes cl s) :
    r.Goes cl (State.pump s) := by
  unfold State.pump
  repeat' first
    | with_reducible assumption
    | intro _
    | with_reducible apply State.each_goes
    | with_reducible apply State.pumpFlow_goes

theorem State.cwReliableSend_goes {cl : Bool} {r s : State} (h : r.Goes cl s) {type : Nat} {dest : Nat} {chan : Nat} {payload : Bytes} :
    r.Goes cl (State.cwReliableSend s type dest chan payload) := by
  unfold State.cwReliableSend
  repeat' first
    | with_reducible assumption
    | intro _
    | (extract_lets +onlyGivenNames t; refine State.Goes.cut (cl := cl) (r := r) (t := t) ?_ fun ht => ?_; subst t; rotate_left; clear_value t)
    | extract_lets +onlyGivenNames _
    | with_reducible apply State.enqueue_goes
    | with_reducible apply State.pumpFlow_goes

theorem State.sendPfc_goes {cl : Bool} {r s : State} (h : r.Goes cl s) {p : EthNo} {quanta : Nat} :
    r.Goes cl (State.sendPfc s p quanta) := by
  unfold State.sendPfc
  repeat' first
    | with_reducible assumption
    | intro _
    | extract_lets +onlyGivenNames _
    | with_reducible apply State.bump_goes
    | with_reducible apply State.emit_goes

theorem State.releaseBuffers_goes {cl : Bool} {r s : State} (h : r.Goes cl s) {gone : DataBuffer → Bool} :
    r.Goes cl (State.releaseBuffers s gone) := by
  unfold State.releaseBuffers
  repeat' first
    | with_reducible assumption
    | intro _
    | (extract_lets +onlyGivenNames t; refine State.Goes.cut (cl := cl) (r := r) (t := t) ?_ fun ht => ?_; subst t; rotate_left; clear_value t)
    | extract_lets +onlyGivenNames _
    | with_reducible apply State.modSys_goes
    | with_reducible apply State.each_goes
    | with_reducible apply State.modPort_goes
    | with_reducible apply State.sendPfc_goes
    | split

theorem State.setRx_goes {cl : Bool} {r s : State} (h : r.Goes cl s) {x : RxSpace} :
    r.Goes cl (State.setRx s x) := by
  unfold State.setRx
  repeat' first
    | with_reducible assumption
    | intro _
    | with_reducible apply State.modSys_goes

theorem State.cwAccept_goes {cl : Bool} {r s : State} (h : r.Goes cl s) {b : Bytes} :
    r.Goes cl (State.cwAccept s b).2 := by
  unfold State.cwAccept
  repeat' first
    | with_reducible assumption
    | intro _
    | (extract_lets +onlyGivenNames t; refine State.Goes.cut (cl := cl) (r := r) (t := t) ?_ fun ht => ?_; subst t; rotate_left; clear_value t)
    | extract_lets +onlyGivenNames _
    | with_reducible apply State.bump_goes
    | with_reducible apply State.raiseOnce_goes
    | with_reducible apply State.releaseBuffers_goes
    | with_reducible apply State.setRx_goes
    | with_reducible refine State.Goes.snd ?_ (by with_reducible assumption)
    | with_reducible refine State.Goes.fst ?_ (by with_reducible assumption)
    | with_reducible refine State.Goes.thd ?_ (by with_reducible assumption)
    | split

theorem State.cwReceive_goes {cl : Bool} {r s : State} (h : r.Goes cl s) {p : EthNo} {src : Bytes} {b : Bytes} :
    r.Goes cl (State.cwReceive s p src b).2 := by
  unfold State.cwReceive
  repeat' first
    | with_reducible assumption
    | intro _
    | with_reducible apply State.bump_goes
    | with_reducible apply State.cwAccept_goes
    | with_reducible refine State.Goes.snd ?_ (by with_reducible assumption)
    | with_reducible refine State.Goes.fst ?_ (by with_reducible assumption)
    | with_reducible refine State.Goes.thd ?_ (by with_reducible assumption)
    | split

theorem State.sendAck_goes {cl : Bool} {r s : State} (h : r.Goes cl s) {src : Nat} {chan : Nat} :
    r.Goes cl (State.sendAck s src chan) := by
  unfold State.sendAck
  repeat' first
    | with_reducible assumption
    | intro _
    | (extract_lets +onlyGivenNames t; refine State.Goes.cut (cl := cl) (r := r) (t := t) ?_ fun ht => ?_; subst t; rotate_left; clear_value t)
    | extract_lets +onlyGivenNames _
    | with_reducible apply State.cwOnce_goes
    | with_reducible apply State.setRx_goes
    | with_reducible refine State.Goes.snd ?_ (by with_reducible assumption)
    | with_reducible refine State.Goes.fst ?_ (by with_reducible assumption)
    | with_reducible refine State.Goes.thd ?_ (by with_reducible assumption)
    | split

theorem State.countAgain_goes {cl : Bool} {r s : State} (h : r.Goes cl s) {dest : Nat} {chan : Nat} :
    r.Goes cl (State.countAgain s dest chan) := by
  unfold State.countAgain
  repeat' first
    | with_reducible assumption
    | intro _
    | (extract_lets +onlyGivenNames t; refine State.Goes.cut (cl := cl) (r := r) (t := t) ?_ fun ht => ?_; subst t; rotate_left; clear_value t)
    | extract_lets +onlyGivenNames _
    | with_reducible apply State.bump_goes
    | with_reducible refine State.Goes.snd ?_ (by with_reducible assumption)
    | with_reducible refine State.Goes.fst ?_ (by with_reducible assumption)
    | with_reducible refine State.Goes.thd ?_ (by with_reducible assumption)
    | split

theorem State.takeAck_goes {cl : Bool} {r s : State} (h : r.Goes cl s) {src : Nat} {p : Bytes} :
    r.Goes cl (State.takeAck s src p) := by
  unfold State.takeAck
  repeat' first
    | with_reducible assumption
    | intro _
    | (extract_lets +onlyGivenNames t; refine State.Goes.cut (cl := cl) (r := r) (t := t) ?_ fun ht => ?_; subst t; rotate_left; clear_value t)
    | extract_lets +onlyGivenNames _
    | with_reducible apply State.setFlow_goes
    | with_reducible apply State.each_goes
    | with_reducible apply State.countAgain_goes
    | with_reducible apply State.cwSend_goes
    | with_reducible apply State.pumpFlow_goes

theorem State.failFrames_goes {cl : Bool} {r s : State} (h : r.Goes cl s) {k : SlotNo} {code : Nat} :
    r.Goes cl (State.failFrames s k code) := by
  unfold State.failFrames
  repeat' first
    | with_reducible assumption
    | intro _
    | with_reducible apply State.each_goes
    | with_reducible apply State.finishFrame_goes

theorem State.failFlow_goes {cl : Bool} {r s : State} (h : r.Goes cl s) {dest : Nat} {chan : Nat} :
    r.Goes cl (State.failFlow s dest chan) := by
  unfold State.failFlow
  repeat' first
    | with_reducible assumption
    | intro _
    | (extract_lets +onlyGivenNames t; refine State.Goes.cut (cl := cl) (r := r) (t := t) ?_ fun ht => ?_; subst t; rotate_left; clear_value t)
    | extract_lets +onlyGivenNames _
    | with_reducible apply State.raise_goes
    | with_reducible apply State.bump_goes
    | with_reducible apply State.setFlow_goes
    | with_reducible apply State.failFrames_goes
    | with_reducible refine State.Goes.snd ?_ (by with_reducible assumption)
    | with_reducible refine State.Goes.fst ?_ (by with_reducible assumption)
    | with_reducible refine State.Goes.thd ?_ (by with_reducible assumption)
    | split

theorem State.retransmit_goes {cl : Bool} {r s : State} (h : r.Goes cl s) {dest : Nat} {chan : Nat} :
    r.Goes cl (State.retransmit s dest chan) := by
  unfold State.retransmit
  repeat' first
    | with_reducible assumption
    | intro _
    | (extract_lets +onlyGivenNames t; refine State.Goes.cut (cl := cl) (r := r) (t := t) ?_ fun ht => ?_; subst t; rotate_left; clear_value t)
    | extract_lets +onlyGivenNames _
    | with_reducible apply State.atCycle_goes
    | with_reducible apply State.failFlow_goes
    | with_reducible apply State.setFlow_goes
    | with_reducible apply State.countAgain_goes
    | with_reducible apply State.cwSend_goes
    | with_reducible refine State.Goes.snd ?_ (by with_reducible assumption)
    | with_reducible refine State.Goes.fst ?_ (by with_reducible assumption)
    | with_reducible refine State.Goes.thd ?_ (by with_reducible assumption)
    | split

/-! ### FirmwareCore -/

set_option linter.tactic.unusedName false

theorem State.setBoot_goes {cl : Bool} {r s : State} (h : r.Goes cl s) {f : BootRecord → BootRecord} :
    r.Goes cl (State.setBoot s f) := by
  unfold State.setBoot
  repeat' first
    | with_reducible assumption
    | intro _
    | with_reducible apply State.record_goes
    | with_reducible apply State.modFw_goes

theorem State.storeSettings_goes {cl : Bool} {r s : State} (h : r.Goes cl s) :
    r.Goes cl (State.storeSettings s) := by
  unfold State.storeSettings
  repeat' first
    | with_reducible assumption
    | intro _
    | extract_lets +onlyGivenNames _
    | with_reducible apply State.modFw_goes
    | with_reducible apply State.setNum_goes

theorem State.loadBank_goes {cl : Bool} {r s : State} (h : r.Goes cl s) {b : List (Nat × OdVal)} :
    r.Goes cl (State.loadBank s b) := by
  unfold State.loadBank
  repeat' first
    | with_reducible assumption
    | intro _
    | extract_lets +onlyGivenNames _
    | with_reducible apply State.modSlot_goes
    | with_reducible apply State.setEntry_goes
    | apply State.Goes.foldl
    | apply State.Goes.foldlFst
    | apply State.Goes.foldlSnd
    | apply State.Goes.foldlThd
    | apply State.Goes.foldlFth
    | split
    | dsimp -zeta only
    | refine State.Goes.of (s := s) ?_ rfl rfl rfl rfl rfl rfl rfl rfl id (fun _ => id)
    | refine State.Goes.of (s := by assumption) ?_ rfl rfl rfl rfl rfl rfl rfl rfl id (fun _ => id)

/-! ### LedgerCore -/

theorem State.writeRecord_goes {cl : Bool} {r s : State} (h : r.Goes cl s) {h0 : RecordHead} {y0 : Nat} :
    r.Goes cl (State.writeRecord s h0 y0) := by
  induction y0 generalizing s with
  | zero =>
    unfold State.writeRecord
    repeat' first
      | with_reducible assumption
      | intro _
      | extract_lets +onlyGivenNames _
      | with_reducible apply State.modLedger_goes
      | with_reducible apply State.bump_goes
  | succ n ih =>
    unfold State.writeRecord
    repeat' first
      | with_reducible assumption
      | intro _
      | with_reducible apply ih
      | extract_lets +onlyGivenNames _
      | with_reducible apply State.modLedger_goes
      | with_reducible apply State.bump_goes
      | with_reducible apply State.raise_goes

theorem State.openInterval_goes {cl : Bool} {r s : State} (h : r.Goes cl s) {number : Nat} {band : Nat} {nominalEnd : Int} :
    r.Goes cl (State.openInterval s number band nominalEnd) := by
  unfold State.openInterval
  repeat' first
    | with_reducible assumption
    | intro _
    | (extract_lets +onlyGivenNames t; refine State.Goes.cut (cl := cl) (r := r) (t := t) ?_ fun ht => ?_; subst t; rotate_left; clear_value t)
    | extract_lets +onlyGivenNames _
    | with_reducible apply State.setNum_goes
    | with_reducible apply State.modLedger_goes

theorem State.takeLedgerSettings_goes {cl : Bool} {r s : State} (h : r.Goes cl s) :
    r.Goes cl (State.takeLedgerSettings s) := by
  unfold State.takeLedgerSettings
  repeat' first
    | with_reducible assumption
    | intro _
    | extract_lets +onlyGivenNames _
    | with_reducible apply State.modLedger_goes

theorem State.closeInterval_goes {cl : Bool} {r s : State} (h : r.Goes cl s) {powerFail : Bool} {fails : Nat} :
    r.Goes cl (State.closeInterval s powerFail fails) := by
  unfold State.closeInterval
  repeat' first
    | with_reducible assumption
    | intro _
    | (extract_lets +onlyGivenNames t; refine State.Goes.cut (cl := cl) (r := r) (t := t) ?_ fun ht => ?_; subst t; rotate_left; clear_value t)
    | extract_lets +onlyGivenNames _
    | with_reducible apply State.takeLedgerSettings_goes
    | with_reducible apply State.writeRecord_goes
    | with_reducible apply State.modLedger_goes
    | with_reducible apply State.openInterval_goes
    | with_reducible apply State.raise_goes
    | split

theorem State.intervalEnds_goes {cl : Bool} {r s : State} (h : r.Goes cl s) {fails : Nat} :
    r.Goes cl (State.intervalEnds s fails) := by
  unfold State.intervalEnds
  repeat' first
    | with_reducible assumption
    | intro _
    | with_reducible apply State.atCycle_goes
    | with_reducible apply State.closeInterval_goes
    | split

theorem State.mergeRecord_goes {cl : Bool} {r s : State} (h : r.Goes cl s) {kind : Nat} :
    r.Goes cl (State.mergeRecord s kind) := by
  unfold State.mergeRecord
  repeat' first
    | with_reducible assumption
    | intro _
    | extract_lets +onlyGivenNames _
    | with_reducible apply State.modLedger_goes
    | split

theorem State.setLedgerTime_goes {cl : Bool} {r s : State} (h : r.Goes cl s) {known : Bool} :
    r.Goes cl (State.setLedgerTime s known) := by
  unfold State.setLedgerTime
  repeat' first
    | with_reducible assumption
    | intro _
    | (extract_lets +onlyGivenNames t; refine State.Goes.cut (cl := cl) (r := r) (t := t) ?_ fun ht => ?_; subst t; rotate_left; clear_value t)
    | extract_lets +onlyGivenNames _
    | with_reducible apply State.modLedger_goes
    | with_reducible apply State.mergeRecord_goes
    | with_reducible apply State.writeRecord_goes
    | with_reducible apply State.raise_goes
    | with_reducible apply State.closeInterval_goes
    | split

theorem State.commitPowerFail_goes {cl : Bool} {r s : State} (h : r.Goes cl s) {us : Nat} {uj : Nat} {fails : Nat} :
    r.Goes cl (State.commitPowerFail s us uj fails) := by
  unfold State.commitPowerFail
  repeat' first
    | with_reducible assumption
    | intro _
    | (extract_lets +onlyGivenNames t; refine State.Goes.cut (cl := cl) (r := r) (t := t) ?_ fun ht => ?_; subst t; rotate_left; clear_value t)
    | extract_lets +onlyGivenNames _
    | with_reducible apply State.closeInterval_goes
    | with_reducible apply State.mergeRecord_goes
    | with_reducible apply State.writeRecord_goes
    | with_reducible apply State.setNum_goes
    | split

theorem State.resumeLedger_goes {cl : Bool} {r s : State} (h : r.Goes cl s) {fails : Nat} :
    r.Goes cl (State.resumeLedger s fails) := by
  unfold State.resumeLedger
  repeat' first
    | with_reducible assumption
    | intro _
    | (extract_lets +onlyGivenNames t; refine State.Goes.cut (cl := cl) (r := r) (t := t) ?_ fun ht => ?_; subst t; rotate_left; clear_value t)
    | extract_lets +onlyGivenNames _
    | with_reducible apply State.takeLedgerSettings_goes
    | with_reducible apply State.modLedger_goes
    | with_reducible apply State.openInterval_goes
    | with_reducible apply State.closeInterval_goes
    | with_reducible apply State.writeRecord_goes
    | with_reducible apply State.raise_goes
    | with_reducible apply State.bump_goes
    | with_reducible refine State.Goes.snd ?_ (by with_reducible assumption)
    | with_reducible refine State.Goes.fst ?_ (by with_reducible assumption)
    | with_reducible refine State.Goes.thd ?_ (by with_reducible assumption)
    | split

end Sys2Proof.Machine
end

