-- ==== Sys2Proof/Laws/FlowsIsle.lean ====
section
/-! SUPPORT. What each operation keeps and which way it goes: the isles, the movers and adaptation. -/

namespace Sys2Proof.Machine

/-! ### Scratch -/

theorem State.applyUpsets_goes {cl : Bool} {r s : State} (h : r.Goes cl s) {us : List Upset} :
    r.Goes cl (State.applyUpsets s us) := by
  unfold State.applyUpsets
  repeat' first
    | with_reducible assumption
    | intro _
    | with_reducible apply State.each_goes
    | with_reducible apply State.modSp_goes
    | with_reducible apply Scratchpad.upset_canonical

theorem State.guardWord_goes {cl : Bool} {r s : State} (h : r.Goes cl s) {k : IsleNo} {word : Nat} :
    r.Goes cl (State.guardWord s k word).2 := by
  unfold State.guardWord
  repeat' first
    | with_reducible assumption
    | intro _
    | extract_lets +onlyGivenNames _
    | with_reducible apply State.modSp_goes
    | with_reducible apply State.noteCorrected_goes
    | with_reducible apply State.modCnt_goes
    | with_reducible refine State.Goes.snd ?_ (by with_reducible assumption)
    | with_reducible refine State.Goes.fst ?_ (by with_reducible assumption)
    | with_reducible refine State.Goes.thd ?_ (by with_reducible assumption)
    | exact ‹Scratchpad.Canonical _›
    | split

theorem State.refuseOwner_goes {cl : Bool} {r s : State} (h : r.Goes cl s) {k : IsleNo} :
    r.Goes cl (State.refuseOwner s k).2 := by
  unfold State.refuseOwner
  repeat' first
    | with_reducible assumption
    | intro _
    | with_reducible apply State.modCnt_goes

theorem State.readWord_goes {cl : Bool} {r s : State} (h : r.Goes cl s) {k : IsleNo} {word : Nat} {o : OwnerNo} :
    r.Goes cl (State.readWord s k word o).2 := by
  unfold State.readWord
  repeat' first
    | with_reducible assumption
    | intro _
    | extract_lets +onlyGivenNames _
    | with_reducible apply State.guardWord_goes
    | with_reducible apply State.refuseOwner_goes
    | with_reducible refine State.Goes.snd ?_ (by with_reducible assumption)
    | with_reducible refine State.Goes.fst ?_ (by with_reducible assumption)
    | with_reducible refine State.Goes.thd ?_ (by with_reducible assumption)
    | split

theorem State.writeWord_goes {cl : Bool} {r s : State} (h : r.Goes cl s) {w : WordWrite} {o : OwnerNo} :
    r.Goes cl (State.writeWord s w o).2 := by
  unfold State.writeWord
  repeat' first
    | with_reducible assumption
    | intro _
    | extract_lets +onlyGivenNames _
    | with_reducible apply State.modSp_goes
    | with_reducible apply State.guardWord_goes
    | with_reducible apply State.refuseOwner_goes
    | with_reducible refine State.Goes.snd ?_ (by with_reducible assumption)
    | with_reducible refine State.Goes.fst ?_ (by with_reducible assumption)
    | with_reducible refine State.Goes.thd ?_ (by with_reducible assumption)
    | with_reducible apply Scratchpad.put_canonical
    | exact ‹Scratchpad.Canonical _›
    | split

theorem State.readWords_goes {cl : Bool} {r s : State} (h : r.Goes cl s) {o : OwnerNo} {y0 : List (IsleNo × Nat)} :
    r.Goes cl (State.readWords s o y0).2 := by
  induction y0 generalizing s with
  | nil =>
    unfold State.readWords
    repeat' first
      | with_reducible assumption
  | cons x xs ih =>
    unfold State.readWords
    repeat' first
      | with_reducible assumption
      | intro _
      | with_reducible apply ih
      | extract_lets +onlyGivenNames _
      | with_reducible apply State.readWord_goes
      | with_reducible refine State.Goes.snd ?_ (by with_reducible assumption)
      | with_reducible refine State.Goes.fst ?_ (by with_reducible assumption)
      | with_reducible refine State.Goes.thd ?_ (by with_reducible assumption)
      | split

theorem State.writeWords_goes {cl : Bool} {r s : State} (h : r.Goes cl s) {o : OwnerNo} {y0 : List WordWrite} :
    r.Goes cl (State.writeWords s o y0).2 := by
  induction y0 generalizing s with
  | nil =>
    unfold State.writeWords
    repeat' first
      | with_reducible assumption
  | cons x xs ih =>
    unfold State.writeWords
    repeat' first
      | with_reducible assumption
      | intro _
      | with_reducible apply ih
      | with_reducible apply State.writeWord_goes
      | with_reducible refine State.Goes.snd ?_ (by with_reducible assumption)
      | with_reducible refine State.Goes.fst ?_ (by with_reducible assumption)
      | with_reducible refine State.Goes.thd ?_ (by with_reducible assumption)
      | split

theorem State.modAtoll_goes {cl : Bool} {r s : State} (h : r.Goes cl s) {k : IsleNo} {n : AtollNo} {f : Atoll → Atoll} :
    r.Goes cl (State.modAtoll s k n f) := by
  unfold State.modAtoll
  repeat' first
    | with_reducible assumption
    | intro _
    | with_reducible apply State.modIsle_goes

theorem State.judgeChans_goes {cl : Bool} {r s : State} (h : r.Goes cl s) {k : IsleNo} : r.Goes cl (State.judgeChans s k) := by
  unfold State.judgeChans
  exact State.modIsle_goes h fun _ g => g

theorem State.retag_goes {cl : Bool} {r s : State} (h : r.Goes cl s) {k : IsleNo} {n : AtollNo} {full : List Nat} {reads : List (Nat × Nat)} :
    r.Goes cl (State.retag s k n full reads) := by
  unfold State.retag
  repeat' first
    | with_reducible assumption
    | intro _
    | with_reducible apply State.judgeChans_goes
    | (extract_lets +onlyGivenNames t; refine State.Goes.cut (cl := cl) (r := r) (t := t) ?_ fun ht => ?_; subst t; rotate_left; clear_value t)
    | extract_lets +onlyGivenNames _
    | with_reducible apply State.modAtoll_goes
    | with_reducible apply State.raise_goes
    | split

theorem State.touchSlots_goes {cl : Bool} {r s : State} (h : r.Goes cl s) {k : IsleNo} {n : AtollNo} {rd : List Nat} {wr : List Nat} :
    r.Goes cl (State.touchSlots s k n rd wr) := by
  unfold State.touchSlots
  repeat' first
    | with_reducible assumption
    | intro _
    | (extract_lets +onlyGivenNames t; refine State.Goes.cut (cl := cl) (r := r) (t := t) ?_ fun ht => ?_; subst t; rotate_left; clear_value t)
    | extract_lets +onlyGivenNames _
    | with_reducible apply State.retag_goes
    | with_reducible refine State.Goes.snd ?_ (by with_reducible assumption)
    | with_reducible refine State.Goes.fst ?_ (by with_reducible assumption)
    | with_reducible refine State.Goes.thd ?_ (by with_reducible assumption)
    | apply State.Goes.foldl
    | apply State.Goes.foldlFst
    | apply State.Goes.foldlSnd
    | apply State.Goes.foldlThd
    | apply State.Goes.foldlFth
    | refine State.Goes.mapIsles ?_ (fun _ => rfl)
    | split
    | dsimp -zeta only
    | refine State.Goes.of (s := s) ?_ rfl rfl rfl rfl rfl rfl rfl rfl id (fun _ => id)

theorem State.fillSlots_goes {cl : Bool} {r s : State} (h : r.Goes cl s) {k : IsleNo} {n : AtollNo} {slots : List Nat} :
    r.Goes cl (State.fillSlots s k n slots) := by
  unfold State.fillSlots
  repeat' first
    | with_reducible assumption
    | intro _
    | with_reducible apply State.touchSlots_goes
    | extract_lets +onlyGivenNames _
    | with_reducible apply State.retag_goes

theorem State.readSlots_goes {cl : Bool} {r s : State} (h : r.Goes cl s) {k : IsleNo} {n : AtollNo} {slots : List Nat} :
    r.Goes cl (State.readSlots s k n slots) := by
  unfold State.readSlots
  repeat' first
    | with_reducible assumption
    | intro _
    | with_reducible apply State.touchSlots_goes
    | extract_lets +onlyGivenNames _
    | with_reducible apply State.retag_goes
    | apply State.Goes.foldl
    | apply State.Goes.foldlFst
    | apply State.Goes.foldlSnd
    | apply State.Goes.foldlThd
    | apply State.Goes.foldlFth
    | split

theorem State.emptySlots_goes {cl : Bool} {r s : State} (h : r.Goes cl s) {k : IsleNo} {n : AtollNo} {slots : List Nat} :
    r.Goes cl (State.emptySlots s k n slots) := by
  unfold State.emptySlots
  repeat' first
    | with_reducible assumption
    | intro _
    | extract_lets +onlyGivenNames _
    | with_reducible apply State.retag_goes

theorem State.fallback_goes {cl : Bool} {r s : State} (h : r.Goes cl s) {k : IsleNo} {word : Nat} {n : Nat} :
    r.Goes cl (State.fallback s k word n) := by
  unfold State.fallback
  repeat' first
    | with_reducible assumption
    | intro _
    | (extract_lets +onlyGivenNames t; refine State.Goes.cut (cl := cl) (r := r) (t := t) ?_ fun ht => ?_; subst t; rotate_left; clear_value t)
    | extract_lets +onlyGivenNames _
    | with_reducible apply State.modCnt_goes
    | with_reducible apply State.modAtoll_goes
    | with_reducible refine State.Goes.snd ?_ (by with_reducible assumption)
    | with_reducible refine State.Goes.fst ?_ (by with_reducible assumption)
    | with_reducible refine State.Goes.thd ?_ (by with_reducible assumption)
    | apply State.Goes.foldl
    | apply State.Goes.foldlFst
    | apply State.Goes.foldlSnd
    | apply State.Goes.foldlThd
    | apply State.Goes.foldlFth
    | refine State.Goes.mapIsles ?_ (fun _ => rfl)
    | split
    | dsimp -zeta only
    | refine State.Goes.of (s := s) ?_ rfl rfl rfl rfl rfl rfl rfl rfl id (fun _ => id)

theorem State.outerAccess_goes {cl : Bool} {r s : State} (h : r.Goes cl s) {k : IsleNo} {word : Nat} {sure : Bool} :
    r.Goes cl (State.outerAccess s k word sure) := by
  unfold State.outerAccess
  repeat' first
    | with_reducible assumption
    | intro _
    | (extract_lets +onlyGivenNames t; refine State.Goes.cut (cl := cl) (r := r) (t := t) ?_ fun ht => ?_; subst t; rotate_left; clear_value t)
    | extract_lets +onlyGivenNames _
    | with_reducible apply State.draw_goes
    | with_reducible apply State.fallback_goes
    | with_reducible refine State.Goes.snd ?_ (by with_reducible assumption)
    | with_reducible refine State.Goes.fst ?_ (by with_reducible assumption)
    | with_reducible refine State.Goes.thd ?_ (by with_reducible assumption)
    | apply State.Goes.foldl
    | apply State.Goes.foldlFst
    | apply State.Goes.foldlSnd
    | apply State.Goes.foldlThd
    | apply State.Goes.foldlFth
    | refine State.Goes.mapIsles ?_ (fun _ => rfl)
    | split
    | dsimp -zeta only
    | refine State.Goes.of (s := s) ?_ rfl rfl rfl rfl rfl rfl rfl rfl id (fun _ => id)

/-! ### TileOps -/

theorem State.takeUnits_goes {cl : Bool} {r s : State} (h : r.Goes cl s) {k : IsleNo} {c : CtxNo} :
    r.Goes cl (State.takeUnits s k c) := by
  unfold State.takeUnits
  repeat' first
    | with_reducible assumption
    | intro _
    | (extract_lets +onlyGivenNames t; refine State.Goes.cut (cl := cl) (r := r) (t := t) ?_ fun ht => ?_; subst t; rotate_left; clear_value t)
    | extract_lets +onlyGivenNames _
    | with_reducible apply State.each_goes
    | with_reducible apply State.modCtx_goes
    | with_reducible apply State.modIsle_goes
    | with_reducible apply State.modCnt_goes
    | apply State.Goes.foldl
    | apply State.Goes.foldlFst
    | apply State.Goes.foldlSnd
    | apply State.Goes.foldlThd
    | apply State.Goes.foldlFth
    | exact ‹Scratchpad.Canonical _›
    | split

theorem State.askRemote_goes {cl : Bool} {r s : State} (h : r.Goes cl s) {k : IsleNo} {c : CtxNo} {dst : IsleNo} {n : AtollNo} {slot : Nat} :
    r.Goes cl (State.askRemote s k c dst n slot) := by
  unfold State.askRemote
  repeat' first
    | with_reducible assumption
    | intro _
    | (extract_lets +onlyGivenNames t; refine State.Goes.cut (cl := cl) (r := r) (t := t) ?_ fun ht => ?_; subst t; rotate_left; clear_value t)
    | extract_lets +onlyGivenNames _
    | with_reducible apply State.modCtx_goes
    | with_reducible apply State.modIsle_goes
    | exact ‹Scratchpad.Canonical _›
    | split

theorem State.suspend_goes {cl : Bool} {r s : State} (h : r.Goes cl s) {k : IsleNo} {c : CtxNo} {y0 : Hold} :
    r.Goes cl (State.suspend s k c y0) := by
  unfold State.suspend
  repeat' first
    | with_reducible assumption
    | intro _
    | with_reducible apply State.modCtx_goes
    | with_reducible apply State.askRemote_goes
    | split

theorem State.sendWords_goes {cl : Bool} {r s : State} (h : r.Goes cl s) {k : IsleNo} {c : CtxNo} {y0 : Nat} :
    r.Goes cl (State.sendWords s k c y0) := by
  induction y0 generalizing s with
  | zero =>
    unfold State.sendWords
    repeat' first
      | with_reducible assumption
  | succ n ih =>
    unfold State.sendWords
    repeat' first
      | with_reducible assumption
      | intro _
      | with_reducible apply ih
      | (extract_lets +onlyGivenNames t; refine State.Goes.cut (cl := cl) (r := r) (t := t) ?_ fun ht => ?_; subst t; rotate_left; clear_value t)
      | extract_lets +onlyGivenNames _
      | with_reducible apply State.modCtx_goes
      | with_reducible apply State.modIsle_goes
      | with_reducible apply State.modCnt_goes
      | with_reducible apply State.charge_goes
      | with_reducible refine State.Goes.snd ?_ (by with_reducible assumption)
      | with_reducible refine State.Goes.fst ?_ (by with_reducible assumption)
      | with_reducible refine State.Goes.thd ?_ (by with_reducible assumption)
      | exact ‹Scratchpad.Canonical _›
      | split

theorem State.applyDue_goes {cl : Bool} {r s : State} (h : r.Goes cl s) {k : IsleNo} {c : CtxNo} :
    r.Goes cl (State.applyDue s k c) := by
  unfold State.applyDue
  repeat' first
    | with_reducible assumption
    | intro _
    | (extract_lets +onlyGivenNames t; refine State.Goes.cut (cl := cl) (r := r) (t := t) ?_ fun ht => ?_; subst t; rotate_left; clear_value t)
    | extract_lets +onlyGivenNames _
    | with_reducible apply State.modCtx_goes
    | with_reducible apply State.each_goes
    | with_reducible apply State.touchSlots_goes
    | with_reducible refine State.Goes.snd ?_ (by with_reducible assumption)
    | with_reducible refine State.Goes.fst ?_ (by with_reducible assumption)
    | with_reducible refine State.Goes.thd ?_ (by with_reducible assumption)
    | apply State.Goes.foldl
    | apply State.Goes.foldlFst
    | apply State.Goes.foldlSnd
    | apply State.Goes.foldlThd
    | apply State.Goes.foldlFth
    | refine State.Goes.mapIsles ?_ (fun _ => rfl)
    | split
    | dsimp -zeta only
    | refine State.Goes.of (s := s) ?_ rfl rfl rfl rfl rfl rfl rfl rfl id (fun _ => id)

theorem State.finishOp_goes {cl : Bool} {r s : State} (h : r.Goes cl s) {k : IsleNo} {c : CtxNo} :
    r.Goes cl (State.finishOp s k c) := by
  unfold State.finishOp
  repeat' first
    | with_reducible assumption
    | intro _
    | with_reducible apply State.applyDue_goes
    | (extract_lets +onlyGivenNames t; refine State.Goes.cut (cl := cl) (r := r) (t := t) ?_ fun ht => ?_; subst t; rotate_left; clear_value t)
    | extract_lets +onlyGivenNames _
    | with_reducible apply State.sendWords_goes
    | with_reducible apply State.modCtx_goes
    | with_reducible apply State.modCnt_goes
    | split

theorem State.sendPart_goes {cl : Bool} {r s : State} (h : r.Goes cl s) {k : IsleNo} {c : CtxNo} :
    r.Goes cl (State.sendPart s k c) := by
  unfold State.sendPart
  repeat' first
    | with_reducible assumption
    | intro _
    | (extract_lets +onlyGivenNames t; refine State.Goes.cut (cl := cl) (r := r) (t := t) ?_ fun ht => ?_; subst t; rotate_left; clear_value t)
    | extract_lets +onlyGivenNames _
    | with_reducible apply State.modCtx_goes
    | with_reducible apply State.sendWords_goes
    | with_reducible refine State.Goes.snd ?_ (by with_reducible assumption)
    | with_reducible refine State.Goes.fst ?_ (by with_reducible assumption)
    | with_reducible refine State.Goes.thd ?_ (by with_reducible assumption)
    | apply State.Goes.foldl
    | apply State.Goes.foldlFst
    | apply State.Goes.foldlSnd
    | apply State.Goes.foldlThd
    | apply State.Goes.foldlFth
    | refine State.Goes.mapIsles ?_ (fun _ => rfl)
    | split
    | dsimp -zeta only
    | refine State.Goes.of (s := s) ?_ rfl rfl rfl rfl rfl rfl rfl rfl id (fun _ => id)

theorem State.parityMet_goes {cl : Bool} {r s : State} (h : r.Goes cl s) {v : Serves} {draining : Bool} {home : IsleNo} :
    r.Goes cl (State.parityMet s v draining home) := by
  unfold State.parityMet
  repeat' first
    | with_reducible assumption
    | intro _
    | (extract_lets +onlyGivenNames t; refine State.Goes.cut (cl := cl) (r := r) (t := t) ?_ fun ht => ?_; subst t; rotate_left; clear_value t)
    | extract_lets +onlyGivenNames _
    | with_reducible apply State.raise_goes
    | with_reducible apply State.modFrame_goes
    | with_reducible apply State.abandonStep_goes
    | with_reducible apply State.rerunStep_goes
    | with_reducible apply State.finishFrame_goes
    | with_reducible apply State.noteParity_goes
    | with_reducible refine State.Goes.snd ?_ (by with_reducible assumption)
    | with_reducible refine State.Goes.fst ?_ (by with_reducible assumption)
    | with_reducible refine State.Goes.thd ?_ (by with_reducible assumption)
    | apply State.Goes.foldl
    | apply State.Goes.foldlFst
    | apply State.Goes.foldlSnd
    | apply State.Goes.foldlThd
    | apply State.Goes.foldlFth
    | refine State.Goes.mapIsles ?_ (fun _ => rfl)
    | split
    | dsimp -zeta only
    | refine State.Goes.of (s := s) ?_ rfl rfl rfl rfl rfl rfl rfl rfl id (fun _ => id)

theorem State.accessFault_goes {cl : Bool} {r s : State} (h : r.Goes cl s) {k : IsleNo} {c : CtxNo} {code : Nat} {home : IsleNo} {word : Nat} :
    r.Goes cl (State.accessFault s k c code home word) := by
  unfold State.accessFault
  repeat' first
    | with_reducible assumption
    | intro _
    | with_reducible apply State.noteUncorrectable_goes
    | with_reducible apply State.haltCtx_goes
    | with_reducible apply State.faultCtx_goes
    | split

theorem State.remoteFault_goes {cl : Bool} {r s : State} (h : r.Goes cl s) {i : StraitItem} {c : CtxNo} {code : Nat} {word : Nat} :
    r.Goes cl (State.remoteFault s i c code word) := by
  unfold State.remoteFault
  repeat' first
    | with_reducible assumption
    | intro _
    | (extract_lets +onlyGivenNames t; refine State.Goes.cut (cl := cl) (r := r) (t := t) ?_ fun ht => ?_; subst t; rotate_left; clear_value t)
    | extract_lets +onlyGivenNames _
    | with_reducible apply State.modIsle_goes
    | with_reducible apply State.raise_goes
    | with_reducible apply State.haltOp_goes
    | with_reducible apply State.noteUncorrectable_goes
    | with_reducible refine State.Goes.snd ?_ (by with_reducible assumption)
    | with_reducible refine State.Goes.fst ?_ (by with_reducible assumption)
    | with_reducible refine State.Goes.thd ?_ (by with_reducible assumption)
    | apply State.Goes.foldl
    | apply State.Goes.foldlFst
    | apply State.Goes.foldlSnd
    | apply State.Goes.foldlThd
    | apply State.Goes.foldlFth
    | refine State.Goes.mapIsles ?_ (fun _ => rfl)
    | split
    | dsimp -zeta only
    | refine State.Goes.of (s := s) ?_ rfl rfl rfl rfl rfl rfl rfl rfl id (fun _ => id)

theorem State.opTags_goes {cl : Bool} {r s : State} (h : r.Goes cl s) {k : IsleNo} {c : CtxNo} {as : List Access} :
    r.Goes cl (State.opTags s k c as) := by
  unfold State.opTags
  repeat' first
    | with_reducible assumption
    | intro _
    | (extract_lets +onlyGivenNames t; refine State.Goes.cut (cl := cl) (r := r) (t := t) ?_ fun ht => ?_; subst t; rotate_left; clear_value t)
    | extract_lets +onlyGivenNames _
    | with_reducible apply State.each_goes
    | with_reducible apply State.modCtx_goes
    | with_reducible apply State.modIsle_goes
    | with_reducible apply State.fillSlots_goes
    | with_reducible apply State.readSlots_goes
    | with_reducible refine State.Goes.snd ?_ (by with_reducible assumption)
    | with_reducible refine State.Goes.fst ?_ (by with_reducible assumption)
    | with_reducible refine State.Goes.thd ?_ (by with_reducible assumption)
    | exact ‹Scratchpad.Canonical _›
    | split

theorem State.countConflicts_goes {cl : Bool} {r s : State} (h : r.Goes cl s) {k : IsleNo} {as : List Access} {ws : List WordWrite} :
    r.Goes cl (State.countConflicts s k as ws) := by
  unfold State.countConflicts
  repeat' first
    | with_reducible assumption
    | intro _
    | extract_lets +onlyGivenNames _
    | with_reducible apply State.draw_goes
    | with_reducible apply State.modCnt_goes
    | with_reducible apply State.each_goes
    | with_reducible apply State.modAtoll_goes

theorem State.performOp_goes {cl : Bool} {r s : State} (h : r.Goes cl s) {k : IsleNo} {c : CtxNo} {oc : OpContext} {w : OpWork} {as : List Access} {run : Option Nat} :
    r.Goes cl (State.performOp s k c oc w as run) := by
  unfold State.performOp
  repeat' first
    | with_reducible assumption
    | intro _
    | (extract_lets +onlyGivenNames t; refine State.Goes.cut (cl := cl) (r := r) (t := t) ?_ fun ht => ?_; subst t; rotate_left; clear_value t)
    | extract_lets +onlyGivenNames _
    | with_reducible apply State.modCtx_goes
    | with_reducible apply State.modCnt_goes
    | with_reducible apply State.readWords_goes
    | with_reducible apply State.writeWords_goes
    | with_reducible apply State.finishOp_goes
    | with_reducible apply State.sendPart_goes
    | with_reducible apply State.parityMet_goes
    | with_reducible apply State.accessFault_goes
    | with_reducible apply State.opTags_goes
    | with_reducible apply State.countConflicts_goes
    | with_reducible apply State.atCycle_goes
    | with_reducible refine State.Goes.snd ?_ (by with_reducible assumption)
    | with_reducible refine State.Goes.fst ?_ (by with_reducible assumption)
    | with_reducible refine State.Goes.thd ?_ (by with_reducible assumption)
    | apply State.Goes.foldl
    | apply State.Goes.foldlFst
    | apply State.Goes.foldlSnd
    | apply State.Goes.foldlThd
    | apply State.Goes.foldlFth
    | refine State.Goes.mapIsles ?_ (fun _ => rfl)
    | split
    | dsimp -zeta only
    | refine State.Goes.of (s := s) ?_ rfl rfl rfl rfl rfl rfl rfl rfl id (fun _ => id)

theorem State.countOp_goes {cl : Bool} {r s : State} (h : r.Goes cl s) {k : IsleNo} {c : CtxNo} :
    r.Goes cl (State.countOp s k c) := by
  unfold State.countOp
  repeat' first
    | with_reducible assumption
    | intro _
    | with_reducible apply State.modCtx_goes
    | with_reducible apply State.charge_goes
    | split

theorem State.dataOp_goes {cl : Bool} {r s : State} (h : r.Goes cl s) {k : IsleNo} {c : CtxNo} {op : Bytes} {run : Option Nat} {w : OpContext → OpWork} {after : OpContext → State → State} (hafter : ∀ a0 t, r.Goes cl t → r.Goes cl (after a0 t)) :
    r.Goes cl (State.dataOp s k c op run w after) := by
  unfold State.dataOp
  repeat' first
    | with_reducible assumption
    | intro _
    | with_reducible apply State.hold_goes
    | (extract_lets +onlyGivenNames t; refine State.Goes.cut (cl := cl) (r := r) (t := t) ?_ fun ht => ?_; subst t; rotate_left; clear_value t)
    | extract_lets +onlyGivenNames _
    | with_reducible apply hafter
    | with_reducible apply State.faultCtx_goes
    | with_reducible apply State.suspend_goes
    | with_reducible apply State.countOp_goes
    | with_reducible apply State.performOp_goes
    | with_reducible refine State.Goes.snd ?_ (by with_reducible assumption)
    | with_reducible refine State.Goes.fst ?_ (by with_reducible assumption)
    | with_reducible refine State.Goes.thd ?_ (by with_reducible assumption)
    | split

theorem State.opParity_goes {cl : Bool} {r s : State} (h : r.Goes cl s) {k : IsleNo} {c : CtxNo} :
    r.Goes cl (State.opParity s k c) := by
  unfold State.opParity
  repeat' first
    | with_reducible assumption
    | intro _
    | with_reducible apply State.faultCtx_goes
    | with_reducible apply State.noteOpParity_goes

theorem State.opRow_goes {cl : Bool} {r s : State} (h : r.Goes cl s) {k : IsleNo} {c : CtxNo} {key : Nat × Nat} {us : Upsets}
    {check : Bytes → State → Option Nat} {body : Bytes → State → State} (hbody : ∀ a0 t, r.Goes cl t → r.Goes cl (body a0 t)) :
    r.Goes cl (State.opRow s k c key us check body) := by
  unfold State.opRow
  repeat' first
    | with_reducible assumption
    | intro _
    | (extract_lets +onlyGivenNames t; refine State.Goes.cut (cl := cl) (r := r) (t := t) ?_ fun ht => ?_; subst t; rotate_left; clear_value t)
    | extract_lets +onlyGivenNames _
    | with_reducible apply hbody
    | with_reducible apply State.takeUnits_goes
    | with_reducible apply State.applyUpsets_goes
    | with_reducible apply State.opParity_goes
    | with_reducible apply State.faultCtx_goes
    | with_reducible apply State.finishOp_goes
    | with_reducible apply State.countOp_goes
    | with_reducible apply State.modCtx_goes
    | split

/-! ### ControlOps -/

theorem State.opNop_goes {cl : Bool} {r s : State} (h : r.Goes cl s) {k : IsleNo} {c : CtxNo} {us : Upsets} :
    r.Goes cl (State.opNop s k c us) := by
  unfold State.opNop
  repeat' first
    | with_reducible assumption
    | intro _
    | with_reducible apply State.opRow_goes
    | with_reducible apply State.modCtx_goes

theorem State.sendClaim_goes {cl : Bool} {r s : State} (h : r.Goes cl s) {k : IsleNo} {c : CtxNo} {op : Bytes} :
    r.Goes cl (State.sendClaim s k c op) := by
  unfold State.sendClaim
  repeat' first
    | with_reducible assumption
    | intro _
    | (extract_lets +onlyGivenNames t; refine State.Goes.cut (cl := cl) (r := r) (t := t) ?_ fun ht => ?_; subst t; rotate_left; clear_value t)
    | extract_lets +onlyGivenNames _
    | with_reducible apply State.modCtx_goes
    | with_reducible apply State.modCounter_goes
    | with_reducible apply State.faultCtx_goes
    | with_reducible refine State.Goes.snd ?_ (by with_reducible assumption)
    | with_reducible refine State.Goes.fst ?_ (by with_reducible assumption)
    | with_reducible refine State.Goes.thd ?_ (by with_reducible assumption)
    | split

theorem State.opClaim_goes {cl : Bool} {r s : State} (h : r.Goes cl s) {k : IsleNo} {c : CtxNo} {us : Upsets} :
    r.Goes cl (State.opClaim s k c us) := by
  unfold State.opClaim
  repeat' first
    | with_reducible assumption
    | intro _
    | extract_lets +onlyGivenNames _
    | with_reducible apply State.opRow_goes
    | with_reducible apply State.faultCtx_goes
    | with_reducible apply State.modCtx_goes
    | with_reducible apply State.sendClaim_goes
    | split

theorem State.opBlockEnd_goes {cl : Bool} {r s : State} (h : r.Goes cl s) {k : IsleNo} {c : CtxNo} {us : Upsets} :
    r.Goes cl (State.opBlockEnd s k c us) := by
  unfold State.opBlockEnd
  repeat' first
    | with_reducible assumption
    | intro _
    | with_reducible apply State.opRow_goes
    | with_reducible apply State.faultCtx_goes
    | with_reducible apply State.modCounter_goes
    | with_reducible apply State.modCtx_goes
    | with_reducible refine State.Goes.snd ?_ (by with_reducible assumption)
    | with_reducible refine State.Goes.fst ?_ (by with_reducible assumption)
    | with_reducible refine State.Goes.thd ?_ (by with_reducible assumption)
    | split

theorem State.opSetix_goes {cl : Bool} {r s : State} (h : r.Goes cl s) {k : IsleNo} {c : CtxNo} {us : Upsets} :
    r.Goes cl (State.opSetix s k c us) := by
  unfold State.opSetix
  repeat' first
    | with_reducible assumption
    | intro _
    | extract_lets +onlyGivenNames _
    | with_reducible apply State.opRow_goes
    | with_reducible apply State.modCtx_goes

theorem State.opHalt_goes {cl : Bool} {r s : State} (h : r.Goes cl s) {k : IsleNo} {c : CtxNo} {us : Upsets} :
    r.Goes cl (State.opHalt s k c us) := by
  unfold State.opHalt
  repeat' first
    | with_reducible assumption
    | intro _
    | with_reducible apply State.opRow_goes
    | with_reducible apply State.modCtx_goes

theorem State.opSetseed_goes {cl : Bool} {r s : State} (h : r.Goes cl s) {k : IsleNo} {c : CtxNo} {us : Upsets} :
    r.Goes cl (State.opSetseed s k c us) := by
  unfold State.opSetseed
  repeat' first
    | with_reducible assumption
    | intro _
    | with_reducible apply State.opRow_goes
    | with_reducible apply State.modCtx_goes

theorem State.signal_goes {cl : Bool} {r s : State} (h : r.Goes cl s) {k : IsleNo} {c : CtxNo} {op : Bytes} :
    r.Goes cl (State.signal s k c op) := by
  unfold State.signal
  repeat' first
    | with_reducible assumption
    | intro _
    | extract_lets +onlyGivenNames _
    | with_reducible apply State.writeWord_goes
    | with_reducible apply State.fillSlots_goes
    | with_reducible apply State.modCtx_goes
    | with_reducible refine State.Goes.snd ?_ (by with_reducible assumption)
    | with_reducible refine State.Goes.fst ?_ (by with_reducible assumption)
    | with_reducible refine State.Goes.thd ?_ (by with_reducible assumption)
    | split
    | dsimp -zeta only
    | (clear_value *; split)

theorem State.endFence_goes {cl : Bool} {r s : State} (h : r.Goes cl s) {k : IsleNo} {c : CtxNo} {op : Bytes} :
    r.Goes cl (State.endFence s k c op) := by
  unfold State.endFence
  repeat' first
    | with_reducible assumption
    | intro _
    | (extract_lets +onlyGivenNames t; refine State.Goes.cut (cl := cl) (r := r) (t := t) ?_ fun ht => ?_; subst t; rotate_left; clear_value t)
    | extract_lets +onlyGivenNames _
    | with_reducible apply State.signal_goes
    | with_reducible apply State.modCtx_goes
    | with_reducible apply State.sendWords_goes
    | split

theorem State.opFence_goes {cl : Bool} {r s : State} (h : r.Goes cl s) {k : IsleNo} {c : CtxNo} {us : Upsets} :
    r.Goes cl (State.opFence s k c us) := by
  unfold State.opFence
  repeat' first
    | with_reducible assumption
    | intro _
    | (extract_lets +onlyGivenNames t; refine State.Goes.cut (cl := cl) (r := r) (t := t) ?_ fun ht => ?_; subst t; rotate_left; clear_value t)
    | extract_lets +onlyGivenNames _
    | with_reducible apply State.opRow_goes
    | with_reducible apply State.faultCtx_goes
    | with_reducible apply State.modCtx_goes
    | with_reducible apply State.endFence_goes
    | with_reducible refine State.Goes.snd ?_ (by with_reducible assumption)
    | with_reducible refine State.Goes.fst ?_ (by with_reducible assumption)
    | with_reducible refine State.Goes.thd ?_ (by with_reducible assumption)
    | split
    | dsimp -zeta only
    | (clear_value *; split)

theorem State.askWait_goes {cl : Bool} {r s : State} (h : r.Goes cl s) {k : IsleNo} {c : CtxNo} {dst : IsleNo} {n : AtollNo} {slot : Nat} :
    r.Goes cl (State.askWait s k c dst n slot) := by
  unfold State.askWait
  repeat' first
    | with_reducible assumption
    | intro _
    | (extract_lets +onlyGivenNames t; refine State.Goes.cut (cl := cl) (r := r) (t := t) ?_ fun ht => ?_; subst t; rotate_left; clear_value t)
    | extract_lets +onlyGivenNames _
    | with_reducible apply State.modCtx_goes
    | with_reducible apply State.askRemote_goes
    | with_reducible refine State.Goes.snd ?_ (by with_reducible assumption)
    | with_reducible refine State.Goes.fst ?_ (by with_reducible assumption)
    | with_reducible refine State.Goes.thd ?_ (by with_reducible assumption)
    | apply State.Goes.foldl
    | apply State.Goes.foldlFst
    | apply State.Goes.foldlSnd
    | apply State.Goes.foldlThd
    | apply State.Goes.foldlFth
    | refine State.Goes.mapIsles ?_ (fun _ => rfl)
    | split
    | dsimp -zeta only
    | refine State.Goes.of (s := s) ?_ rfl rfl rfl rfl rfl rfl rfl rfl id (fun _ => id)

theorem State.opWait_goes {cl : Bool} {r s : State} (h : r.Goes cl s) {k : IsleNo} {c : CtxNo} {us : Upsets} :
    r.Goes cl (State.opWait s k c us) := by
  unfold State.opWait
  repeat' first
    | with_reducible assumption
    | intro _
    | with_reducible apply State.askWait_goes
    | (extract_lets +onlyGivenNames t; refine State.Goes.cut (cl := cl) (r := r) (t := t) ?_ fun ht => ?_; subst t; rotate_left; clear_value t)
    | extract_lets +onlyGivenNames _
    | with_reducible apply State.opRow_goes
    | with_reducible apply State.faultCtx_goes
    | with_reducible apply State.modCtx_goes
    | with_reducible apply State.emptySlots_goes
    | with_reducible apply State.askRemote_goes
    | with_reducible refine State.Goes.snd ?_ (by with_reducible assumption)
    | with_reducible refine State.Goes.fst ?_ (by with_reducible assumption)
    | with_reducible refine State.Goes.thd ?_ (by with_reducible assumption)
    | split

/-! ### DataOps -/

theorem State.workRow_goes {cl : Bool} {r s : State} (h : r.Goes cl s) {k : IsleNo} {c : CtxNo} {run : Option Nat} {us : Upsets} {key : Nat × Nat} {w : OpContext → OpWork} :
    r.Goes cl (State.workRow s k c run us key w) := by
  unfold State.workRow
  repeat' first
    | with_reducible assumption
    | intro _
    | with_reducible apply State.opRow_goes
    | with_reducible apply State.dataOp_goes

theorem State.intake_goes {cl : Bool} {r s : State} (h : r.Goes cl s) {k : SlotNo} {n : Nat} {an : Bytes} {rec : Bytes} {index : Nat} :
    r.Goes cl (State.intake s k n an rec index) := by
  unfold State.intake
  repeat' first
    | with_reducible assumption
    | intro _
    | (extract_lets +onlyGivenNames t; refine State.Goes.cut (cl := cl) (r := r) (t := t) ?_ fun ht => ?_; subst t; rotate_left; clear_value t)
    | extract_lets +onlyGivenNames _
    | with_reducible apply State.bump_goes
    | with_reducible apply State.modFrame_goes
    | with_reducible apply State.raiseFrame_goes
    | split

theorem State.takeRecords_goes {cl : Bool} {r s : State} (h : r.Goes cl s) {v : Serves} {oc : OpContext} {words : List Int} :
    r.Goes cl (State.takeRecords s v oc words) := by
  unfold State.takeRecords
  repeat' first
    | with_reducible assumption
    | intro _
    | (extract_lets +onlyGivenNames t; refine State.Goes.cut (cl := cl) (r := r) (t := t) ?_ fun ht => ?_; subst t; rotate_left; clear_value t)
    | extract_lets +onlyGivenNames _
    | with_reducible apply State.each_goes
    | with_reducible apply State.modFrame_goes
    | with_reducible apply State.intake_goes
    | with_reducible refine State.Goes.snd ?_ (by with_reducible assumption)
    | with_reducible refine State.Goes.fst ?_ (by with_reducible assumption)
    | with_reducible refine State.Goes.thd ?_ (by with_reducible assumption)
    | apply State.Goes.foldl
    | apply State.Goes.foldlFst
    | apply State.Goes.foldlSnd
    | apply State.Goes.foldlThd
    | apply State.Goes.foldlFth
    | refine State.Goes.mapIsles ?_ (fun _ => rfl)
    | split
    | dsimp -zeta only
    | refine State.Goes.of (s := s) ?_ rfl rfl rfl rfl rfl rfl rfl rfl id (fun _ => id)

theorem State.opIntake_goes {cl : Bool} {r s : State} (h : r.Goes cl s) {k : IsleNo} {c : CtxNo} {run : Option Nat} {us : Upsets} :
    r.Goes cl (State.opIntake s k c run us) := by
  unfold State.opIntake
  repeat' first
    | with_reducible assumption
    | intro _
    | with_reducible apply State.opRow_goes
    | with_reducible apply State.dataOp_goes
    | with_reducible apply State.takeRecords_goes
    | split

theorem State.setDetections_goes {cl : Bool} {r s : State} (h : r.Goes cl s) {v : Serves} {r0 : List Detection × Nat} :
    r.Goes cl (State.setDetections s v r0) := by
  unfold State.setDetections
  repeat' first
    | with_reducible assumption
    | intro _
    | (extract_lets +onlyGivenNames t; refine State.Goes.cut (cl := cl) (r := r) (t := t) ?_ fun ht => ?_; subst t; rotate_left; clear_value t)
    | extract_lets +onlyGivenNames _
    | with_reducible apply State.modFrame_goes
    | with_reducible apply State.raiseFrame_goes
    | with_reducible refine State.Goes.snd ?_ (by with_reducible assumption)
    | with_reducible refine State.Goes.fst ?_ (by with_reducible assumption)
    | with_reducible refine State.Goes.thd ?_ (by with_reducible assumption)
    | apply State.Goes.foldl
    | apply State.Goes.foldlFst
    | apply State.Goes.foldlSnd
    | apply State.Goes.foldlThd
    | apply State.Goes.foldlFth
    | refine State.Goes.mapIsles ?_ (fun _ => rfl)
    | split
    | dsimp -zeta only
    | refine State.Goes.of (s := s) ?_ rfl rfl rfl rfl rfl rfl rfl rfl id (fun _ => id)

theorem State.opSuppress_goes {cl : Bool} {r s : State} (h : r.Goes cl s) {k : IsleNo} {c : CtxNo} {run : Option Nat} {us : Upsets} :
    r.Goes cl (State.opSuppress s k c run us) := by
  unfold State.opSuppress
  repeat' first
    | with_reducible assumption
    | intro _
    | with_reducible apply State.setDetections_goes
    | (extract_lets +onlyGivenNames t; refine State.Goes.cut (cl := cl) (r := r) (t := t) ?_ fun ht => ?_; subst t; rotate_left; clear_value t)
    | extract_lets +onlyGivenNames _
    | with_reducible apply State.opRow_goes
    | with_reducible apply State.dataOp_goes
    | with_reducible apply State.modFrame_goes
    | with_reducible apply State.raiseFrame_goes
    | with_reducible refine State.Goes.snd ?_ (by with_reducible assumption)
    | with_reducible refine State.Goes.fst ?_ (by with_reducible assumption)
    | with_reducible refine State.Goes.thd ?_ (by with_reducible assumption)
    | split

theorem State.opArgmax_goes {cl : Bool} {r s : State} (h : r.Goes cl s) {k : IsleNo} {c : CtxNo} {run : Option Nat} {us : Upsets} :
    r.Goes cl (State.opArgmax s k c run us) := by
  unfold State.opArgmax
  repeat' first
    | with_reducible assumption
    | intro _
    | with_reducible apply State.opRow_goes
    | with_reducible apply State.dataOp_goes
    | with_reducible apply State.modFrame_goes
    | with_reducible refine State.Goes.snd ?_ (by with_reducible assumption)
    | with_reducible refine State.Goes.fst ?_ (by with_reducible assumption)
    | with_reducible refine State.Goes.thd ?_ (by with_reducible assumption)
    | split

/-! ### Contexts -/

theorem State.wake_goes {cl : Bool} {r s : State} (h : r.Goes cl s) {k : IsleNo} {c : CtxNo} :
    r.Goes cl (State.wake s k c) := by
  unfold State.wake
  repeat' first
    | with_reducible assumption
    | intro _
    | with_reducible apply State.modCtx_goes

theorem State.resumeCtx_goes {cl : Bool} {r s : State} (h : r.Goes cl s) {k : IsleNo} {c : CtxNo} {t : Nat} :
    r.Goes cl (State.resumeCtx s k c t) := by
  unfold State.resumeCtx
  repeat' first
    | with_reducible assumption
    | intro _
    | (extract_lets +onlyGivenNames t; refine State.Goes.cut (cl := cl) (r := r) (t := t) ?_ fun ht => ?_; subst t; rotate_left; clear_value t)
    | extract_lets +onlyGivenNames _
    | with_reducible apply State.atCycle_goes
    | with_reducible apply State.finishOp_goes
    | with_reducible apply State.wake_goes
    | with_reducible apply State.takeUnits_goes
    | split

theorem State.waitLimit_goes {cl : Bool} {r s : State} (h : r.Goes cl s) {k : IsleNo} {c : CtxNo} :
    r.Goes cl (State.waitLimit s k c) := by
  unfold State.waitLimit
  repeat' first
    | with_reducible assumption
    | intro _
    | extract_lets +onlyGivenNames _
    | with_reducible apply State.atCycle_goes
    | with_reducible apply State.faultCtx_goes
    | split

theorem State.ctrlWrite_goes {cl : Bool} {r s : State} (h : r.Goes cl s) {k : IsleNo} {c : CtxNo} {v : BitVec 32} {w : Serves} :
    r.Goes cl (State.ctrlWrite s k c v w) := by
  unfold State.ctrlWrite
  repeat' first
    | with_reducible assumption
    | intro _
    | extract_lets +onlyGivenNames _
    | with_reducible apply State.modCtx_goes
    | with_reducible apply State.raise_goes
    | split

theorem State.pushOp_goes {cl : Bool} {r s : State} (h : r.Goes cl s) {k : IsleNo} {c : CtxNo} {op : Bytes} :
    r.Goes cl (State.pushOp s k c op) := by
  unfold State.pushOp
  repeat' first
    | with_reducible assumption
    | intro _
    | extract_lets +onlyGivenNames _
    | with_reducible apply State.faultCtx_goes
    | with_reducible apply State.modCtx_goes
    | split

/-! ### Counters -/

theorem State.refuseCounter_goes {cl : Bool} {r s : State} (h : r.Goes cl s) :
    r.Goes cl (State.refuseCounter s) := by
  unfold State.refuseCounter
  repeat' first
    | with_reducible assumption
    | intro _
    | with_reducible apply State.raise_goes

theorem State.gridOverrun_goes {cl : Bool} {r s : State} (h : r.Goes cl s) {n : CounterNo} :
    r.Goes cl (State.gridOverrun s n) := by
  unfold State.gridOverrun
  repeat' first
    | with_reducible assumption
    | intro _
    | with_reducible apply State.raise_goes
    | with_reducible apply State.failShape_goes
    | with_reducible refine State.Goes.snd ?_ (by with_reducible assumption)
    | with_reducible refine State.Goes.fst ?_ (by with_reducible assumption)
    | with_reducible refine State.Goes.thd ?_ (by with_reducible assumption)
    | split

theorem State.openCounter_goes {cl : Bool} {r s : State} (h : r.Goes cl s) {n : CounterNo} :
    r.Goes cl (State.openCounter s n) := by
  unfold State.openCounter
  repeat' first
    | with_reducible assumption
    | intro _
    | (extract_lets +onlyGivenNames t; refine State.Goes.cut (cl := cl) (r := r) (t := t) ?_ fun ht => ?_; subst t; rotate_left; clear_value t)
    | extract_lets +onlyGivenNames _
    | with_reducible apply State.modCounter_goes
    | with_reducible apply State.answerClaims_goes
    | with_reducible apply State.gridOverrun_goes
    | split

theorem State.counterCommand_goes {cl : Bool} {r s : State} (h : r.Goes cl s) {n : CounterNo} {ok : TileCounter → Bool} {f : State → State} (hf : ∀ t, r.Goes cl t → r.Goes cl (f t)) :
    r.Goes cl (State.counterCommand s n ok f) := by
  unfold State.counterCommand
  repeat' first
    | with_reducible assumption
    | intro _
    | with_reducible apply hf
    | with_reducible apply State.refuseCounter_goes
    | split

theorem State.counterOpen_goes {cl : Bool} {r s : State} (h : r.Goes cl s) {n : CounterNo} :
    r.Goes cl (State.counterOpen s n) := by
  unfold State.counterOpen
  repeat' first
    | with_reducible assumption
    | intro _
    | (extract_lets +onlyGivenNames t; refine State.Goes.cut (cl := cl) (r := r) (t := t) ?_ fun ht => ?_; subst t; rotate_left; clear_value t)
    | extract_lets +onlyGivenNames _
    | with_reducible apply State.openCounter_goes
    | with_reducible apply State.counterCommand_goes
    | with_reducible refine State.Goes.snd ?_ (by with_reducible assumption)
    | with_reducible refine State.Goes.fst ?_ (by with_reducible assumption)
    | with_reducible refine State.Goes.thd ?_ (by with_reducible assumption)
    | apply State.Goes.foldl
    | apply State.Goes.foldlFst
    | apply State.Goes.foldlSnd
    | apply State.Goes.foldlThd
    | apply State.Goes.foldlFth
    | refine State.Goes.mapIsles ?_ (fun _ => rfl)
    | split
    | dsimp -zeta only
    | refine State.Goes.of (s := s) ?_ rfl rfl rfl rfl rfl rfl rfl rfl id (fun _ => id)

theorem State.counterArm_goes {cl : Bool} {r s : State} (h : r.Goes cl s) {n : CounterNo} :
    r.Goes cl (State.counterArm s n) := by
  unfold State.counterArm
  repeat' first
    | with_reducible assumption
    | intro _
    | (extract_lets +onlyGivenNames t; refine State.Goes.cut (cl := cl) (r := r) (t := t) ?_ fun ht => ?_; subst t; rotate_left; clear_value t)
    | extract_lets +onlyGivenNames _
    | with_reducible apply State.modCounter_goes
    | with_reducible apply State.counterCommand_goes
    | with_reducible refine State.Goes.snd ?_ (by with_reducible assumption)
    | with_reducible refine State.Goes.fst ?_ (by with_reducible assumption)
    | with_reducible refine State.Goes.thd ?_ (by with_reducible assumption)
    | apply State.Goes.foldl
    | apply State.Goes.foldlFst
    | apply State.Goes.foldlSnd
    | apply State.Goes.foldlThd
    | apply State.Goes.foldlFth
    | refine State.Goes.mapIsles ?_ (fun _ => rfl)
    | split
    | dsimp -zeta only
    | refine State.Goes.of (s := s) ?_ rfl rfl rfl rfl rfl rfl rfl rfl id (fun _ => id)

theorem State.counterClose_goes {cl : Bool} {r s : State} (h : r.Goes cl s) {n : CounterNo} :
    r.Goes cl (State.counterClose s n) := by
  unfold State.counterClose
  repeat' first
    | with_reducible assumption
    | intro _
    | (extract_lets +onlyGivenNames t; refine State.Goes.cut (cl := cl) (r := r) (t := t) ?_ fun ht => ?_; subst t; rotate_left; clear_value t)
    | extract_lets +onlyGivenNames _
    | with_reducible apply State.closeCounter_goes
    | with_reducible apply State.counterCommand_goes
    | with_reducible refine State.Goes.snd ?_ (by with_reducible assumption)
    | with_reducible refine State.Goes.fst ?_ (by with_reducible assumption)
    | with_reducible refine State.Goes.thd ?_ (by with_reducible assumption)
    | apply State.Goes.foldl
    | apply State.Goes.foldlFst
    | apply State.Goes.foldlSnd
    | apply State.Goes.foldlThd
    | apply State.Goes.foldlFth
    | refine State.Goes.mapIsles ?_ (fun _ => rfl)
    | split
    | dsimp -zeta only
    | refine State.Goes.of (s := s) ?_ rfl rfl rfl rfl rfl rfl rfl rfl id (fun _ => id)

theorem State.counterReset_goes {cl : Bool} {r s : State} (h : r.Goes cl s) {n : CounterNo} :
    r.Goes cl (State.counterReset s n) := by
  unfold State.counterReset
  repeat' first
    | with_reducible assumption
    | intro _
    | (extract_lets +onlyGivenNames t; refine State.Goes.cut (cl := cl) (r := r) (t := t) ?_ fun ht => ?_; subst t; rotate_left; clear_value t)
    | extract_lets +onlyGivenNames _
    | with_reducible apply State.modCounter_goes
    | with_reducible apply State.counterCommand_goes
    | with_reducible refine State.Goes.snd ?_ (by with_reducible assumption)
    | with_reducible refine State.Goes.fst ?_ (by with_reducible assumption)
    | with_reducible refine State.Goes.thd ?_ (by with_reducible assumption)
    | apply State.Goes.foldl
    | apply State.Goes.foldlFst
    | apply State.Goes.foldlSnd
    | apply State.Goes.foldlThd
    | apply State.Goes.foldlFth
    | refine State.Goes.mapIsles ?_ (fun _ => rfl)
    | split
    | dsimp -zeta only
    | refine State.Goes.of (s := s) ?_ rfl rfl rfl rfl rfl rfl rfl rfl id (fun _ => id)

theorem State.counterRequeue_goes {cl : Bool} {r s : State} (h : r.Goes cl s) {n : CounterNo} {index : Nat} :
    r.Goes cl (State.counterRequeue s n index) := by
  unfold State.counterRequeue
  repeat' first
    | with_reducible assumption
    | intro _
    | (extract_lets +onlyGivenNames t; refine State.Goes.cut (cl := cl) (r := r) (t := t) ?_ fun ht => ?_; subst t; rotate_left; clear_value t)
    | extract_lets +onlyGivenNames _
    | with_reducible apply State.modCounter_goes
    | with_reducible apply State.refuseCounter_goes
    | with_reducible refine State.Goes.snd ?_ (by with_reducible assumption)
    | with_reducible refine State.Goes.fst ?_ (by with_reducible assumption)
    | with_reducible refine State.Goes.thd ?_ (by with_reducible assumption)
    | apply State.Goes.foldl
    | apply State.Goes.foldlFst
    | apply State.Goes.foldlSnd
    | apply State.Goes.foldlThd
    | apply State.Goes.foldlFth
    | refine State.Goes.mapIsles ?_ (fun _ => rfl)
    | split
    | dsimp -zeta only
    | refine State.Goes.of (s := s) ?_ rfl rfl rfl rfl rfl rfl rfl rfl id (fun _ => id)

theorem State.commandWrite_goes {cl : Bool} {r s : State} (h : r.Goes cl s) {n : CounterNo} {v : Nat} :
    r.Goes cl (State.commandWrite s n v) := by
  unfold State.commandWrite
  repeat' first
    | with_reducible assumption
    | intro _
    | (extract_lets +onlyGivenNames t; refine State.Goes.cut (cl := cl) (r := r) (t := t) ?_ fun ht => ?_; subst t; rotate_left; clear_value t)
    | extract_lets +onlyGivenNames _
    | with_reducible apply State.refuseCounter_goes
    | with_reducible apply State.counterOpen_goes
    | with_reducible apply State.counterArm_goes
    | with_reducible apply State.counterClose_goes
    | with_reducible apply State.counterReset_goes
    | with_reducible apply State.counterRequeue_goes
    | with_reducible refine State.Goes.snd ?_ (by with_reducible assumption)
    | with_reducible refine State.Goes.fst ?_ (by with_reducible assumption)
    | with_reducible refine State.Goes.thd ?_ (by with_reducible assumption)
    | apply State.Goes.foldl
    | apply State.Goes.foldlFst
    | apply State.Goes.foldlSnd
    | apply State.Goes.foldlThd
    | apply State.Goes.foldlFth
    | refine State.Goes.mapIsles ?_ (fun _ => rfl)
    | split
    | dsimp -zeta only
    | refine State.Goes.of (s := s) ?_ rfl rfl rfl rfl rfl rfl rfl rfl id (fun _ => id)

theorem State.counterWrite_goes {cl : Bool} {r s : State} (h : r.Goes cl s) {n : CounterNo} {off : Fin 8} {v : BitVec 32} :
    r.Goes cl (State.counterWrite s n off v) := by
  unfold State.counterWrite
  repeat' first
    | with_reducible assumption
    | intro _
    | with_reducible apply State.commandWrite_goes
    | extract_lets +onlyGivenNames _
    | with_reducible apply State.refuseCounter_goes
    | with_reducible apply State.modCounter_goes
    | with_reducible refine State.Goes.snd ?_ (by with_reducible assumption)
    | with_reducible refine State.Goes.fst ?_ (by with_reducible assumption)
    | with_reducible refine State.Goes.thd ?_ (by with_reducible assumption)
    | split

/-! ### Straits -/

theorem State.attrWrite_goes {cl : Bool} {r s : State} (h : r.Goes cl s) {k : IsleNo} {e : Fin 33} {v : BitVec 64} :
    r.Goes cl (s.attrWrite k e v) := by
  unfold State.attrWrite
  extract_lets old new a
  with_reducible refine State.Goes.ite (fun _ => ?_) fun _ => ?_
  · with_reducible apply State.raise_goes
    exact h
  · exact State.modSp_goes h fun p hp => ⟨hp.1, hp.2⟩

theorem State.formatDone_goes {cl : Bool} {r s : State} (h : r.Goes cl s) {k : IsleNo} : r.Goes cl (s.formatDone k) :=
  State.modSp_goes h fun p hp => Scratchpad.zeroRows_canonical (p := p) (rows := p.toFormat) hp

theorem State.comeIn_goes {cl : Bool} {r s : State} (h : r.Goes cl s) {k : IsleNo} {word : Nat} {whole : Bool} :
    r.Goes cl (State.comeIn s k word whole) := by
  unfold State.comeIn
  split
  · exact State.outerAccess_goes (State.modSp_goes h fun _ g => Scratchpad.zeroRow_canonical g)
  · exact State.outerAccess_goes h

theorem State.scrub_goes {cl : Bool} {r s : State} (h : r.Goes cl s) {k : IsleNo} {us : Upsets} : r.Goes cl (s.scrub k us) := by
  unfold State.scrub
  have h0 : r.Goes cl (s.applyUpsets us.sp) := State.applyUpsets_goes h
  generalize s.applyUpsets us.sp = s0 at h0
  dsimp only
  split
  · exact h0
  · split
    · exact h0
    · rename_i row _ _
      have h1 : ∀ l, r.Goes cl (s0.each l fun s w =>
          match s.guardWord k w with
          | (some e, s) => if e = 0x4002 then s.noteUncorrectable k row else s
          | (none, s) => s) := by
        intro l
        refine State.each_goes h0 fun t w ht => ?_
        have hg := State.guardWord_goes ht (k := k) (word := w)
        split
        · rename_i e
          rw [e] at hg
          with_reducible refine State.Goes.ite (fun _ => ?_) fun _ => ?_
          · exact State.noteUncorrectable_goes hg
          · exact hg
        · rename_i e
          rw [e] at hg
          exact hg
      refine State.Goes.cut (h1 ((s0.isles[k].sp.upsets.map (·.1)).filter fun w => rowOf w == row)) fun h2 => ?_
      generalize s0.each _ _ = s1 at h2
      have h3 : ∀ b, r.Goes cl (s1.modSp k fun p => { p with scrubRow := b, scrubbedAt := s1.now }) :=
        fun b => State.modSp_goes h2 fun p hp => hp
      refine State.Goes.ite (fun _ => ?_) fun _ => ?_
      · exact State.modCnt_goes (h3 _)
      · exact h3 _

theorem State.atollDisable_goes {cl : Bool} {r s : State} (h : r.Goes cl s) {k : IsleNo} {n : AtollNo} :
    r.Goes cl (State.atollDisable s k n) := by
  unfold State.atollDisable
  repeat' first
    | with_reducible assumption
    | intro _
    | with_reducible apply State.judgeChans_goes
    | with_reducible apply State.raise_goes
    | with_reducible apply State.modAtoll_goes
    | split

theorem State.atollEnable_goes {cl : Bool} {r s : State} (h : r.Goes cl s) {k : IsleNo} {n : AtollNo} {r0 : BitVec 32} {r4 : BitVec 32} {thr : Nat} :
    r.Goes cl (State.atollEnable s k n r0 r4 thr) := by
  unfold State.atollEnable
  repeat' first
    | with_reducible assumption
    | intro _
    | with_reducible apply State.judgeChans_goes
    | with_reducible apply State.atollDisable_goes
    | extract_lets +onlyGivenNames _
    | with_reducible apply State.modAtoll_goes
    | with_reducible apply State.raise_goes
    | split

theorem State.noticeClear_goes {cl : Bool} {r s : State} (h : r.Goes cl s) {k : IsleNo} {n : AtollNo} {v : BitVec 32} :
    r.Goes cl (State.noticeClear s k n v) := by
  unfold State.noticeClear
  repeat' first
    | with_reducible assumption
    | intro _
    | with_reducible apply State.modAtoll_goes

theorem State.modRemote_goes {cl : Bool} {r s : State} (h : r.Goes cl s) {k : IsleNo} {m : Fin 16} {f : RemoteEntry → RemoteEntry} :
    r.Goes cl (State.modRemote s k m f) := by
  unfold State.modRemote
  repeat' first
    | with_reducible assumption
    | intro _
    | with_reducible apply State.modIsle_goes

theorem State.linkRequest_goes {cl : Bool} {r s : State} (h : r.Goes cl s) {k : IsleNo} {m : Fin 16} {d : IsleNo} {n : AtollNo} :
    r.Goes cl (State.linkRequest s k m d n) := by
  unfold State.linkRequest
  repeat' first
    | with_reducible assumption
    | intro _
    | with_reducible apply State.modRemote_goes
    | split

theorem State.linkAnswer_goes {cl : Bool} {r s : State} (h : r.Goes cl s) {k : IsleNo} {m : Fin 16} :
    r.Goes cl (State.linkAnswer s k m) := by
  unfold State.linkAnswer
  repeat' first
    | with_reducible assumption
    | intro _
    | extract_lets +onlyGivenNames _
    | with_reducible apply State.modAtoll_goes
    | with_reducible apply State.modRemote_goes
    | split

theorem State.settleUnlink_goes {cl : Bool} {r s : State} (h : r.Goes cl s) {k : IsleNo} {m : Fin 16} :
    r.Goes cl (State.settleUnlink s k m) := by
  unfold State.settleUnlink
  repeat' first
    | with_reducible assumption
    | intro _
    | (extract_lets +onlyGivenNames t; refine State.Goes.cut (cl := cl) (r := r) (t := t) ?_ fun ht => ?_; subst t; rotate_left; clear_value t)
    | extract_lets +onlyGivenNames _
    | with_reducible apply State.modAtoll_goes
    | with_reducible apply State.modRemote_goes
    | split

theorem State.unlink_goes {cl : Bool} {r s : State} (h : r.Goes cl s) {k : IsleNo} {m : Fin 16} :
    r.Goes cl (State.unlink s k m) := by
  unfold State.unlink
  repeat' first
    | with_reducible assumption
    | intro _
    | with_reducible apply State.modRemote_goes
    | with_reducible apply State.settleUnlink_goes

theorem State.deliver_goes {cl : Bool} {r s : State} (h : r.Goes cl s) {k : IsleNo} {i : StraitItem} :
    r.Goes cl (State.deliver s k i).2 := by
  unfold State.deliver
  repeat' first
    | with_reducible assumption
    | intro _
    | with_reducible apply State.comeIn_goes
    | with_reducible apply State.modCnt_goes
    | with_reducible apply State.writeWord_goes
    | with_reducible apply State.fillSlots_goes
    | with_reducible apply State.readSlots_goes
    | with_reducible refine State.Goes.snd ?_ (by with_reducible assumption)
    | with_reducible refine State.Goes.fst ?_ (by with_reducible assumption)
    | with_reducible refine State.Goes.thd ?_ (by with_reducible assumption)
    | split

theorem State.arrive_goes {cl : Bool} {r s : State} (h : r.Goes cl s) {k : IsleNo} {src : IsleNo} {us : Upsets} :
    r.Goes cl (State.arrive s k src us) := by
  unfold State.arrive
  repeat' first
    | with_reducible assumption
    | intro _
    | (extract_lets +onlyGivenNames t; refine State.Goes.cut (cl := cl) (r := r) (t := t) ?_ fun ht => ?_; subst t; rotate_left; clear_value t)
    | extract_lets +onlyGivenNames _
    | with_reducible apply State.modIsle_goes
    | with_reducible apply State.each_goes
    | with_reducible apply State.applyUpsets_goes
    | with_reducible apply State.finishOp_goes
    | with_reducible apply State.parityMet_goes
    | with_reducible apply State.remoteFault_goes
    | with_reducible apply State.settleUnlink_goes
    | with_reducible apply State.deliver_goes
    | with_reducible refine State.Goes.snd ?_ (by with_reducible assumption)
    | with_reducible refine State.Goes.fst ?_ (by with_reducible assumption)
    | with_reducible refine State.Goes.thd ?_ (by with_reducible assumption)
    | apply State.Goes.foldl
    | apply State.Goes.foldlFst
    | apply State.Goes.foldlSnd
    | apply State.Goes.foldlThd
    | apply State.Goes.foldlFth
    | refine State.Goes.mapIsles ?_ (fun _ => rfl)
    | split
    | dsimp -zeta only
    | refine State.Goes.of (s := s) ?_ rfl rfl rfl rfl rfl rfl rfl rfl id (fun _ => id)

theorem State.remoteReads_goes {cl : Bool} {r s : State} (h : r.Goes cl s) {k : IsleNo} {c : CtxNo} :
    r.Goes cl (State.remoteReads s k c) := by
  unfold State.remoteReads
  repeat' first
    | with_reducible assumption
    | intro _
    | with_reducible apply State.hold_goes
    | with_reducible apply State.comeIn_goes
    | (extract_lets +onlyGivenNames t; refine State.Goes.cut (cl := cl) (r := r) (t := t) ?_ fun ht => ?_; subst t; rotate_left; clear_value t)
    | extract_lets +onlyGivenNames _
    | with_reducible apply State.suspend_goes
    | with_reducible apply State.each_goes
    | with_reducible apply State.modCnt_goes
    | with_reducible apply State.charge_goes
    | with_reducible apply State.modCtx_goes
    | split

theorem State.creditReturn_goes {cl : Bool} {r s : State} (h : r.Goes cl s) {k : IsleNo} {n : AtollNo} :
    r.Goes cl (State.creditReturn s k n) := by
  unfold State.creditReturn
  repeat' first
    | with_reducible assumption
    | intro _
    | extract_lets +onlyGivenNames _
    | with_reducible apply State.modAtoll_goes
    | with_reducible apply State.modRemote_goes
    | with_reducible refine State.Goes.snd ?_ (by with_reducible assumption)
    | with_reducible refine State.Goes.fst ?_ (by with_reducible assumption)
    | with_reducible refine State.Goes.thd ?_ (by with_reducible assumption)
    | split

theorem State.wakeNotice_goes {cl : Bool} {r s : State} (h : r.Goes cl s) {k : IsleNo} {src : IsleNo} {c : CtxNo} :
    r.Goes cl (State.wakeNotice s k src c) := by
  unfold State.wakeNotice
  repeat' first
    | with_reducible assumption
    | intro _
    | (extract_lets +onlyGivenNames t; refine State.Goes.cut (cl := cl) (r := r) (t := t) ?_ fun ht => ?_; subst t; rotate_left; clear_value t)
    | extract_lets +onlyGivenNames _
    | with_reducible apply State.modIsle_goes
    | with_reducible apply State.wake_goes
    | exact ‹Scratchpad.Canonical _›
    | split

theorem State.retry_goes {cl : Bool} {r s : State} (h : r.Goes cl s) {k : IsleNo} {c : CtxNo} :
    r.Goes cl (State.retry s k c) := by
  unfold State.retry
  repeat' first
    | with_reducible assumption
    | intro _
    | with_reducible apply State.askWait_goes
    | (extract_lets +onlyGivenNames t; refine State.Goes.cut (cl := cl) (r := r) (t := t) ?_ fun ht => ?_; subst t; rotate_left; clear_value t)
    | extract_lets +onlyGivenNames _
    | with_reducible apply State.atCycle_goes
    | with_reducible apply State.modIsle_goes
    | with_reducible apply State.wake_goes
    | with_reducible apply State.askRemote_goes
    | with_reducible apply State.modCtx_goes
    | with_reducible apply State.suspend_goes
    | with_reducible refine State.Goes.snd ?_ (by with_reducible assumption)
    | with_reducible refine State.Goes.fst ?_ (by with_reducible assumption)
    | with_reducible refine State.Goes.thd ?_ (by with_reducible assumption)
    | exact ‹Scratchpad.Canonical _›
    | split

/-! ### MemoryCore -/

theorem State.applyMemUpsets_goes {cl : Bool} {r s : State} (h : r.Goes cl s) {us : List MemUpset} :
    r.Goes cl (State.applyMemUpsets s us) := by
  unfold State.applyMemUpsets
  repeat' first
    | with_reducible assumption
    | intro _
    | with_reducible apply State.modMem_goes
    | apply State.Goes.foldl
    | apply State.Goes.foldlFst
    | apply State.Goes.foldlSnd
    | apply State.Goes.foldlThd
    | apply State.Goes.foldlFth
    | exact ‹MemState.Canonical _›

theorem State.touchAtom_goes {cl : Bool} {r s : State} (h : r.Goes cl s) {atom : Nat} :
    r.Goes cl (State.touchAtom s atom).2 := by
  unfold State.touchAtom
  repeat' first
    | with_reducible assumption
    | intro _
    | with_reducible apply State.modMem_goes
    | with_reducible apply State.raiseOnce_goes
    | with_reducible apply State.raise_goes
    | with_reducible refine State.Goes.snd ?_ (by with_reducible assumption)
    | with_reducible refine State.Goes.fst ?_ (by with_reducible assumption)
    | with_reducible refine State.Goes.thd ?_ (by with_reducible assumption)
    | exact ‹MemState.Canonical _›
    | split

theorem State.touchAtoms_goes {cl : Bool} {r s : State} (h : r.Goes cl s) {y0 : List Nat} :
    r.Goes cl (State.touchAtoms s y0).2 := by
  induction y0 generalizing s with
  | nil =>
    unfold State.touchAtoms
    repeat' first
      | with_reducible assumption
  | cons x xs ih =>
    unfold State.touchAtoms
    repeat' first
      | with_reducible assumption
      | intro _
      | with_reducible apply ih
      | extract_lets +onlyGivenNames _
      | with_reducible apply State.touchAtom_goes

theorem State.readLine_goes {cl : Bool} {r s : State} (h : r.Goes cl s) {line : Nat} :
    r.Goes cl (State.readLine s line).2 := by
  unfold State.readLine
  repeat' first
    | with_reducible assumption
    | intro _
    | (extract_lets +onlyGivenNames t; refine State.Goes.cut (cl := cl) (r := r) (t := t) ?_ fun ht => ?_; subst t; rotate_left; clear_value t)
    | extract_lets +onlyGivenNames _
    | with_reducible apply State.modMem_goes
    | with_reducible apply State.touchAtoms_goes
    | with_reducible refine State.Goes.snd ?_ (by with_reducible assumption)
    | with_reducible refine State.Goes.fst ?_ (by with_reducible assumption)
    | with_reducible refine State.Goes.thd ?_ (by with_reducible assumption)
    | with_reducible apply MemState.install_canonical
    | with_reducible apply MemState.useLine_canonical
    | exact ‹MemState.Canonical _›
    | split

theorem State.readLines_goes {cl : Bool} {r s : State} (h : r.Goes cl s) {y0 : List Nat} :
    r.Goes cl (State.readLines s y0).2 := by
  induction y0 generalizing s with
  | nil =>
    unfold State.readLines
    repeat' first
      | with_reducible assumption
  | cons x xs ih =>
    unfold State.readLines
    repeat' first
      | with_reducible assumption
      | intro _
      | with_reducible apply ih
      | extract_lets +onlyGivenNames _
      | with_reducible apply State.readLine_goes

theorem State.readExt_goes {cl : Bool} {r s : State} (h : r.Goes cl s) {o : OwnerNo} {shared : Bool} {a : Nat} {n : Nat} :
    r.Goes cl (State.readExt s o shared a n).2.2 := by
  unfold State.readExt
  repeat' first
    | with_reducible assumption
    | intro _
    | extract_lets +onlyGivenNames _
    | with_reducible apply State.readLines_goes
    | with_reducible apply State.touchAtoms_goes
    | with_reducible refine State.Goes.snd ?_ (by with_reducible assumption)
    | with_reducible refine State.Goes.fst ?_ (by with_reducible assumption)
    | with_reducible refine State.Goes.thd ?_ (by with_reducible assumption)
    | split

theorem State.patrol_goes {cl : Bool} {r s : State} (h : r.Goes cl s) {us : Upsets} :
    r.Goes cl (State.patrol s us) := by
  unfold State.patrol
  repeat' first
    | with_reducible assumption
    | intro _
    | with_reducible apply State.atCycle_goes
    | (extract_lets +onlyGivenNames t; refine State.Goes.cut (cl := cl) (r := r) (t := t) ?_ fun ht => ?_; subst t; rotate_left; clear_value t)
    | extract_lets +onlyGivenNames _
    | with_reducible apply State.applyMemUpsets_goes
    | with_reducible apply State.raise_goes
    | with_reducible apply State.touchAtom_goes
    | with_reducible apply State.modMem_goes
    | with_reducible refine State.Goes.snd ?_ (by with_reducible assumption)
    | with_reducible refine State.Goes.fst ?_ (by with_reducible assumption)
    | with_reducible refine State.Goes.thd ?_ (by with_reducible assumption)
    | exact ‹MemState.Canonical _›
    | split

theorem State.codecWindowWrite_goes {cl : Bool} {r s : State} (h : r.Goes cl s) {n : Fin 16} {b : Bytes} :
    r.Goes cl (State.codecWindowWrite s n b) := by
  unfold State.codecWindowWrite
  repeat' first
    | with_reducible assumption
    | intro _
    | with_reducible apply State.raise_goes
    | with_reducible apply State.modMem_goes
    | exact ‹MemState.Canonical _›
    | split

/-! ### Movers -/

theorem State.queueChan_goes {cl : Bool} {r s : State} (h : r.Goes cl s) {e : Engine} {c : ChanNo} :
    r.Goes cl (State.queueChan s e c) := by
  unfold State.queueChan
  repeat' first
    | with_reducible assumption
    | intro _
    | extract_lets +onlyGivenNames _
    | with_reducible apply State.modChan_goes

theorem State.promote_goes {cl : Bool} {r s : State} (h : r.Goes cl s) {e : Engine} {c : ChanNo} :
    r.Goes cl (State.promote s e c) := by
  unfold State.promote
  repeat' first
    | with_reducible assumption
    | intro _
    | extract_lets +onlyGivenNames _
    | with_reducible apply State.modChan_goes
    | with_reducible apply State.queueChan_goes
    | split

theorem State.endFills_goes {cl : Bool} {r s : State} (h : r.Goes cl s) {e : Engine} {c : ChanNo} : r.Goes cl (State.endFills s e c) := by
  unfold State.endFills
  dsimp only
  split
  · exact State.modMem_goes h fun _ g => MemState.install_canonical g
  · exact h

theorem State.haltChan_goes {cl : Bool} {r s : State} (h : r.Goes cl s) {e : Engine} {c : ChanNo} {code : Nat} {served : Nat} :
    r.Goes cl (State.haltChan s e c code served) := by
  unfold State.haltChan
  repeat' first
    | with_reducible assumption
    | intro _
    | with_reducible apply State.endFills_goes
    | (extract_lets +onlyGivenNames t; refine State.Goes.cut (cl := cl) (r := r) (t := t) ?_ fun ht => ?_; subst t; rotate_left; clear_value t)
    | extract_lets +onlyGivenNames _
    | with_reducible apply State.modChan_goes
    | with_reducible apply State.emit_goes
    | with_reducible apply State.failServed_goes

theorem State.faultChan_goes {cl : Bool} {r s : State} (h : r.Goes cl s) {e : Engine} {c : ChanNo} {code : Nat} :
    r.Goes cl (State.faultChan s e c code) := by
  unfold State.faultChan
  repeat' first
    | with_reducible assumption
    | intro _
    | extract_lets +onlyGivenNames _
    | with_reducible apply State.raise_goes
    | with_reducible apply State.noteOverrun_goes
    | with_reducible apply State.haltChan_goes

theorem State.memoryFault_goes {cl : Bool} {r s : State} (h : r.Goes cl s) {e : Engine} {c : ChanNo} {addr : Nat} :
    r.Goes cl (State.memoryFault s e c addr) := by
  unfold State.memoryFault
  repeat' first
    | with_reducible assumption
    | intro _
    | (extract_lets +onlyGivenNames t; refine State.Goes.cut (cl := cl) (r := r) (t := t) ?_ fun ht => ?_; subst t; rotate_left; clear_value t)
    | extract_lets +onlyGivenNames _
    | with_reducible apply State.raise_goes
    | with_reducible apply State.haltChan_goes
    | with_reducible apply State.addReason_goes
    | with_reducible apply State.faultChan_goes
    | with_reducible apply State.modSlot_goes
    | with_reducible refine State.Goes.snd ?_ (by with_reducible assumption)
    | with_reducible refine State.Goes.fst ?_ (by with_reducible assumption)
    | with_reducible refine State.Goes.thd ?_ (by with_reducible assumption)
    | split
    | dsimp -zeta only
    | (clear_value *; split)

theorem State.spFault_goes {cl : Bool} {r s : State} (h : r.Goes cl s) {e : Engine} {c : ChanNo} {code : Nat} {at_ : IsleNo × Nat} :
    r.Goes cl (State.spFault s e c code at_) := by
  unfold State.spFault
  repeat' first
    | with_reducible assumption
    | intro _
    | extract_lets +onlyGivenNames _
    | with_reducible apply State.atCycle_goes
    | with_reducible apply State.noteUncorrectable_goes
    | with_reducible apply State.haltChan_goes
    | with_reducible apply State.raise_goes
    | with_reducible apply State.noteParity_goes
    | with_reducible apply State.faultChan_goes
    | split

theorem State.readBlock_goes {cl : Bool} {r s : State} (h : r.Goes cl s) {o : OwnerNo} {t : Transfer} {b : BecType} {shared : Bool} {a : Nat} :
    r.Goes cl (State.readBlock s o t b shared a).2.2.2 := by
  unfold State.readBlock
  repeat' first
    | with_reducible assumption
    | intro _
    | extract_lets +onlyGivenNames _
    | with_reducible apply State.readExt_goes
    | with_reducible apply State.raise_goes
    | with_reducible apply State.modMem_goes
    | with_reducible refine State.Goes.snd ?_ (by with_reducible assumption)
    | with_reducible refine State.Goes.fst ?_ (by with_reducible assumption)
    | with_reducible refine State.Goes.thd ?_ (by with_reducible assumption)
    | exact ‹MemState.Canonical _›
    | split

theorem State.readRow_goes {cl : Bool} {r s : State} (h : r.Goes cl s) {e : Engine} {o : OwnerNo} {t : Transfer} {shared : Bool} {p : Nat} {r0 : Nat} {b : Nat} :
    r.Goes cl (State.readRow s e o t shared p r0 b).2.2.2 := by
  unfold State.readRow
  repeat' first
    | with_reducible assumption
    | intro _
    | with_reducible apply State.outerAccess_goes
    | with_reducible apply State.comeIn_goes
    | (extract_lets +onlyGivenNames t; refine State.Goes.cut (cl := cl) (r := r) (t := t) ?_ fun ht => ?_; subst t; rotate_left; clear_value t)
    | extract_lets +onlyGivenNames _
    | with_reducible apply State.readBlock_goes
    | with_reducible apply State.readExt_goes
    | with_reducible apply State.each_goes
    | with_reducible apply State.readWords_goes
    | with_reducible apply State.modCnt_goes
    | with_reducible refine State.Goes.snd ?_ (by with_reducible assumption)
    | with_reducible refine State.Goes.fst ?_ (by with_reducible assumption)
    | with_reducible refine State.Goes.thd ?_ (by with_reducible assumption)
    | apply State.Goes.foldl
    | apply State.Goes.foldlFst
    | apply State.Goes.foldlSnd
    | apply State.Goes.foldlThd
    | apply State.Goes.foldlFth
    | split

theorem State.readAll_goes {cl : Bool} {r s : State} (h : r.Goes cl s) {e : Engine} {o : OwnerNo} {t : Transfer} {start : Nat} :
    r.Goes cl (State.readAll s e o t start).2.2 := by
  unfold State.readAll
  repeat' first
    | with_reducible assumption
    | intro _
    | extract_lets +onlyGivenNames _
    | with_reducible apply State.readRow_goes
    | with_reducible refine State.Goes.snd ?_ (by with_reducible assumption)
    | with_reducible refine State.Goes.fst ?_ (by with_reducible assumption)
    | with_reducible refine State.Goes.thd ?_ (by with_reducible assumption)
    | apply State.Goes.foldl
    | apply State.Goes.foldlFst
    | apply State.Goes.foldlSnd
    | apply State.Goes.foldlThd
    | apply State.Goes.foldlFth
    | split

theorem State.writeChunk_goes {cl : Bool} {r s : State} (h : r.Goes cl s) {e : Engine} {o : OwnerNo} {x : Chunk} :
    r.Goes cl (State.writeChunk s e o x) := by
  unfold State.writeChunk
  repeat' first
    | with_reducible assumption
    | intro _
    | with_reducible apply State.outerAccess_goes
    | (extract_lets +onlyGivenNames t; refine State.Goes.cut (cl := cl) (r := r) (t := t) ?_ fun ht => ?_; subst t; rotate_left; clear_value t)
    | extract_lets +onlyGivenNames _
    | with_reducible apply State.extWrite_goes
    | with_reducible apply State.modMem_goes
    | with_reducible apply State.pushOp_goes
    | with_reducible apply State.modCnt_goes
    | with_reducible apply State.writeWord_goes
    | with_reducible refine State.Goes.snd ?_ (by with_reducible assumption)
    | with_reducible refine State.Goes.fst ?_ (by with_reducible assumption)
    | with_reducible refine State.Goes.thd ?_ (by with_reducible assumption)
    | exact MemState.putEth_canonical ‹MemState.Canonical _›
    | exact ‹MemState.Canonical _›
    | split

theorem State.freeBuffers_goes {cl : Bool} {r s : State} (h : r.Goes cl s) {lo : Nat} {hi : Nat} :
    r.Goes cl (State.freeBuffers s lo hi) := by
  unfold State.freeBuffers
  repeat' first
    | with_reducible assumption
    | intro _
    | extract_lets +onlyGivenNames _
    | with_reducible apply State.releaseBuffers_goes
    | with_reducible apply State.each_goes
    | with_reducible apply State.sendAck_goes

theorem State.land_goes {cl : Bool} {r s : State} (h : r.Goes cl s) {e : Engine} {o : OwnerNo} {t : Transfer} {start : Nat} {stop : Nat} {cs : List Chunk} :
    r.Goes cl (State.land s e o t start stop cs) := by
  unfold State.land
  repeat' first
    | with_reducible assumption
    | intro _
    | (extract_lets +onlyGivenNames t; refine State.Goes.cut (cl := cl) (r := r) (t := t) ?_ fun ht => ?_; subst t; rotate_left; clear_value t)
    | extract_lets +onlyGivenNames _
    | with_reducible apply State.each_goes
    | with_reducible apply State.fillSlots_goes
    | with_reducible apply State.writeChunk_goes
    | with_reducible refine State.Goes.snd ?_ (by with_reducible assumption)
    | with_reducible refine State.Goes.fst ?_ (by with_reducible assumption)
    | with_reducible refine State.Goes.thd ?_ (by with_reducible assumption)
    | apply State.Goes.foldl
    | apply State.Goes.foldlFst
    | apply State.Goes.foldlSnd
    | apply State.Goes.foldlThd
    | apply State.Goes.foldlFth
    | refine State.Goes.mapIsles ?_ (fun _ => rfl)
    | split
    | dsimp -zeta only
    | refine State.Goes.of (s := s) ?_ rfl rfl rfl rfl rfl rfl rfl rfl id (fun _ => id)

theorem State.moveOn_goes {cl : Bool} {r s : State} (h : r.Goes cl s) {e : Engine} {c : ChanNo} {n : Nat} :
    r.Goes cl (State.moveOn s e c n) := by
  have g : ∀ {o t x m cs q}, r.Goes cl ((s.land e o t x m cs).charge o 0 q) := State.charge_goes (State.land_goes h)
  unfold State.moveOn
  dsimp only
  apply State.modChan_goes
  split
  · exact State.modMem_goes g fun _ k => MemState.codedBlocks_canonical k
  · exact g

theorem State.sendOut_goes {cl : Bool} {r s : State} (h : r.Goes cl s) {k : IsleNo} {c : ChanNo} {n : Nat} {cs : List Chunk} :
    r.Goes cl (State.sendOut s k c n cs) := by
  induction cs generalizing s with
  | nil => exact h
  | cons y rest ih =>
    unfold State.sendOut
    split
    · split
      · exact h
      · dsimp only
        apply ih
        apply State.modChan_goes
        apply State.charge_goes
        apply State.modCnt_goes
        exact State.modIsle_goes h fun _ g => g
    · exact h

theorem State.leave_goes {cl : Bool} {r s : State} (h : r.Goes cl s) {e : Engine} {c : ChanNo} {n : Nat} :
    r.Goes cl (State.leave s e c n) := by
  unfold State.leave
  repeat' first
    | with_reducible assumption
    | intro _
    | (extract_lets +onlyGivenNames t; refine State.Goes.cut (cl := cl) (r := r) (t := t) ?_ fun ht => ?_; subst t; rotate_left; clear_value t)
    | extract_lets +onlyGivenNames _
    | with_reducible apply State.moveOn_goes
    | with_reducible apply State.sendOut_goes
    | with_reducible refine State.Goes.snd ?_ (by with_reducible assumption)
    | with_reducible refine State.Goes.fst ?_ (by with_reducible assumption)
    | with_reducible refine State.Goes.thd ?_ (by with_reducible assumption)
    | apply State.Goes.foldl
    | apply State.Goes.foldlFst
    | apply State.Goes.foldlSnd
    | apply State.Goes.foldlThd
    | apply State.Goes.foldlFth
    | refine State.Goes.mapIsles ?_ (fun _ => rfl)
    | split
    | dsimp -zeta only
    | refine State.Goes.of (s := s) ?_ rfl rfl rfl rfl rfl rfl rfl rfl id (fun _ => id)

theorem State.completeChan_goes {cl : Bool} {r s : State} (h : r.Goes cl s) {e : Engine} {c : ChanNo} :
    r.Goes cl (State.completeChan s e c) := by
  unfold State.completeChan
  repeat' first
    | with_reducible assumption
    | intro _
    | with_reducible apply State.endFills_goes
    | (extract_lets +onlyGivenNames t; refine State.Goes.cut (cl := cl) (r := r) (t := t) ?_ fun ht => ?_; subst t; rotate_left; clear_value t)
    | extract_lets +onlyGivenNames _
    | with_reducible apply State.modChan_goes
    | with_reducible apply State.charge_goes
    | with_reducible apply State.readSlots_goes
    | with_reducible apply State.modMem_goes
    | with_reducible apply State.freeBuffers_goes
    | with_reducible apply State.emit_goes
    | with_reducible apply State.promote_goes
    | with_reducible apply MemState.codedBlocks_canonical
    | with_reducible apply MemState.install_canonical
    | exact ‹MemState.Canonical _›
    | split

theorem State.startTransfer_goes {cl : Bool} {r s : State} (h : r.Goes cl s) {e : Engine} {us : Upsets} :
    r.Goes cl (State.startTransfer s e us) := by
  unfold State.startTransfer
  repeat' first
    | with_reducible assumption
    | intro _
    | (extract_lets +onlyGivenNames t; refine State.Goes.cut (cl := cl) (r := r) (t := t) ?_ fun ht => ?_; subst t; rotate_left; clear_value t)
    | extract_lets +onlyGivenNames _
    | with_reducible apply State.applyUpsets_goes
    | with_reducible apply State.applyMemUpsets_goes
    | with_reducible apply State.modEngine_goes
    | with_reducible apply State.faultChan_goes
    | with_reducible apply State.modChan_goes
    | with_reducible apply State.completeChan_goes
    | with_reducible apply State.readAll_goes
    | with_reducible apply State.memoryFault_goes
    | with_reducible apply State.spFault_goes
    | with_reducible refine State.Goes.snd ?_ (by with_reducible assumption)
    | with_reducible refine State.Goes.fst ?_ (by with_reducible assumption)
    | with_reducible refine State.Goes.thd ?_ (by with_reducible assumption)
    | split
    | dsimp -zeta only
    | (clear_value *; split)

theorem State.completeTransfer_goes {cl : Bool} {r s : State} (h : r.Goes cl s) {e : Engine} : r.Goes cl (State.completeTransfer s e) := by
  unfold State.completeTransfer
  split
  · exact h
  · dsimp only
    split
    · split
      · exact State.completeChan_goes (State.leave_goes h)
      · exact State.leave_goes h
    · exact State.completeChan_goes h

theorem State.arriveTransfer_goes {cl : Bool} {r s : State} (h : r.Goes cl s) {e : Engine} {c : ChanNo} :
    r.Goes cl (State.arriveTransfer s e c) := by
  unfold State.arriveTransfer
  repeat' first
    | with_reducible assumption
    | intro _
    | (extract_lets +onlyGivenNames t; refine State.Goes.cut (cl := cl) (r := r) (t := t) ?_ fun ht => ?_; subst t; rotate_left; clear_value t)
    | extract_lets +onlyGivenNames _
    | with_reducible apply State.modChan_goes
    | with_reducible apply State.land_goes
    | with_reducible apply State.moveOn_goes
    | with_reducible refine State.Goes.snd ?_ (by with_reducible assumption)
    | with_reducible refine State.Goes.fst ?_ (by with_reducible assumption)
    | with_reducible refine State.Goes.thd ?_ (by with_reducible assumption)
    | apply State.Goes.foldl
    | apply State.Goes.foldlFst
    | apply State.Goes.foldlSnd
    | apply State.Goes.foldlThd
    | apply State.Goes.foldlFth
    | refine State.Goes.mapIsles ?_ (fun _ => rfl)
    | split
    | dsimp -zeta only
    | refine State.Goes.of (s := s) ?_ rfl rfl rfl rfl rfl rfl rfl rfl id (fun _ => id)

theorem State.pauseChan_goes {cl : Bool} {r s : State} (h : r.Goes cl s) {e : Engine} {c : ChanNo} :
    r.Goes cl (State.pauseChan s e c) := by
  unfold State.pauseChan
  repeat' first
    | with_reducible assumption
    | intro _
    | with_reducible apply State.modChan_goes

theorem State.chanPaused_goes {cl : Bool} {r s : State} (h : r.Goes cl s) {e : Engine} {c : ChanNo} {n : Nat} :
    r.Goes cl (State.chanPaused s e c n) := by
  unfold State.chanPaused
  repeat' first
    | with_reducible assumption
    | intro _
    | with_reducible apply State.endFills_goes
    | with_reducible apply State.leave_goes
    | with_reducible apply State.completeChan_goes
    | (extract_lets +onlyGivenNames t; refine State.Goes.cut (cl := cl) (r := r) (t := t) ?_ fun ht => ?_; subst t; rotate_left; clear_value t)
    | extract_lets +onlyGivenNames _
    | with_reducible apply State.charge_goes
    | with_reducible apply State.fillSlots_goes
    | with_reducible apply State.modChan_goes
    | with_reducible apply State.promote_goes
    | with_reducible apply State.atCycle_goes
    | split

theorem State.resumeChan_goes {cl : Bool} {r s : State} (h : r.Goes cl s) {e : Engine} {c : ChanNo} :
    r.Goes cl (State.resumeChan s e c) := by
  unfold State.resumeChan
  repeat' first
    | with_reducible assumption
    | intro _
    | (extract_lets +onlyGivenNames t; refine State.Goes.cut (cl := cl) (r := r) (t := t) ?_ fun ht => ?_; subst t; rotate_left; clear_value t)
    | extract_lets +onlyGivenNames _
    | with_reducible apply State.modChan_goes
    | with_reducible apply State.queueChan_goes
    | with_reducible apply State.promote_goes
    | with_reducible refine State.Goes.snd ?_ (by with_reducible assumption)
    | with_reducible refine State.Goes.fst ?_ (by with_reducible assumption)
    | with_reducible refine State.Goes.thd ?_ (by with_reducible assumption)
    | split

theorem State.chanWaitLimit_goes {cl : Bool} {r s : State} (h : r.Goes cl s) {e : Engine} {c : ChanNo} :
    r.Goes cl (State.chanWaitLimit s e c) := by
  unfold State.chanWaitLimit
  repeat' first
    | with_reducible assumption
    | intro _
    | extract_lets +onlyGivenNames _
    | with_reducible apply State.atCycle_goes
    | with_reducible apply State.waitLimit_goes
    | with_reducible apply State.faultChan_goes
    | with_reducible refine State.Goes.snd ?_ (by with_reducible assumption)
    | with_reducible refine State.Goes.fst ?_ (by with_reducible assumption)
    | with_reducible refine State.Goes.thd ?_ (by with_reducible assumption)
    | split

theorem State.shadowWrite_goes {cl : Bool} {r s : State} (h : r.Goes cl s) {e : Engine} {c : ChanNo} {b : Bytes} :
    r.Goes cl (State.shadowWrite s e c b) := by
  unfold State.shadowWrite
  repeat' first
    | with_reducible assumption
    | intro _
    | with_reducible apply State.raise_goes
    | with_reducible apply State.modChan_goes
    | with_reducible apply State.promote_goes
    | split

theorem State.chanCtrl_goes {cl : Bool} {r s : State} (h : r.Goes cl s) {e : Engine} {c : ChanNo} {ctrl : BitVec 32} {v : Serves} :
    r.Goes cl (State.chanCtrl s e c ctrl v) := by
  unfold State.chanCtrl
  repeat' first
    | with_reducible assumption
    | intro _
    | with_reducible apply State.modChan_goes
    | with_reducible apply State.promote_goes

theorem onChan_goes {cl : Bool} {r s : State} (h : r.Goes cl s) {e : Engine} {c : ChanNo} {f : State → State} (hf : ∀ t, r.Goes cl t → r.Goes cl (f t)) :
    r.Goes cl (onChan e c f s) := by
  unfold onChan
  repeat' first
    | with_reducible assumption
    | intro _
    | with_reducible apply hf
    | split

/-- A window that is not refused is legal. -/
theorem windowBad_legal {s : State} {o : OwnerNo} {b : Bytes} {secure : Bool} (h : ¬ s.windowBad o b secure = true) :
    (windowOf b).Legal s.memTop := by
  simp only [State.windowBad, Bool.or_eq_true, Bool.and_eq_true, not_or, not_and, bne_iff_ne, beq_iff_eq, decide_eq_true_eq] at h
  obtain ⟨⟨⟨⟨⟨⟨⟨⟨⟨⟨⟨⟨⟨⟨h1, h2⟩, h3⟩, h4⟩, h5⟩, h6⟩, h7⟩, h8⟩, h9⟩, h10⟩, h11⟩, h12⟩, h13⟩, h14⟩, h15⟩ := h
  intro hs
  refine ⟨?_, fun e => ?_, fun e => ?_, fun e => ?_, fun e => ?_, fun e => ?_⟩
  · have := h7 hs; omega
  · have := h8 (.inl e); have := h10 e; omega
  · have := h9 e; omega
  · have := h8 (.inr e); have := h11 e; omega
  · have := h12 e
    simp only [Bool.not_eq_true] at this
    exact ⟨by by_contra hc; exact this.2 hc, this.1⟩
  · constructor
    · cases hh : (windowOf b).everyIsle with
      | false => rfl
      | true => exact absurd e (h13 (.inl hh))
    · by_contra hc
      exact absurd e (h13 (.inr hc))

/-- A window that is not refused is apart from every other owner's. -/
theorem windowBad_apart {s : State} {o p : OwnerNo} {b : Bytes} {secure : Bool} (h : ¬ s.windowBad o b secure = true) (hp : p ≠ o)
    (m : Fin 64) : (windowOf b).Apart s.windows[p][m] := by
  intro he hv
  simp only [State.windowBad, Bool.or_eq_true, Bool.and_eq_true, not_or, not_and, bne_iff_ne, beq_iff_eq, decide_eq_true_eq] at h
  obtain ⟨_, h⟩ := h
  have := h he
  simp only [List.any_eq_true, not_exists, not_and] at this
  have := this p (List.mem_finRange p)
  simp only [Bool.and_eq_true, bne_iff_ne, List.any_eq_true, not_exists, not_and] at this
  have := this hp s.windows[p][m] (by simp) 
  simp only [beq_iff_eq, hv, rangesMeet] at this
  simp only [Fin.getElem_fin, not_lt, Bool.not_eq_true, forall_const,
    Bool.and_eq_false_iff, decide_eq_false_iff_not] at this ⊢
  omega

theorem Window.Apart.symm {w v : Window} (h : w.Apart v) : v.Apart w := fun hv e =>
  (h (by rw [e]; exact hv) e.symm).symm

theorem Window.apart_empty (v : Window) : Window.Apart {} v := fun h => by simp at h

theorem Window.legal_empty (top : Nat) : Window.Legal top {} := fun h => absurd rfl h

theorem State.setWindow_isolated {s t : State} {o : OwnerNo} {n : Fin 64} {w : Window} (h : s.Isolated)
    (ht : t.windows = s.windows.set o (s.windows[o].set n w)) (hp : t.power.straps = s.power.straps)
    (hl : w.Legal s.memTop) (ha : ∀ p, p ≠ o → ∀ m : Fin 64, w.Apart s.windows[p][m]) : t.Isolated := by
  have hg : ∀ (p : OwnerNo) (m : Fin 64), t.windows[p][m] = if p = o ∧ m = n then w else s.windows[p][m] := by
    intro p m
    rw [ht]
    simp only [Fin.getElem_fin, Vector.getElem_set]
    by_cases e : o = p
    · subst e
      by_cases f : n = m
      · subst f
        simp
      · have : ¬ n.val = m.val := fun c => f (Fin.ext c)
        have f' : ¬ m = n := fun c => f c.symm
        simp [this, f']
    · have : ¬ o.val = p.val := fun c => e (Fin.ext c)
      have e' : ¬ p = o := fun c => e c.symm
      simp [this, e']
  have htop : t.memTop = s.memTop := by unfold State.memTop; rw [hp]
  refine ⟨fun p m => ?_, fun p q hpq m k => ?_⟩
  · rw [hg, htop]
    split
    · exact hl
    · exact h.1 p m
  · rw [hg, hg]
    split
    · rename_i e
      have : ¬ (q = o ∧ k = n) := fun c => hpq (e.1.trans c.1.symm)
      rw [if_neg this]
      exact ha q (fun c => hpq (e.1.trans c.symm)) k
    · split
      · rename_i e
        exact (ha p (fun c => hpq (c.trans e.1.symm)) m).symm
      · exact h.2 p q hpq m k

theorem State.windowWrite_goes {cl : Bool} {r s : State} (h : r.Goes cl s) {o : OwnerNo} {n : Fin 64} {b : Bytes} {secure : Bool} :
    r.Goes cl (s.windowWrite o n b secure) := by
  unfold State.windowWrite
  split
  · exact State.raise_goes h
  · split
    · exact h
    · rename_i hb _
      exact h.next ⟨rfl, le_refl _, List.prefix_refl _,
        fun hi => State.setWindow_isolated hi rfl rfl (windowBad_legal hb) fun p hp m => windowBad_apart hb hp m, id⟩ rfl rfl

/-! ### Adapt -/

theorem State.notePairCount_goes {cl : Bool} {r s : State} (h : r.Goes cl s) {k : SlotNo} :
    r.Goes cl (State.notePairCount s k) := by
  unfold State.notePairCount
  repeat' first
    | with_reducible assumption
    | intro _
    | with_reducible apply State.setNum_goes

theorem State.stepStart_goes {cl : Bool} {r s : State} (h : r.Goes cl s) {k : SlotNo} {d : Nat} {isles : BitVec 16} :
    r.Goes cl (State.stepStart s k d isles) := by
  unfold State.stepStart
  repeat' first
    | with_reducible assumption
    | intro _
    | (extract_lets +onlyGivenNames t; refine State.Goes.cut (cl := cl) (r := r) (t := t) ?_ fun ht => ?_; subst t; rotate_left; clear_value t)
    | extract_lets +onlyGivenNames _
    | with_reducible apply State.modSlot_goes
    | with_reducible apply State.charge_goes
    | with_reducible apply State.writeAdaptHeaders_goes
    | with_reducible apply State.notePairCount_goes
    | with_reducible refine State.Goes.snd ?_ (by with_reducible assumption)
    | with_reducible refine State.Goes.fst ?_ (by with_reducible assumption)
    | with_reducible refine State.Goes.thd ?_ (by with_reducible assumption)
    | split

theorem State.stepCommit_goes {cl : Bool} {r s : State} (h : r.Goes cl s) {k : SlotNo} {d : Nat} {loss : BitVec 32} {lossExp : BitVec 8} :
    r.Goes cl (State.stepCommit s k d loss lossExp) := by
  unfold State.stepCommit
  repeat' first
    | with_reducible assumption
    | intro _
    | (extract_lets +onlyGivenNames t; refine State.Goes.cut (cl := cl) (r := r) (t := t) ?_ fun ht => ?_; subst t; rotate_left; clear_value t)
    | extract_lets +onlyGivenNames _
    | with_reducible apply State.modSlot_goes
    | with_reducible apply State.writeAdaptHeaders_goes
    | with_reducible apply State.noteSets_goes
    | with_reducible apply State.setNum_goes
    | with_reducible apply State.bump_goes
    | with_reducible apply State.raise_goes
    | with_reducible refine State.Goes.snd ?_ (by with_reducible assumption)
    | with_reducible refine State.Goes.fst ?_ (by with_reducible assumption)
    | with_reducible refine State.Goes.thd ?_ (by with_reducible assumption)
    | split
    | dsimp -zeta only
    | refine State.Goes.of (s := s) ?_ rfl rfl rfl rfl rfl rfl rfl rfl id (fun _ => id)
    | refine State.Goes.of (s := by assumption) ?_ rfl rfl rfl rfl rfl rfl rfl rfl id (fun _ => id)

theorem adaptResetAct_goes {cl : Bool} {r s : State} (h : r.Goes cl s) {k : SlotNo} {w : Write} {v : OdVal} :
    r.Goes cl (adaptResetAct k w v s).2 := by
  unfold adaptResetAct
  repeat' first
    | with_reducible assumption
    | intro _
    | (extract_lets +onlyGivenNames t; refine State.Goes.cut (cl := cl) (r := r) (t := t) ?_ fun ht => ?_; subst t; rotate_left; clear_value t)
    | extract_lets +onlyGivenNames _
    | with_reducible apply always_goes
    | with_reducible apply State.each_goes
    | with_reducible apply State.abandonStep_goes
    | with_reducible apply State.modSlot_goes

end Sys2Proof.Machine
end

