-- ==== Sys2Proof/Laws/FlowsTick.lean ====
section
/-! SUPPORT. What each operation keeps and which way it goes: the tick, ingest, the front, stages and outputs. -/

namespace Sys2Proof.Machine

/-! ### Ingest -/

theorem State.makeRoom_goes {cl : Bool} {r s : State} (h : r.Goes cl s) {k : SlotNo} :
    r.Goes cl (State.makeRoom s k).2 := by
  unfold State.makeRoom
  repeat' first
    | with_reducible assumption
    | intro _
    | (extract_lets +onlyGivenNames t; refine State.Goes.cut (cl := cl) (r := r) (t := t) ?_ fun ht => ?_; subst t; rotate_left; clear_value t)
    | extract_lets +onlyGivenNames _
    | with_reducible apply State.closeEntry_goes
    | with_reducible apply State.lateEntry_goes
    | with_reducible refine State.Goes.snd ?_ (by with_reducible assumption)
    | with_reducible refine State.Goes.fst ?_ (by with_reducible assumption)
    | with_reducible refine State.Goes.thd ?_ (by with_reducible assumption)
    | split

theorem State.dgEntry_goes {cl : Bool} {r s : State} (h : r.Goes cl s) {k : SlotNo} {b : Bytes} :
    r.Goes cl (State.dgEntry s k b).2 := by
  unfold State.dgEntry
  repeat' first
    | with_reducible assumption
    | intro _
    | with_reducible apply State.ringWrite_goes
    | extract_lets +onlyGivenNames _
    | with_reducible apply State.makeRoom_goes
    | with_reducible apply State.modSlot_goes
    | with_reducible apply State.bump_goes
    | with_reducible apply State.raise_goes
    | with_reducible apply State.modEntry_goes
    | with_reducible refine State.Goes.snd ?_ (by with_reducible assumption)
    | with_reducible refine State.Goes.fst ?_ (by with_reducible assumption)
    | with_reducible refine State.Goes.thd ?_ (by with_reducible assumption)
    | split

theorem State.putPixels_goes {cl : Bool} {r s : State} (h : r.Goes cl s) {k : SlotNo} {i p line c : Nat} {pix : List (Nat × Nat)} {raw : Bytes} :
    r.Goes cl (s.putPixels k i p line c pix raw) := by
  unfold State.putPixels
  split
  · exact h
  · dsimp only
    repeat' first
      | with_reducible assumption
      | with_reducible apply State.modSlot_goes
      | with_reducible apply State.modMem_goes
      | with_reducible apply State.ringWrite_goes
      | (with_reducible refine State.Goes.ite (fun _ => ?_) fun _ => ?_)
      | exact fun _ hm => ⟨hm.1, hm.2⟩
      | split

theorem State.coverCell_goes {cl : Bool} {r s : State} (h : r.Goes cl s) {k : SlotNo} {i : Nat} {p : Nat} {line : Nat} {c : Nat} :
    r.Goes cl (State.coverCell s k i p line c) := by
  unfold State.coverCell
  repeat' first
    | with_reducible assumption
    | intro _
    | extract_lets +onlyGivenNames _
    | with_reducible apply State.ringWrite_goes
    | with_reducible refine State.Goes.snd ?_ (by with_reducible assumption)
    | with_reducible refine State.Goes.fst ?_ (by with_reducible assumption)
    | with_reducible refine State.Goes.thd ?_ (by with_reducible assumption)
    | split

theorem State.writeRun_goes {cl : Bool} {r s : State} (h : r.Goes cl s) {k : SlotNo} {i : Nat} {b : Bytes} :
    r.Goes cl (State.writeRun s k i b) := by
  unfold State.writeRun
  repeat' first
    | with_reducible assumption
    | intro _
    | (extract_lets +onlyGivenNames t; refine State.Goes.cut (cl := cl) (r := r) (t := t) ?_ fun ht => ?_; subst t; rotate_left; clear_value t)
    | extract_lets +onlyGivenNames _
    | with_reducible apply State.modEntry_goes
    | with_reducible apply State.each_goes
    | with_reducible apply State.putPixels_goes
    | with_reducible apply State.coverCell_goes
    | split

theorem State.acceptDatagram_goes {cl : Bool} {r s : State} (h : r.Goes cl s) {k : SlotNo} {i : Nat} {b : Bytes} :
    r.Goes cl (State.acceptDatagram s k i b) := by
  unfold State.acceptDatagram
  repeat' first
    | with_reducible assumption
    | intro _
    | (extract_lets +onlyGivenNames t; refine State.Goes.cut (cl := cl) (r := r) (t := t) ?_ fun ht => ?_; subst t; rotate_left; clear_value t)
    | extract_lets +onlyGivenNames _
    | with_reducible apply State.bump_goes
    | with_reducible apply State.raise_goes
    | with_reducible apply State.modSlot_goes
    | with_reducible apply State.modEntry_goes
    | with_reducible apply State.each_goes
    | with_reducible apply State.writeRun_goes
    | with_reducible apply State.closeEntry_goes
    | split

theorem State.noteSequence_goes {cl : Bool} {r s : State} (h : r.Goes cl s) {k : SlotNo} {b : Bytes} :
    r.Goes cl (State.noteSequence s k b) := by
  unfold State.noteSequence
  repeat' first
    | with_reducible assumption
    | intro _
    | (extract_lets +onlyGivenNames t; refine State.Goes.cut (cl := cl) (r := r) (t := t) ?_ fun ht => ?_; subst t; rotate_left; clear_value t)
    | extract_lets +onlyGivenNames _
    | with_reducible apply State.modOwner_goes
    | with_reducible apply State.each_goes
    | with_reducible apply State.modSlot_goes
    | with_reducible apply State.bumpBy_goes
    | split

theorem State.markDropped_goes {cl : Bool} {r s : State} (h : r.Goes cl s) {k : SlotNo} {b : Bytes} {bit : Nat} :
    r.Goes cl (State.markDropped s k b bit) := by
  unfold State.markDropped
  repeat' first
    | with_reducible assumption
    | intro _
    | with_reducible apply State.modEntry_goes
    | with_reducible refine State.Goes.snd ?_ (by with_reducible assumption)
    | with_reducible refine State.Goes.fst ?_ (by with_reducible assumption)
    | with_reducible refine State.Goes.thd ?_ (by with_reducible assumption)
    | split

theorem State.judgeDatagram_goes {cl : Bool} {r s : State} (h : r.Goes cl s) {k : SlotNo} {src : Bytes} {b : Bytes} :
    r.Goes cl (State.judgeDatagram s k src b) := by
  unfold State.judgeDatagram
  repeat' first
    | with_reducible assumption
    | intro _
    | (extract_lets +onlyGivenNames t; refine State.Goes.cut (cl := cl) (r := r) (t := t) ?_ fun ht => ?_; subst t; rotate_left; clear_value t)
    | extract_lets +onlyGivenNames _
    | with_reducible apply State.bump_goes
    | with_reducible apply State.markDropped_goes
    | with_reducible apply State.raiseOnce_goes
    | with_reducible apply State.noteSequence_goes
    | with_reducible apply State.dgEntry_goes
    | with_reducible apply State.acceptDatagram_goes
    | with_reducible refine State.Goes.snd ?_ (by with_reducible assumption)
    | with_reducible refine State.Goes.fst ?_ (by with_reducible assumption)
    | with_reducible refine State.Goes.thd ?_ (by with_reducible assumption)
    | split

theorem State.stripeDatagram_goes {cl : Bool} {r s : State} (h : r.Goes cl s) {p : EthNo} {src : Bytes} {b : Bytes} :
    r.Goes cl (State.stripeDatagram s p src b) := by
  unfold State.stripeDatagram
  repeat' first
    | with_reducible assumption
    | intro _
    | (extract_lets +onlyGivenNames t; refine State.Goes.cut (cl := cl) (r := r) (t := t) ?_ fun ht => ?_; subst t; rotate_left; clear_value t)
    | extract_lets +onlyGivenNames _
    | with_reducible apply State.bump_goes
    | with_reducible apply State.settleRing_goes
    | with_reducible apply State.judgeDatagram_goes
    | with_reducible refine State.Goes.snd ?_ (by with_reducible assumption)
    | with_reducible refine State.Goes.fst ?_ (by with_reducible assumption)
    | with_reducible refine State.Goes.thd ?_ (by with_reducible assumption)
    | split

theorem State.runTimer_goes {cl : Bool} {r s : State} (h : r.Goes cl s) {k : SlotNo} {due : Option Nat} :
    r.Goes cl (State.runTimer s k due) := by
  unfold State.runTimer
  repeat' first
    | with_reducible assumption
    | intro _
    | with_reducible apply State.atCycle_goes
    | with_reducible apply State.settleRing_goes
    | with_reducible refine State.Goes.snd ?_ (by with_reducible assumption)
    | with_reducible refine State.Goes.fst ?_ (by with_reducible assumption)
    | with_reducible refine State.Goes.thd ?_ (by with_reducible assumption)
    | split

/-! ### Inline -/

theorem State.modInline_goes {cl : Bool} {r s : State} (h : r.Goes cl s) {f : InlinePort → InlinePort} :
    r.Goes cl (State.modInline s f) := by
  unfold State.modInline
  repeat' first
    | with_reducible assumption
    | intro _
    | with_reducible apply State.modSlot_goes

theorem State.inlineBit_goes {cl : Bool} {r s : State} (h : r.Goes cl s) {b : Nat} :
    r.Goes cl (State.inlineBit s b) := by
  unfold State.inlineBit
  repeat' first
    | with_reducible assumption
    | intro _
    | with_reducible apply State.modInline_goes
    | with_reducible apply State.modFrame_goes

theorem State.inlineBitOnce_goes {cl : Bool} {r s : State} (h : r.Goes cl s) {b : Nat} {code : Nat} :
    r.Goes cl (State.inlineBitOnce s b code) := by
  unfold State.inlineBitOnce
  repeat' first
    | with_reducible assumption
    | intro _
    | with_reducible apply State.inlineBit_goes
    | with_reducible apply State.raise_goes
    | split

theorem State.syncFault_goes {cl : Bool} {r s : State} (h : r.Goes cl s) :
    r.Goes cl (State.syncFault s) := by
  unfold State.syncFault
  repeat' first
    | with_reducible assumption
    | intro _
    | with_reducible apply State.inlineBitOnce_goes
    | with_reducible apply State.modInline_goes
    | with_reducible apply State.raise_goes
    | split

theorem State.giveLine_goes {cl : Bool} {r s : State} (h : r.Goes cl s) {e : Nat} {y : Nat} {samples : List Nat} :
    r.Goes cl (State.giveLine s e y samples) := by
  unfold State.giveLine
  repeat' first
    | with_reducible assumption
    | intro _
    | extract_lets +onlyGivenNames _
    | with_reducible apply State.modFrame_goes
    | with_reducible apply State.inlineBitOnce_goes
    | with_reducible refine State.Goes.snd ?_ (by with_reducible assumption)
    | with_reducible refine State.Goes.fst ?_ (by with_reducible assumption)
    | with_reducible refine State.Goes.thd ?_ (by with_reducible assumption)
    | split

theorem State.openInline_goes {cl : Bool} {r s : State} (h : r.Goes cl s) :
    r.Goes cl (State.openInline s) := by
  unfold State.openInline
  repeat' first
    | with_reducible assumption
    | intro _
    | (extract_lets +onlyGivenNames t; refine State.Goes.cut (cl := cl) (r := r) (t := t) ?_ fun ht => ?_; subst t; rotate_left; clear_value t)
    | extract_lets +onlyGivenNames _
    | with_reducible apply State.modSlot_goes
    | with_reducible apply State.raise_goes
    | with_reducible apply State.modFrame_goes
    | with_reducible apply State.startFrame_goes
    | with_reducible apply State.finishFrame_goes
    | with_reducible refine State.Goes.snd ?_ (by with_reducible assumption)
    | with_reducible refine State.Goes.fst ?_ (by with_reducible assumption)
    | with_reducible refine State.Goes.thd ?_ (by with_reducible assumption)
    | apply State.Goes.foldl
    | apply State.Goes.foldlFst
    | apply State.Goes.foldlSnd
    | apply State.Goes.foldlThd
    | apply State.Goes.foldlFth
    | refine State.Goes.mapIsles ?_ (fun _ => rfl)
    | split
    | dsimp -zeta only
    | refine State.Goes.of (s := s) ?_ rfl rfl rfl rfl rfl rfl rfl rfl id (fun _ => id)

theorem State.inlineLine_goes {cl : Bool} {r s : State} (h : r.Goes cl s) {words : List (BitVec 24)} :
    r.Goes cl (State.inlineLine s words) := by
  unfold State.inlineLine
  repeat' first
    | with_reducible assumption
    | intro _
    | with_reducible apply State.openInline_goes
    | (extract_lets +onlyGivenNames t; refine State.Goes.cut (cl := cl) (r := r) (t := t) ?_ fun ht => ?_; subst t; rotate_left; clear_value t)
    | extract_lets +onlyGivenNames _
    | with_reducible apply State.modInline_goes
    | with_reducible apply State.inlineBit_goes
    | with_reducible apply State.giveLine_goes
    | split

theorem State.closeInline_goes {cl : Bool} {r s : State} (h : r.Goes cl s) :
    r.Goes cl (State.closeInline s) := by
  unfold State.closeInline
  repeat' first
    | with_reducible assumption
    | intro _
    | with_reducible apply State.openInline_goes
    | (extract_lets +onlyGivenNames t; refine State.Goes.cut (cl := cl) (r := r) (t := t) ?_ fun ht => ?_; subst t; rotate_left; clear_value t)
    | extract_lets +onlyGivenNames _
    | with_reducible apply State.modInline_goes
    | with_reducible apply State.modFrame_goes
    | with_reducible apply State.inlineBit_goes
    | with_reducible apply State.noteClose_goes
    | with_reducible apply State.finishFrame_goes
    | with_reducible refine State.Goes.snd ?_ (by with_reducible assumption)
    | with_reducible refine State.Goes.fst ?_ (by with_reducible assumption)
    | with_reducible refine State.Goes.thd ?_ (by with_reducible assumption)
    | split

theorem State.breakInline_goes {cl : Bool} {r s : State} (h : r.Goes cl s) {code : Nat} {words : List (BitVec 24)} :
    r.Goes cl (State.breakInline s code words) := by
  unfold State.breakInline
  repeat' first
    | with_reducible assumption
    | intro _
    | with_reducible apply State.openInline_goes
    | (extract_lets +onlyGivenNames t; refine State.Goes.cut (cl := cl) (r := r) (t := t) ?_ fun ht => ?_; subst t; rotate_left; clear_value t)
    | extract_lets +onlyGivenNames _
    | with_reducible apply State.inlineBit_goes
    | with_reducible apply State.raise_goes
    | with_reducible apply State.inlineLine_goes
    | with_reducible apply State.bump_goes
    | with_reducible apply State.closeInline_goes
    | with_reducible apply State.modInline_goes
    | split

theorem State.beginInline_goes {cl : Bool} {r s : State} (h : r.Goes cl s) {n : Nat} :
    r.Goes cl (State.beginInline s n) := by
  unfold State.beginInline
  repeat' first
    | with_reducible assumption
    | intro _
    | (extract_lets +onlyGivenNames t; refine State.Goes.cut (cl := cl) (r := r) (t := t) ?_ fun ht => ?_; subst t; rotate_left; clear_value t)
    | extract_lets +onlyGivenNames _
    | with_reducible apply State.modSlot_goes
    | with_reducible apply State.commitSlot_goes
    | with_reducible apply State.noteFirstUse_goes
    | with_reducible refine State.Goes.snd ?_ (by with_reducible assumption)
    | with_reducible refine State.Goes.fst ?_ (by with_reducible assumption)
    | with_reducible refine State.Goes.thd ?_ (by with_reducible assumption)
    | apply State.Goes.foldl
    | apply State.Goes.foldlFst
    | apply State.Goes.foldlSnd
    | apply State.Goes.foldlThd
    | apply State.Goes.foldlFth
    | refine State.Goes.mapIsles ?_ (fun _ => rfl)
    | split
    | dsimp -zeta only
    | refine State.Goes.of (s := s) ?_ rfl rfl rfl rfl rfl rfl rfl rfl id (fun _ => id)

theorem State.fvRise_goes {cl : Bool} {r s : State} (h : r.Goes cl s) {short : Bool} :
    r.Goes cl (State.fvRise s short) := by
  unfold State.fvRise
  repeat' first
    | with_reducible assumption
    | intro _
    | (extract_lets +onlyGivenNames t; refine State.Goes.cut (cl := cl) (r := r) (t := t) ?_ fun ht => ?_; subst t; rotate_left; clear_value t)
    | extract_lets +onlyGivenNames _
    | with_reducible apply State.syncFault_goes
    | with_reducible apply State.modInline_goes
    | with_reducible apply State.beginInline_goes
    | split

theorem State.fvFall_goes {cl : Bool} {r s : State} (h : r.Goes cl s) {words : List (BitVec 24)} {short : Bool} :
    r.Goes cl (State.fvFall s words short) := by
  unfold State.fvFall
  repeat' first
    | with_reducible assumption
    | intro _
    | (extract_lets +onlyGivenNames t; refine State.Goes.cut (cl := cl) (r := r) (t := t) ?_ fun ht => ?_; subst t; rotate_left; clear_value t)
    | extract_lets +onlyGivenNames _
    | with_reducible apply State.syncFault_goes
    | with_reducible apply State.inlineLine_goes
    | with_reducible apply State.closeInline_goes
    | with_reducible apply State.modInline_goes
    | split

theorem State.lineEnd_goes {cl : Bool} {r s : State} (h : r.Goes cl s) {words : List (BitVec 24)} {short : Bool} :
    r.Goes cl (State.lineEnd s words short) := by
  unfold State.lineEnd
  repeat' first
    | with_reducible assumption
    | intro _
    | (extract_lets +onlyGivenNames t; refine State.Goes.cut (cl := cl) (r := r) (t := t) ?_ fun ht => ?_; subst t; rotate_left; clear_value t)
    | extract_lets +onlyGivenNames _
    | with_reducible apply State.syncFault_goes
    | with_reducible apply State.breakInline_goes
    | with_reducible apply State.inlineLine_goes
    | split

/-! ### Front -/

theorem State.countOutside_goes {cl : Bool} {r s : State} (h : r.Goes cl s) {k : SlotNo} {f : Frame} {img : Bytes} :
    r.Goes cl (State.countOutside s k f img) := by
  unfold State.countOutside
  repeat' first
    | with_reducible assumption
    | intro _
    | (extract_lets +onlyGivenNames t; refine State.Goes.cut (cl := cl) (r := r) (t := t) ?_ fun ht => ?_; subst t; rotate_left; clear_value t)
    | extract_lets +onlyGivenNames _
    | with_reducible apply State.modSlot_goes
    | with_reducible apply State.bumpBy_goes
    | with_reducible apply State.raise_goes
    | split

theorem State.countFront_goes {cl : Bool} {r s : State} (h : r.Goes cl s) {k : SlotNo} {f : Frame} {img : Bytes} {h0 : Nat} {i : Nat} :
    r.Goes cl (State.countFront s k f img h0 i) := by
  unfold State.countFront
  repeat' first
    | with_reducible assumption
    | intro _
    | (extract_lets +onlyGivenNames t; refine State.Goes.cut (cl := cl) (r := r) (t := t) ?_ fun ht => ?_; subst t; rotate_left; clear_value t)
    | extract_lets +onlyGivenNames _
    | with_reducible apply State.setNum_goes
    | with_reducible apply State.bumpBy_goes
    | with_reducible apply State.raiseFrame_goes
    | split

theorem State.codedReads_goes {cl : Bool} {r s : State} (h : r.Goes cl s) {k : SlotNo} {f : Frame} {h0 : Nat} {i : Nat} :
    r.Goes cl (State.codedReads s k f h0 i) := by
  unfold State.codedReads
  split
  · exact h
  · split
    · exact h
    · dsimp only
      exact State.modMem_goes h fun _ g => g

theorem State.frontStripe_goes {cl : Bool} {r s : State} (h : r.Goes cl s) {k : SlotNo} {n : Nat} {i : Nat} :
    r.Goes cl (State.frontStripe s k n i) := by
  unfold State.frontStripe
  repeat' first
    | with_reducible assumption
    | intro _
    | with_reducible apply State.codedReads_goes
    | (extract_lets +onlyGivenNames t; refine State.Goes.cut (cl := cl) (r := r) (t := t) ?_ fun ht => ?_; subst t; rotate_left; clear_value t)
    | extract_lets +onlyGivenNames _
    | with_reducible apply State.countOutside_goes
    | with_reducible apply State.countFront_goes
    | with_reducible apply State.modFrame_goes
    | with_reducible apply State.modTick_goes
    | with_reducible apply State.chargeSamples_goes
    | with_reducible refine State.Goes.snd ?_ (by with_reducible assumption)
    | with_reducible refine State.Goes.fst ?_ (by with_reducible assumption)
    | with_reducible refine State.Goes.thd ?_ (by with_reducible assumption)
    | exact ⟨rfl, rfl⟩
    | split

theorem frontAct_goes {cl : Bool} {r s : State} (h : r.Goes cl s) {k : SlotNo} {sub : Nat} {w : Write} {v : OdVal} :
    r.Goes cl (frontAct k sub w v s).2 := by
  unfold frontAct
  repeat' first
    | with_reducible assumption
    | intro _
    | with_reducible apply guarded_goes
    | with_reducible apply always_goes
    | with_reducible apply State.modSlot_goes

theorem frontDefaultAct_goes {cl : Bool} {r s : State} (h : r.Goes cl s) {w : Write} {v : OdVal} :
    r.Goes cl (frontDefaultAct w v s).2 := by
  unfold frontDefaultAct
  repeat' first
    | with_reducible assumption
    | intro _
    | with_reducible apply guarded_goes
    | with_reducible apply always_goes
    | with_reducible apply State.setEntry_goes

theorem loadDefaultsAct_goes {cl : Bool} {r s : State} (h : r.Goes cl s) {k : SlotNo} {w : Write} {v : OdVal} :
    r.Goes cl (loadDefaultsAct k w v s).2 := by
  unfold loadDefaultsAct
  repeat' first
    | with_reducible assumption
    | intro _
    | with_reducible apply always_goes
    | with_reducible apply State.modSlot_goes

/-! ### Avail -/

set_option linter.tactic.unusedName false

theorem State.shedSlots_goes {cl : Bool} {r s : State} (h : r.Goes cl s) {y0 : Nat} :
    r.Goes cl (State.shedSlots s y0) := by
  induction y0 generalizing s with
  | zero =>
    unfold State.shedSlots
    repeat' first
      | with_reducible assumption
  | succ n ih =>
    unfold State.shedSlots
    repeat' first
      | with_reducible assumption
      | intro _
      | with_reducible apply ih
      | with_reducible apply State.modSlot_goes
      | with_reducible apply State.raise_goes
      | with_reducible refine State.Goes.snd ?_ (by with_reducible assumption)
      | with_reducible refine State.Goes.fst ?_ (by with_reducible assumption)
      | with_reducible refine State.Goes.thd ?_ (by with_reducible assumption)
      | split

theorem State.restoreSlot_goes {cl : Bool} {r s : State} (h : r.Goes cl s) :
    r.Goes cl (State.restoreSlot s) := by
  unfold State.restoreSlot
  repeat' first
    | with_reducible assumption
    | intro _
    | (extract_lets +onlyGivenNames t; refine State.Goes.cut (cl := cl) (r := r) (t := t) ?_ fun ht => ?_; subst t; rotate_left; clear_value t)
    | extract_lets +onlyGivenNames _
    | with_reducible apply State.modSlot_goes
    | with_reducible apply State.raise_goes
    | with_reducible refine State.Goes.snd ?_ (by with_reducible assumption)
    | with_reducible refine State.Goes.fst ?_ (by with_reducible assumption)
    | with_reducible refine State.Goes.thd ?_ (by with_reducible assumption)
    | split

theorem State.shedTest_goes {cl : Bool} {r s : State} (h : r.Goes cl s) :
    r.Goes cl (State.shedTest s) := by
  unfold State.shedTest
  repeat' first
    | with_reducible assumption
    | intro _
    | with_reducible apply State.secondFault_goes
    | with_reducible apply State.shedSlots_goes
    | with_reducible apply State.restoreSlot_goes
    | split

theorem State.settleAvail_goes {cl : Bool} {r s : State} (h : r.Goes cl s) :
    r.Goes cl (State.settleAvail s) := by
  unfold State.settleAvail
  repeat' first
    | with_reducible assumption
    | intro _
    | (extract_lets +onlyGivenNames t; refine State.Goes.cut (cl := cl) (r := r) (t := t) ?_ fun ht => ?_; subst t; rotate_left; clear_value t)
    | extract_lets +onlyGivenNames _
    | with_reducible apply State.secondFault_goes
    | with_reducible apply State.raise_goes
    | with_reducible apply State.settleError_goes
    | split
    | dsimp -zeta only
    | refine State.Goes.of (s := s) ?_ rfl rfl rfl rfl rfl rfl rfl rfl id (fun _ => id)

theorem State.returnMask_goes {cl : Bool} {r s : State} (h : r.Goes cl s) {k : IsleNo} :
    r.Goes cl (State.returnMask s k) := by
  unfold State.returnMask
  repeat' first
    | with_reducible assumption
    | intro _
    | with_reducible apply State.each_goes
    | with_reducible apply State.modCounter_goes
    | with_reducible refine State.Goes.snd ?_ (by with_reducible assumption)
    | with_reducible refine State.Goes.fst ?_ (by with_reducible assumption)
    | with_reducible refine State.Goes.thd ?_ (by with_reducible assumption)
    | split

theorem State.settleReloads_goes {cl : Bool} {r s : State} (h : r.Goes cl s) {k : IsleNo} :
    r.Goes cl (State.settleReloads s k) := by
  unfold State.settleReloads
  repeat' first
    | with_reducible assumption
    | intro _
    | with_reducible apply State.modIsle_goes
    | with_reducible apply State.returnMask_goes
    | exact ‹Scratchpad.Canonical _›
    | split

theorem State.settleClocks_goes {cl : Bool} {r s : State} (h : r.Goes cl s) :
    r.Goes cl (State.settleClocks s) := by
  unfold State.settleClocks
  repeat' first
    | with_reducible assumption
    | intro _
    | with_reducible apply State.emit_goes
    | (extract_lets +onlyGivenNames t; refine State.Goes.cut (cl := cl) (r := r) (t := t) ?_ fun ht => ?_; subst t; rotate_left; clear_value t)
    | extract_lets +onlyGivenNames _
    | with_reducible apply State.each_goes
    | with_reducible apply State.modIsle_goes
    | with_reducible apply State.modPower_goes
    | apply State.Goes.foldl
    | apply State.Goes.foldlFst
    | apply State.Goes.foldlSnd
    | apply State.Goes.foldlThd
    | apply State.Goes.foldlFth
    | rfl
    | exact ‹Scratchpad.Canonical _›
    | split

theorem State.dvfs_goes {cl : Bool} {r s : State} (h : r.Goes cl s) :
    r.Goes cl (State.dvfs s) := by
  unfold State.dvfs
  repeat' first
    | with_reducible assumption
    | intro _
    | extract_lets +onlyGivenNames _
    | with_reducible apply State.modPower_goes
    | with_reducible apply State.settleClocks_goes
    | rfl

/-! ### Tick -/

theorem State.acquire_goes {cl : Bool} {r s : State} (h : r.Goes cl s) :
    r.Goes cl (State.acquire s) := by
  unfold State.acquire
  repeat' first
    | with_reducible assumption
    | intro _
    | with_reducible apply State.modTick_goes
    | exact ⟨rfl, rfl⟩

theorem State.showSource_goes {cl : Bool} {r s : State} (h : r.Goes cl s) :
    r.Goes cl (State.showSource s) := by
  unfold State.showSource
  repeat' first
    | with_reducible assumption
    | intro _
    | (extract_lets +onlyGivenNames t; refine State.Goes.cut (cl := cl) (r := r) (t := t) ?_ fun ht => ?_; subst t; rotate_left; clear_value t)
    | extract_lets +onlyGivenNames _
    | with_reducible apply State.setNum_goes
    | with_reducible refine State.Goes.snd ?_ (by with_reducible assumption)
    | with_reducible refine State.Goes.fst ?_ (by with_reducible assumption)
    | with_reducible refine State.Goes.thd ?_ (by with_reducible assumption)
    | apply State.Goes.foldl
    | apply State.Goes.foldlFst
    | apply State.Goes.foldlSnd
    | apply State.Goes.foldlThd
    | apply State.Goes.foldlFth
    | refine State.Goes.mapIsles ?_ (fun _ => rfl)
    | split
    | dsimp -zeta only
    | refine State.Goes.of (s := s) ?_ rfl rfl rfl rfl rfl rfl rfl rfl id (fun _ => id)

theorem State.settleSync_goes {cl : Bool} {r s : State} (h : r.Goes cl s) :
    r.Goes cl (State.settleSync s) := by
  unfold State.settleSync
  repeat' first
    | with_reducible assumption
    | intro _
    | with_reducible apply State.showSource_goes
    | (extract_lets +onlyGivenNames t; refine State.Goes.cut (cl := cl) (r := r) (t := t) ?_ fun ht => ?_; subst t; rotate_left; clear_value t)
    | extract_lets +onlyGivenNames _
    | with_reducible apply State.setNum_goes
    | with_reducible apply State.acquire_goes
    | with_reducible apply State.modTick_goes
    | exact ⟨rfl, rfl⟩
    | split

theorem State.placeNext_goes {cl : Bool} {r s : State} (h : r.Goes cl s) {c : Int} :
    r.Goes cl (State.placeNext s c) := by
  unfold State.placeNext
  repeat' first
    | with_reducible assumption
    | intro _
    | with_reducible apply State.modTick_goes
    | exact ⟨rfl, rfl⟩

theorem State.closeWindow_goes {cl : Bool} {r s : State} (h : r.Goes cl s) :
    r.Goes cl (State.closeWindow s) := by
  unfold State.closeWindow
  repeat' first
    | with_reducible assumption
    | intro _
    | (extract_lets +onlyGivenNames t; refine State.Goes.cut (cl := cl) (r := r) (t := t) ?_ fun ht => ?_; subst t; rotate_left; clear_value t)
    | extract_lets +onlyGivenNames _
    | with_reducible apply State.modTick_goes
    | with_reducible apply State.raise_goes
    | with_reducible refine State.Goes.snd ?_ (by with_reducible assumption)
    | with_reducible refine State.Goes.fst ?_ (by with_reducible assumption)
    | with_reducible refine State.Goes.thd ?_ (by with_reducible assumption)
    | exact ⟨rfl, rfl⟩
    | split

theorem State.closePast_goes {cl : Bool} {r s : State} (h : r.Goes cl s) {t : Int} :
    r.Goes cl (State.closePast s t) := by
  unfold State.closePast
  repeat' first
    | with_reducible assumption
    | intro _
    | with_reducible apply State.closeWindow_goes
    | with_reducible refine State.Goes.snd ?_ (by with_reducible assumption)
    | with_reducible refine State.Goes.fst ?_ (by with_reducible assumption)
    | with_reducible refine State.Goes.thd ?_ (by with_reducible assumption)
    | split

theorem State.edgeAt_goes {cl : Bool} {r s : State} (h : r.Goes cl s) {w : EdgeWindow} {t : Int} :
    r.Goes cl (State.edgeAt s w t) := by
  unfold State.edgeAt
  repeat' first
    | with_reducible assumption
    | intro _
    | (extract_lets +onlyGivenNames t; refine State.Goes.cut (cl := cl) (r := r) (t := t) ?_ fun ht => ?_; subst t; rotate_left; clear_value t)
    | extract_lets +onlyGivenNames _
    | with_reducible apply State.modTick_goes
    | with_reducible apply State.raise_goes
    | with_reducible apply State.setNum_goes
    | with_reducible apply State.placeNext_goes
    | exact ⟨rfl, rfl⟩
    | split

theorem State.tickinEdge_goes {cl : Bool} {r s : State} (h : r.Goes cl s) {after : Nat} {falling : Bool} :
    r.Goes cl (State.tickinEdge s after falling) := by
  have g : r.Goes cl (s.modTick fun t => { t with pinAt := s.now }) := State.modTick_goes h fun _ => ⟨rfl, rfl⟩
  unfold State.tickinEdge
  dsimp only
  generalize (s.modTick fun t => { t with pinAt := s.now }) = t at g
  split
  · exact g
  · split
    · exact State.raiseOnce_goes g
    · split
      · exact g
      · split
        · exact State.closePast_goes g
        · split
          · exact State.closePast_goes g
          · split
            · exact State.raiseOnce_goes (State.closePast_goes g)
            · exact State.edgeAt_goes (State.closePast_goes g)

theorem State.lateAtDeadline_goes {cl : Bool} {r s : State} (h : r.Goes cl s) {k : SlotNo} :
    r.Goes cl (State.lateAtDeadline s k) := by
  unfold State.lateAtDeadline
  repeat' first
    | with_reducible assumption
    | intro _
    | with_reducible apply State.raise_goes
    | with_reducible apply State.finishFrame_goes
    | with_reducible refine State.Goes.snd ?_ (by with_reducible assumption)
    | with_reducible refine State.Goes.fst ?_ (by with_reducible assumption)
    | with_reducible refine State.Goes.thd ?_ (by with_reducible assumption)
    | split

theorem State.frameDone_goes {cl : Bool} {r s : State} (h : r.Goes cl s) {k : SlotNo} {n : Nat} :
    r.Goes cl (State.frameDone s k n) := by
  unfold State.frameDone
  repeat' first
    | with_reducible assumption
    | intro _
    | (extract_lets +onlyGivenNames t; refine State.Goes.cut (cl := cl) (r := r) (t := t) ?_ fun ht => ?_; subst t; rotate_left; clear_value t)
    | extract_lets +onlyGivenNames _
    | with_reducible apply State.modFrame_goes
    | with_reducible apply State.finishFrame_goes
    | with_reducible refine State.Goes.snd ?_ (by with_reducible assumption)
    | with_reducible refine State.Goes.fst ?_ (by with_reducible assumption)
    | with_reducible refine State.Goes.thd ?_ (by with_reducible assumption)
    | split

theorem State.drainCheck_goes {cl : Bool} {r s : State} (h : r.Goes cl s) :
    r.Goes cl (State.drainCheck s) := by
  unfold State.drainCheck
  repeat' first
    | with_reducible assumption
    | intro _
    | (extract_lets +onlyGivenNames t; refine State.Goes.cut (cl := cl) (r := r) (t := t) ?_ fun ht => ?_; subst t; rotate_left; clear_value t)
    | extract_lets +onlyGivenNames _
    | with_reducible apply State.each_goes
    | with_reducible apply State.modFrame_goes
    | with_reducible apply State.bump_goes
    | with_reducible apply State.raise_goes
    | with_reducible apply State.modPower_goes
    | rfl

theorem State.placeDeadlines_goes {cl : Bool} {r s : State} (h : r.Goes cl s) :
    r.Goes cl (State.placeDeadlines s) := by
  unfold State.placeDeadlines
  repeat' first
    | with_reducible assumption
    | intro _
    | with_reducible apply State.each_goes
    | with_reducible apply State.modSlot_goes

theorem State.commitDevice_goes {cl : Bool} {r s : State} (h : r.Goes cl s) :
    r.Goes cl (State.commitDevice s) := by
  unfold State.commitDevice
  repeat' first
    | with_reducible assumption
    | intro _
    | (extract_lets +onlyGivenNames t; refine State.Goes.cut (cl := cl) (r := r) (t := t) ?_ fun ht => ?_; subst t; rotate_left; clear_value t)
    | extract_lets +onlyGivenNames _
    | with_reducible apply State.each_goes
    | with_reducible apply State.setEntry_goes
    | split
    | dsimp -zeta only
    | refine State.Goes.of (s := s) ?_ rfl rfl rfl rfl rfl rfl rfl rfl id (fun _ => id)

theorem State.countCoast_goes {cl : Bool} {r s : State} (h : r.Goes cl s) :
    r.Goes cl (State.countCoast s) := by
  unfold State.countCoast
  repeat' first
    | with_reducible assumption
    | intro _
    | with_reducible apply State.setNum_goes
    | with_reducible apply State.modFw_goes
    | with_reducible refine State.Goes.snd ?_ (by with_reducible assumption)
    | with_reducible refine State.Goes.fst ?_ (by with_reducible assumption)
    | with_reducible refine State.Goes.thd ?_ (by with_reducible assumption)
    | split

theorem State.latch_goes {cl : Bool} {r s : State} (h : r.Goes cl s) {prog : Option Programme} :
    r.Goes cl (State.latch s prog) := by
  unfold State.latch
  repeat' first
    | with_reducible assumption
    | intro _
    | (extract_lets +onlyGivenNames t; refine State.Goes.cut (cl := cl) (r := r) (t := t) ?_ fun ht => ?_; subst t; rotate_left; clear_value t)
    | extract_lets +onlyGivenNames _
    | with_reducible apply State.modTick_goes
    | with_reducible apply State.modFw_goes
    | with_reducible apply State.countCoast_goes
    | with_reducible apply State.raise_goes
    | with_reducible refine State.Goes.snd ?_ (by with_reducible assumption)
    | with_reducible refine State.Goes.fst ?_ (by with_reducible assumption)
    | with_reducible refine State.Goes.thd ?_ (by with_reducible assumption)
    | exact ⟨rfl, rfl⟩
    | split

theorem State.syncReset_goes {cl : Bool} {r s : State} (h : r.Goes cl s) {pull : Bool} {period : Bool} {resync : Bool} :
    r.Goes cl (State.syncReset s pull period resync) := by
  unfold State.syncReset
  repeat' first
    | with_reducible assumption
    | intro _
    | (extract_lets +onlyGivenNames t; refine State.Goes.cut (cl := cl) (r := r) (t := t) ?_ fun ht => ?_; subst t; rotate_left; clear_value t)
    | extract_lets +onlyGivenNames _
    | with_reducible apply State.bump_goes
    | with_reducible apply State.raise_goes
    | with_reducible apply State.each_goes
    | with_reducible apply State.addReason_goes
    | split

theorem State.takeFrames_goes {cl : Bool} {r s : State} (h : r.Goes cl s) :
    r.Goes cl (State.takeFrames s) := by
  unfold State.takeFrames
  repeat' first
    | with_reducible assumption
    | intro _
    | (extract_lets +onlyGivenNames t; refine State.Goes.cut (cl := cl) (r := r) (t := t) ?_ fun ht => ?_; subst t; rotate_left; clear_value t)
    | extract_lets +onlyGivenNames _
    | with_reducible apply State.each_goes
    | with_reducible apply State.takeFrame_goes
    | with_reducible apply State.lateEntry_goes
    | with_reducible refine State.Goes.snd ?_ (by with_reducible assumption)
    | with_reducible refine State.Goes.fst ?_ (by with_reducible assumption)
    | with_reducible refine State.Goes.thd ?_ (by with_reducible assumption)
    | split

theorem State.resetFencing_goes {cl : Bool} {r s : State} (h : r.Goes cl s) :
    r.Goes cl (State.resetFencing s) := by
  unfold State.resetFencing
  repeat' first
    | with_reducible assumption
    | intro _
    | extract_lets +onlyGivenNames _
    | with_reducible apply State.each_goes
    | with_reducible apply State.returnTiles_goes
    | with_reducible apply State.resetIsle_goes
    | split

theorem State.switchResultKeys_goes {cl : Bool} {r s : State} (h : r.Goes cl s) :
    r.Goes cl (State.switchResultKeys s) := by
  unfold State.switchResultKeys
  repeat' first
    | with_reducible assumption
    | intro _
    | (extract_lets +onlyGivenNames t; refine State.Goes.cut (cl := cl) (r := r) (t := t) ?_ fun ht => ?_; subst t; rotate_left; clear_value t)
    | extract_lets +onlyGivenNames _
    | with_reducible apply State.each_goes
    | with_reducible apply State.modOwner_goes
    | with_reducible apply State.modSlot_goes
    | with_reducible refine State.Goes.snd ?_ (by with_reducible assumption)
    | with_reducible refine State.Goes.fst ?_ (by with_reducible assumption)
    | with_reducible refine State.Goes.thd ?_ (by with_reducible assumption)
    | split

theorem State.settleCharge_goes {cl : Bool} {r s : State} (h : r.Goes cl s) :
    r.Goes cl (State.settleCharge s) := by
  unfold State.settleCharge
  repeat' first
    | with_reducible assumption
    | intro _
    | with_reducible apply State.each_goes
    | with_reducible apply State.setNum_goes
    | with_reducible apply State.charge_goes
    | with_reducible apply State.modSlot_goes

theorem State.endRecovery_goes {cl : Bool} {r s : State} (h : r.Goes cl s) :
    r.Goes cl (State.endRecovery s) := by
  unfold State.endRecovery
  repeat' first
    | with_reducible assumption
    | intro _
    | (extract_lets +onlyGivenNames t; refine State.Goes.cut (cl := cl) (r := r) (t := t) ?_ fun ht => ?_; subst t; rotate_left; clear_value t)
    | extract_lets +onlyGivenNames _
    | with_reducible apply State.setNum_goes
    | with_reducible apply State.modLedger_goes
    | with_reducible apply State.modPower_goes
    | with_reducible apply State.each_goes
    | with_reducible apply State.resumeChan_goes
    | rfl
    | refine State.Goes.mapIsles ?_ (fun _ => rfl)
    | split

theorem State.yieldIfDue_goes {cl : Bool} {r s : State} (h : r.Goes cl s) :
    r.Goes cl (State.yieldIfDue s) := by
  unfold State.yieldIfDue
  repeat' first
    | with_reducible assumption
    | intro _
    | with_reducible apply State.takeRole_goes
    | with_reducible apply State.setNum_goes
    | with_reducible apply State.modSys_goes
    | with_reducible apply State.raise_goes
    | split

theorem State.startFlowResets_goes {cl : Bool} {r s : State} (h : r.Goes cl s) :
    r.Goes cl (State.startFlowResets s) := by
  unfold State.startFlowResets
  repeat' first
    | with_reducible assumption
    | intro _
    | with_reducible apply State.modSys_goes

theorem State.settleDeadlines_goes {cl : Bool} {r s : State} (h : r.Goes cl s) :
    r.Goes cl (State.settleDeadlines s) := by
  unfold State.settleDeadlines
  repeat' first
    | with_reducible assumption
    | intro _
    | with_reducible apply State.each_goes
    | with_reducible apply State.atCycle_goes
    | with_reducible apply State.lateAtDeadline_goes
    | with_reducible refine State.Goes.snd ?_ (by with_reducible assumption)
    | with_reducible refine State.Goes.fst ?_ (by with_reducible assumption)
    | with_reducible refine State.Goes.thd ?_ (by with_reducible assumption)
    | split

theorem State.frontLoad_goes {cl : Bool} {r s : State} (h : r.Goes cl s) :
    r.Goes cl (State.frontLoad s) := by
  unfold State.frontLoad
  repeat' first
    | with_reducible assumption
    | intro _
    | with_reducible apply State.setNum_goes
    | with_reducible apply State.modTick_goes
    | exact ⟨rfl, rfl⟩

theorem State.rewindow_goes {cl : Bool} {r s : State} (h : r.Goes cl s) :
    r.Goes cl (State.rewindow s) := by
  unfold State.rewindow
  repeat' first
    | with_reducible assumption
    | intro _
    | extract_lets +onlyGivenNames _
    | with_reducible apply State.modTick_goes
    | with_reducible refine State.Goes.snd ?_ (by with_reducible assumption)
    | with_reducible refine State.Goes.fst ?_ (by with_reducible assumption)
    | with_reducible refine State.Goes.thd ?_ (by with_reducible assumption)
    | exact ⟨rfl, rfl⟩
    | split

/-- The work a boundary does before its tick opens. -/
def State.upToBoundary (s : State) : State :=
  let u := (s.closePast s.tick.next).settleDeadlines
  ((u.at_ u.tick.next).each allSlots fun s k => s.settleRing k s.now).frontLoad

/-- A boundary: work up to it, the tick's number and boundary, work after it. -/
theorem State.boundary_goes (s : State) (prog : Option Programme) :
    s.Goes true s.upToBoundary ∧
      (s.upToBoundary.modTick fun t =>
        { t with number := t.load.getD ((t.number + 1) % 2 ^ 48), boundary := t.next, load := none, resync := false }).Goes
        true (s.boundary prog) := by
  have hu : s.Goes true s.upToBoundary := by
    unfold State.upToBoundary
    extract_lets +onlyGivenNames a
    have ha : s.Goes true a := State.settleDeadlines_goes (State.closePast_goes (.refl s))
    have hb : s.Goes true (a.at_ a.tick.next) := State.atCycle_goes ha
    have hc := State.each_goes (xs := allSlots) (f := fun s k => s.settleRing k s.now) hb fun _ _ h => State.settleRing_goes h
    exact State.frontLoad_goes hc
  refine ⟨hu, ?_⟩
  unfold State.boundary
  extract_lets +onlyGivenNames a b c d pull op rs e
  have hd : s.upToBoundary = d := by simp only [State.upToBoundary, d, c, b, a]
  rw [hd]
  clear hu hd
  · have he : e.Goes true e := .refl e
    have hx : (d.modTick fun t =>
        { t with number := t.load.getD ((t.number + 1) % 2 ^ 48), boundary := t.next, load := none, resync := false }) = e := by simp only [e]
    rw [hx]; clear hx
    have hr : ∃ r : State, r = e := ⟨e, rfl⟩
    obtain ⟨r, hr⟩ := hr
    rw [← hr] at he ⊢
    clear hr
    clear_value e pull op rs
    repeat' first
      | with_reducible assumption
      | intro _
      | (extract_lets +onlyGivenNames t; refine State.Goes.cut (cl := true) (r := r) (t := t) ?_ fun ht => ?_; subst t; rotate_left; clear_value t)
      | extract_lets +onlyGivenNames _
      | with_reducible apply State.closePast_goes
      | with_reducible apply State.settleDeadlines_goes
      | with_reducible apply State.atCycle_goes
      | with_reducible apply State.each_goes
      | with_reducible apply State.settleRing_goes
      | with_reducible apply State.frontLoad_goes
      | with_reducible apply State.modTick_goes
      | with_reducible apply State.settleCharge_goes
      | with_reducible apply State.abandonWhere_goes
      | with_reducible apply State.dvfs_goes
      | with_reducible apply State.drainCheck_goes
      | with_reducible apply State.epochIfDue_goes
      | with_reducible apply State.placeDeadlines_goes
      | with_reducible apply State.yieldIfDue_goes
      | with_reducible apply State.settleSync_goes
      | with_reducible apply State.rewindow_goes
      | with_reducible apply State.placeNext_goes
      | with_reducible apply State.commitDevice_goes
      | with_reducible apply State.latch_goes
      | with_reducible apply State.syncReset_goes
      | with_reducible apply State.switchResultKeys_goes
      | with_reducible apply State.settleReloads_goes
      | with_reducible apply State.resetFencing_goes
      | with_reducible apply State.settleAvail_goes
      | with_reducible apply State.shedTest_goes
      | with_reducible apply State.endRecovery_goes
      | with_reducible apply State.startFlowResets_goes
      | with_reducible apply State.modSys_goes
      | with_reducible apply State.takeFrames_goes
      | with_reducible apply State.settleError_goes
      | exact ⟨rfl, rfl⟩
      | refine State.Goes.mapIsles ?_ (fun _ => rfl)
      | split
      | dsimp -zeta only
      | refine State.Goes.of (s := by assumption) ?_ rfl rfl rfl rfl rfl rfl rfl rfl id (fun _ => id)

theorem State.openStagger_goes {cl : Bool} {r s : State} (h : r.Goes cl s) {k : IsleNo} :
    r.Goes cl (State.openStagger s k) := by
  unfold State.openStagger
  repeat' first
    | with_reducible assumption
    | intro _
    | (extract_lets +onlyGivenNames t; refine State.Goes.cut (cl := cl) (r := r) (t := t) ?_ fun ht => ?_; subst t; rotate_left; clear_value t)
    | extract_lets +onlyGivenNames _
    | with_reducible apply State.atCycle_goes
    | with_reducible apply State.boundary_goes
    | with_reducible apply State.modIsle_goes
    | exact ‹Scratchpad.Canonical _›
    | split

theorem State.slewWindow_goes {cl : Bool} {r s : State} (h : r.Goes cl s) :
    r.Goes cl (State.slewWindow s) := by
  unfold State.slewWindow
  repeat' first
    | with_reducible assumption
    | intro _
    | (extract_lets +onlyGivenNames t; refine State.Goes.cut (cl := cl) (r := r) (t := t) ?_ fun ht => ?_; subst t; rotate_left; clear_value t)
    | extract_lets +onlyGivenNames _
    | with_reducible apply State.atCycle_goes
    | with_reducible apply State.each_goes
    | with_reducible apply State.draw_goes
    | with_reducible apply State.modCnt_goes
    | with_reducible apply State.modIsle_goes
    | with_reducible apply State.modTick_goes
    | with_reducible refine State.Goes.snd ?_ (by with_reducible assumption)
    | with_reducible refine State.Goes.fst ?_ (by with_reducible assumption)
    | with_reducible refine State.Goes.thd ?_ (by with_reducible assumption)
    | exact ⟨rfl, rfl⟩
    | exact ‹Scratchpad.Canonical _›
    | split

theorem State.tickOut_goes {cl : Bool} {r s : State} (h : r.Goes cl s) :
    r.Goes cl (State.tickOut s) := by
  unfold State.tickOut
  repeat' first
    | with_reducible assumption
    | intro _
    | extract_lets +onlyGivenNames _
    | with_reducible apply State.boundary_goes
    | with_reducible apply State.atCycle_goes
    | with_reducible apply State.modTick_goes
    | exact ⟨rfl, rfl⟩
    | split

theorem resyncAct_goes {cl : Bool} {r s : State} (h : r.Goes cl s) {w : Write} {v : OdVal} :
    r.Goes cl (resyncAct w v s).2 := by
  unfold resyncAct
  repeat' first
    | with_reducible assumption
    | intro _
    | (extract_lets +onlyGivenNames t; refine State.Goes.cut (cl := cl) (r := r) (t := t) ?_ fun ht => ?_; subst t; rotate_left; clear_value t)
    | extract_lets +onlyGivenNames _
    | with_reducible apply always_goes
    | with_reducible apply State.acquire_goes
    | with_reducible apply State.modTick_goes
    | with_reducible refine State.Goes.snd ?_ (by with_reducible assumption)
    | with_reducible refine State.Goes.fst ?_ (by with_reducible assumption)
    | with_reducible refine State.Goes.thd ?_ (by with_reducible assumption)
    | exact ⟨rfl, rfl⟩
    | with_reducible apply Act.ite_goes
    | split

/-! ### Stages -/

theorem State.release_goes {cl : Bool} {r s : State} (h : r.Goes cl s) {k : SlotNo} {n : Nat} :
    r.Goes cl (State.release s k n) := by
  unfold State.release
  repeat' first
    | with_reducible assumption
    | intro _
    | extract_lets +onlyGivenNames _
    | with_reducible apply State.modFrame_goes
    | with_reducible refine State.Goes.snd ?_ (by with_reducible assumption)
    | with_reducible refine State.Goes.fst ?_ (by with_reducible assumption)
    | with_reducible refine State.Goes.thd ?_ (by with_reducible assumption)
    | split

theorem State.startStripe_goes {cl : Bool} {r s : State} (h : r.Goes cl s) {k : SlotNo} {n : Nat} {j : Nat} {i : Nat} :
    r.Goes cl (State.startStripe s k n j i) := by
  unfold State.startStripe
  repeat' first
    | with_reducible assumption
    | intro _
    | with_reducible apply State.modFrame_goes
    | with_reducible refine State.Goes.snd ?_ (by with_reducible assumption)
    | with_reducible refine State.Goes.fst ?_ (by with_reducible assumption)
    | with_reducible refine State.Goes.thd ?_ (by with_reducible assumption)
    | split

theorem State.writeState_goes {cl : Bool} {r s : State} (h : r.Goes cl s) {k : SlotNo} {f : Frame} {img : PlanImage} {desc : Nat} {d : Bytes} {j : Nat} {i : Nat} :
    r.Goes cl (State.writeState s k f img desc d j i) := by
  unfold State.writeState
  repeat' first
    | with_reducible assumption
    | intro _
    | (extract_lets +onlyGivenNames t; refine State.Goes.cut (cl := cl) (r := r) (t := t) ?_ fun ht => ?_; subst t; rotate_left; clear_value t)
    | extract_lets +onlyGivenNames _
    | with_reducible apply State.extWrite_goes
    | with_reducible apply State.each_goes
    | with_reducible refine State.Goes.snd ?_ (by with_reducible assumption)
    | with_reducible refine State.Goes.fst ?_ (by with_reducible assumption)
    | with_reducible refine State.Goes.thd ?_ (by with_reducible assumption)
    | apply State.Goes.foldl
    | apply State.Goes.foldlFst
    | apply State.Goes.foldlSnd
    | apply State.Goes.foldlThd
    | apply State.Goes.foldlFth
    | refine State.Goes.mapIsles ?_ (fun _ => rfl)
    | split
    | dsimp -zeta only
    | refine State.Goes.of (s := s) ?_ rfl rfl rfl rfl rfl rfl rfl rfl id (fun _ => id)

theorem State.sendCut_goes {cl : Bool} {r s : State} (h : r.Goes cl s) {k : SlotNo} {f : Frame} {last : Bool} {d : StripeData} :
    r.Goes cl (State.sendCut s k f last d) := by
  unfold State.sendCut
  repeat' first
    | with_reducible assumption
    | intro _
    | (extract_lets +onlyGivenNames t; refine State.Goes.cut (cl := cl) (r := r) (t := t) ?_ fun ht => ?_; subst t; rotate_left; clear_value t)
    | extract_lets +onlyGivenNames _
    | with_reducible apply State.each_goes
    | with_reducible apply State.enqueue_goes
    | with_reducible apply State.pump_goes
    | with_reducible refine State.Goes.snd ?_ (by with_reducible assumption)
    | with_reducible refine State.Goes.fst ?_ (by with_reducible assumption)
    | with_reducible refine State.Goes.thd ?_ (by with_reducible assumption)
    | apply State.Goes.foldl
    | apply State.Goes.foldlFst
    | apply State.Goes.foldlSnd
    | apply State.Goes.foldlThd
    | apply State.Goes.foldlFth
    | refine State.Goes.mapIsles ?_ (fun _ => rfl)
    | split
    | dsimp -zeta only
    | refine State.Goes.of (s := s) ?_ rfl rfl rfl rfl rfl rfl rfl rfl id (fun _ => id)

theorem State.readState_goes {cl : Bool} {r s : State} (h : r.Goes cl s) {rs : List (Nat × Nat)} :
    r.Goes cl (s.readState rs).2 := State.touchAtoms_goes h

theorem State.completeStripe_goes {cl : Bool} {r s : State} (h : r.Goes cl s) {k : SlotNo} {n : Nat} {j : Nat} {i : Nat} :
    r.Goes cl (State.completeStripe s k n j i) := by
  unfold State.completeStripe
  repeat' first
    | with_reducible assumption
    | intro _
    | (extract_lets +onlyGivenNames t; refine State.Goes.cut (cl := cl) (r := r) (t := t) ?_ fun ht => ?_; subst t; rotate_left; clear_value t)
    | extract_lets +onlyGivenNames _
    | with_reducible apply State.modFrame_goes
    | with_reducible apply State.release_goes
    | with_reducible apply State.writeState_goes
    | with_reducible apply State.readState_goes
    | with_reducible apply State.finishFrame_goes
    | with_reducible apply State.addReason_goes
    | with_reducible apply State.raise_goes
    | with_reducible apply State.sendCut_goes
    | with_reducible refine State.Goes.snd ?_ (by with_reducible assumption)
    | with_reducible refine State.Goes.fst ?_ (by with_reducible assumption)
    | with_reducible refine State.Goes.thd ?_ (by with_reducible assumption)
    | apply State.Goes.foldl
    | apply State.Goes.foldlFst
    | apply State.Goes.foldlSnd
    | apply State.Goes.foldlThd
    | apply State.Goes.foldlFth
    | refine State.Goes.mapIsles ?_ (fun _ => rfl)
    | split
    | dsimp -zeta only
    | refine State.Goes.of (s := s) ?_ rfl rfl rfl rfl rfl rfl rfl rfl id (fun _ => id)

theorem State.refusePlan_goes {cl : Bool} {r s : State} (h : r.Goes cl s) {k : SlotNo} {code : Nat} :
    r.Goes cl (State.refusePlan s k code).2 := by
  unfold State.refusePlan
  repeat' first
    | with_reducible assumption
    | intro _
    | with_reducible apply State.raise_goes

theorem planAct_goes {cl : Bool} {r s : State} (h : r.Goes cl s) {k : SlotNo} {w : Write} {v : OdVal} :
    r.Goes cl (planAct k w v s).2 := by
  unfold planAct
  repeat' first
    | with_reducible assumption
    | intro _
    | (extract_lets +onlyGivenNames t; refine State.Goes.cut (cl := cl) (r := r) (t := t) ?_ fun ht => ?_; subst t; rotate_left; clear_value t)
    | extract_lets +onlyGivenNames _
    | with_reducible apply State.storeEntry_goes
    | with_reducible apply State.refusePlan_goes
    | with_reducible refine State.Goes.snd ?_ (by with_reducible assumption)
    | with_reducible refine State.Goes.fst ?_ (by with_reducible assumption)
    | with_reducible refine State.Goes.thd ?_ (by with_reducible assumption)
    | with_reducible apply Act.ite_goes
    | split

theorem analysisAct_goes {cl : Bool} {r s : State} (h : r.Goes cl s) {k : SlotNo} {sub : Nat} {w : Write} {v : OdVal} :
    r.Goes cl (analysisAct k sub w v s).2 := by
  unfold analysisAct
  repeat' first
    | with_reducible assumption
    | intro _
    | (extract_lets +onlyGivenNames t; refine State.Goes.cut (cl := cl) (r := r) (t := t) ?_ fun ht => ?_; subst t; rotate_left; clear_value t)
    | extract_lets +onlyGivenNames _
    | with_reducible apply State.storeEntry_goes
    | with_reducible apply State.refusePlan_goes
    | with_reducible refine State.Goes.snd ?_ (by with_reducible assumption)
    | with_reducible refine State.Goes.fst ?_ (by with_reducible assumption)
    | with_reducible refine State.Goes.thd ?_ (by with_reducible assumption)
    | with_reducible apply Act.ite_goes
    | split

theorem State.loadPlan_goes {cl : Bool} {r s : State} (h : r.Goes cl s) {img : Option PlanImage} :
    r.Goes cl (State.loadPlan s img) := by
  unfold State.loadPlan
  repeat' first
    | with_reducible assumption
    | intro _
    | with_reducible refine State.Goes.snd ?_ (by with_reducible assumption)
    | with_reducible refine State.Goes.fst ?_ (by with_reducible assumption)
    | with_reducible refine State.Goes.thd ?_ (by with_reducible assumption)
    | split
    | dsimp -zeta only
    | refine State.Goes.of (s := s) ?_ rfl rfl rfl rfl rfl rfl rfl rfl id (fun _ => id)

theorem forceWarmingAct_goes {cl : Bool} {r s : State} (h : r.Goes cl s) {k : SlotNo} {w : Write} {v : OdVal} :
    r.Goes cl (forceWarmingAct k w v s).2 := by
  unfold forceWarmingAct
  repeat' first
    | with_reducible assumption
    | intro _
    | with_reducible apply always_goes
    | with_reducible apply State.addReason_goes

/-! ### Capture -/

theorem State.capture_goes {cl : Bool} {r s : State} (h : r.Goes cl s) {k : SlotNo} {n : Nat} {d : Nat} :
    r.Goes cl (State.capture s k n d) := by
  unfold State.capture
  repeat' first
    | with_reducible assumption
    | intro _
    | with_reducible apply State.extWrite_goes
    | with_reducible apply State.charge_goes
    | extract_lets +onlyGivenNames _
    | with_reducible apply State.modSlot_goes
    | with_reducible refine State.Goes.snd ?_ (by with_reducible assumption)
    | with_reducible refine State.Goes.fst ?_ (by with_reducible assumption)
    | with_reducible refine State.Goes.thd ?_ (by with_reducible assumption)
    | split

/-! ### Outputs -/

theorem State.formatStripe_goes {cl : Bool} {r s : State} (h : r.Goes cl s) {k : SlotNo} {n : Nat} {kind : Nat} {i : Nat} :
    r.Goes cl (State.formatStripe s k n kind i) := by
  unfold State.formatStripe
  split
  · exact h
  · split
    · exact h
    · split
      · exact State.finishFrame_goes (State.raise_goes h)
      · have g := State.takeOut_goes h ‹_›
        dsimp only
        refine State.release_goes (State.chargeSamples_goes (State.modFrame_goes (State.each_goes g fun _ _ g => ?_)))
        exact State.each_goes g fun _ _ g => State.ringWrite_goes g

theorem State.startAnalysis_goes {cl : Bool} {r s : State} (h : r.Goes cl s) {k : SlotNo} {n : Nat} :
    r.Goes cl (State.startAnalysis s k n) := by
  unfold State.startAnalysis
  repeat' first
    | with_reducible assumption
    | intro _
    | extract_lets +onlyGivenNames _
    | with_reducible apply State.modFrame_goes
    | with_reducible apply State.raise_goes
    | with_reducible apply State.modSlot_goes
    | with_reducible refine State.Goes.snd ?_ (by with_reducible assumption)
    | with_reducible refine State.Goes.fst ?_ (by with_reducible assumption)
    | with_reducible refine State.Goes.thd ?_ (by with_reducible assumption)
    | split

theorem State.sendResult_goes {cl : Bool} {r s : State} (h : r.Goes cl s) {k : SlotNo} {j : ResultJob} {r0 : ResultPart} :
    r.Goes cl (State.sendResult s k j r0) := by
  unfold State.sendResult
  repeat' first
    | with_reducible assumption
    | intro _
    | (extract_lets +onlyGivenNames t; refine State.Goes.cut (cl := cl) (r := r) (t := t) ?_ fun ht => ?_; subst t; rotate_left; clear_value t)
    | extract_lets +onlyGivenNames _
    | with_reducible apply State.bump_goes
    | with_reducible apply State.sendUdp_goes
    | with_reducible apply State.modSlot_goes
    | with_reducible refine State.Goes.snd ?_ (by with_reducible assumption)
    | with_reducible refine State.Goes.fst ?_ (by with_reducible assumption)
    | with_reducible refine State.Goes.thd ?_ (by with_reducible assumption)
    | split

theorem State.dropJobs_goes {cl : Bool} {r s : State} (h : r.Goes cl s) {k : SlotNo} :
    r.Goes cl (State.dropJobs s k) := by
  unfold State.dropJobs
  repeat' first
    | with_reducible assumption
    | intro _
    | extract_lets +onlyGivenNames _
    | with_reducible apply State.bumpBy_goes
    | with_reducible apply State.modSlot_goes

theorem State.releaseResult_goes {cl : Bool} {r s : State} (h : r.Goes cl s) {k : SlotNo} :
    r.Goes cl (State.releaseResult s k) := by
  unfold State.releaseResult
  repeat' first
    | with_reducible assumption
    | intro _
    | with_reducible apply State.dropJobs_goes
    | with_reducible apply State.modSlot_goes
    | split

theorem State.settleStop_goes {cl : Bool} {r s : State} (h : r.Goes cl s) {k : SlotNo} :
    r.Goes cl (State.settleStop s k) := by
  unfold State.settleStop
  repeat' first
    | with_reducible assumption
    | intro _
    | with_reducible apply State.releaseResult_goes
    | split

theorem State.transmitResult_goes {cl : Bool} {r s : State} (h : r.Goes cl s) {k : SlotNo} :
    r.Goes cl (State.transmitResult s k) := by
  unfold State.transmitResult
  repeat' first
    | with_reducible assumption
    | intro _
    | (extract_lets +onlyGivenNames t; refine State.Goes.cut (cl := cl) (r := r) (t := t) ?_ fun ht => ?_; subst t; rotate_left; clear_value t)
    | extract_lets +onlyGivenNames _
    | with_reducible apply State.settleStop_goes
    | with_reducible apply State.modSlot_goes
    | with_reducible apply State.each_goes
    | with_reducible apply State.sendResult_goes
    | with_reducible refine State.Goes.snd ?_ (by with_reducible assumption)
    | with_reducible refine State.Goes.fst ?_ (by with_reducible assumption)
    | with_reducible refine State.Goes.thd ?_ (by with_reducible assumption)
    | split

end Sys2Proof.Machine
end

