-- ==== Sys2Proof/Laws/FlowsSystem.lean ====
section
/-! SUPPORT. What each operation keeps and which way it goes: the system, the ports, firmware, owners and power. -/

namespace Sys2Proof.Machine

/-! ### RelayCore -/

set_option linter.tactic.unusedName false

theorem State.relayTo_goes {cl : Bool} {r s : State} (h : r.Goes cl s) {node : Nat} {request : Bytes} :
    r.Goes cl (State.relayTo s node request) := by
  unfold State.relayTo
  repeat' first
    | with_reducible assumption
    | intro _
    | (extract_lets +onlyGivenNames t; refine State.Goes.cut (cl := cl) (r := r) (t := t) ?_ fun ht => ?_; subst t; rotate_left; clear_value t)
    | extract_lets +onlyGivenNames _
    | with_reducible apply State.modSys_goes
    | with_reducible apply State.each_goes
    | with_reducible apply State.cwReliableSend_goes

theorem State.modMember_goes {cl : Bool} {r s : State} (h : r.Goes cl s) {node : Nat} {f : MemberState → MemberState} :
    r.Goes cl (State.modMember s node f) := by
  unfold State.modMember
  repeat' first
    | with_reducible assumption
    | intro _
    | with_reducible apply State.modSys_goes

theorem State.negotiate_goes {cl : Bool} {r s : State} (h : r.Goes cl s) {node : Nat} :
    r.Goes cl (State.negotiate s node) := by
  unfold State.negotiate
  repeat' first
    | with_reducible assumption
    | intro _
    | with_reducible apply State.relayTo_goes

theorem State.readImage_goes {cl : Bool} {r s : State} (h : r.Goes cl s) {node : Nat} :
    r.Goes cl (State.readImage s node) := by
  unfold State.readImage
  repeat' first
    | with_reducible assumption
    | intro _
    | with_reducible apply State.relayTo_goes

theorem State.claimOn_goes {cl : Bool} {r s : State} (h : r.Goes cl s) {node : Nat} {mask : Nat} :
    r.Goes cl (State.claimOn s node mask) := by
  unfold State.claimOn
  repeat' first
    | with_reducible assumption
    | intro _
    | with_reducible apply State.relayTo_goes

theorem State.setMembership_goes {cl : Bool} {r s : State} (h : r.Goes cl s) {m : Nat} :
    r.Goes cl (State.setMembership s m) := by
  unfold State.setMembership
  repeat' first
    | with_reducible assumption
    | intro _
    | with_reducible apply State.setEntry_goes

theorem State.setMismatch_goes {cl : Bool} {r s : State} (h : r.Goes cl s) {node : Nat} {on : Bool} :
    r.Goes cl (State.setMismatch s node on) := by
  unfold State.setMismatch
  repeat' first
    | with_reducible assumption
    | intro _
    | extract_lets +onlyGivenNames _
    | with_reducible apply State.setEntry_goes

theorem State.joinAnswer_goes {cl : Bool} {r s : State} (h : r.Goes cl s) {transaction : Nat} {p : Bytes} :
    r.Goes cl (State.joinAnswer s transaction p).2 := by
  unfold State.joinAnswer
  repeat' first
    | with_reducible assumption
    | intro _
    | extract_lets +onlyGivenNames _
    | with_reducible apply State.modSys_goes
    | with_reducible refine State.Goes.snd ?_ (by with_reducible assumption)
    | with_reducible refine State.Goes.fst ?_ (by with_reducible assumption)
    | with_reducible refine State.Goes.thd ?_ (by with_reducible assumption)
    | split

theorem State.takeImage_goes {cl : Bool} {r s : State} (h : r.Goes cl s) {node : Nat} {b : Bytes} :
    r.Goes cl (State.takeImage s node b) := by
  unfold State.takeImage
  repeat' first
    | with_reducible assumption
    | intro _
    | (extract_lets +onlyGivenNames t; refine State.Goes.cut (cl := cl) (r := r) (t := t) ?_ fun ht => ?_; subst t; rotate_left; clear_value t)
    | extract_lets +onlyGivenNames _
    | with_reducible apply State.modMember_goes
    | with_reducible apply State.setMembership_goes
    | with_reducible apply State.raise_goes
    | with_reducible refine State.Goes.snd ?_ (by with_reducible assumption)
    | with_reducible refine State.Goes.fst ?_ (by with_reducible assumption)
    | with_reducible refine State.Goes.thd ?_ (by with_reducible assumption)
    | exact ‹MemState.Canonical _›
    | split

theorem State.takePending_goes {cl : Bool} {r s : State} (h : r.Goes cl s) {node : Nat} {b : Bytes} :
    r.Goes cl (State.takePending s node b) := by
  unfold State.takePending
  repeat' first
    | with_reducible assumption
    | intro _
    | extract_lets +onlyGivenNames _
    | with_reducible apply State.modMember_goes
    | with_reducible refine State.Goes.snd ?_ (by with_reducible assumption)
    | with_reducible refine State.Goes.fst ?_ (by with_reducible assumption)
    | with_reducible refine State.Goes.thd ?_ (by with_reducible assumption)
    | apply State.Goes.foldl
    | apply State.Goes.foldlFst
    | apply State.Goes.foldlSnd
    | apply State.Goes.foldlThd
    | apply State.Goes.foldlFth
    | exact ‹MemState.Canonical _›
    | split

theorem State.copyEvents_goes {cl : Bool} {r s : State} (h : r.Goes cl s) {node : Nat} {b : Bytes} :
    r.Goes cl (State.copyEvents s node b) := by
  unfold State.copyEvents
  repeat' first
    | with_reducible assumption
    | intro _
    | (extract_lets +onlyGivenNames t; refine State.Goes.cut (cl := cl) (r := r) (t := t) ?_ fun ht => ?_; subst t; rotate_left; clear_value t)
    | extract_lets +onlyGivenNames _
    | with_reducible apply State.raise_goes
    | with_reducible apply State.modMember_goes
    | with_reducible apply State.each_goes
    | with_reducible apply State.log_goes
    | with_reducible refine State.Goes.snd ?_ (by with_reducible assumption)
    | with_reducible refine State.Goes.fst ?_ (by with_reducible assumption)
    | with_reducible refine State.Goes.thd ?_ (by with_reducible assumption)
    | exact ‹MemState.Canonical _›
    | split

theorem State.takeAnswer_goes {cl : Bool} {r s : State} (h : r.Goes cl s) {r0 : RelayOpen} {b : Bytes} :
    r.Goes cl (State.takeAnswer s r0 b) := by
  unfold State.takeAnswer
  repeat' first
    | with_reducible assumption
    | intro _
    | extract_lets +onlyGivenNames _
    | with_reducible apply State.modMember_goes
    | with_reducible apply State.takeImage_goes
    | with_reducible apply State.takePending_goes
    | with_reducible apply State.relayTo_goes
    | with_reducible apply State.copyEvents_goes
    | with_reducible refine State.Goes.snd ?_ (by with_reducible assumption)
    | with_reducible refine State.Goes.fst ?_ (by with_reducible assumption)
    | with_reducible refine State.Goes.thd ?_ (by with_reducible assumption)
    | exact ‹MemState.Canonical _›
    | split

/-! ### Placement -/

theorem State.writeOn_goes {cl : Bool} {r s : State} (h : r.Goes cl s) {node : Nat} {ws : List (Nat × Nat × OdVal)} {shed : List (Nat × Nat × OdVal)} :
    r.Goes cl (State.writeOn s node ws shed) := by
  unfold State.writeOn
  repeat' first
    | with_reducible assumption
    | intro _
    | (extract_lets +onlyGivenNames t; refine State.Goes.cut (cl := cl) (r := r) (t := t) ?_ fun ht => ?_; subst t; rotate_left; clear_value t)
    | extract_lets +onlyGivenNames _
    | with_reducible apply State.each_goes
    | with_reducible apply State.storeEntry_goes
    | with_reducible apply State.relayTo_goes
    | with_reducible apply State.claimOn_goes
    | split

theorem State.place_goes {cl : Bool} {r s : State} (h : r.Goes cl s) :
    r.Goes cl (State.place s) := by
  unfold State.place
  repeat' first
    | with_reducible assumption
    | intro _
    | (extract_lets +onlyGivenNames t; refine State.Goes.cut (cl := cl) (r := r) (t := t) ?_ fun ht => ?_; subst t; rotate_left; clear_value t)
    | extract_lets +onlyGivenNames _
    | with_reducible apply State.modSys_goes
    | with_reducible apply State.each_goes
    | with_reducible apply State.writeOn_goes
    | with_reducible apply State.raise_goes
    | split

/-! ### System -/

theorem State.cwTake_goes {cl : Bool} {r s : State} (h : r.Goes cl s) {type : Nat} {p : EthNo} {src : Bytes} {b : Bytes} :
    r.Goes cl (State.cwTake s type p src b).2 := by
  unfold State.cwTake
  repeat' first
    | with_reducible assumption
    | intro _
    | with_reducible apply State.cwReceive_goes
    | with_reducible apply State.bump_goes
    | with_reducible refine State.Goes.snd ?_ (by with_reducible assumption)
    | with_reducible refine State.Goes.fst ?_ (by with_reducible assumption)
    | with_reducible refine State.Goes.thd ?_ (by with_reducible assumption)
    | split

theorem State.becomeManager_goes {cl : Bool} {r s : State} (h : r.Goes cl s) :
    r.Goes cl (State.becomeManager s) := by
  unfold State.becomeManager
  repeat' first
    | with_reducible assumption
    | intro _
    | (extract_lets +onlyGivenNames t; refine State.Goes.cut (cl := cl) (r := r) (t := t) ?_ fun ht => ?_; subst t; rotate_left; clear_value t)
    | extract_lets +onlyGivenNames _
    | with_reducible apply State.takeRole_goes
    | with_reducible apply State.setNum_goes
    | with_reducible apply State.setMembership_goes
    | with_reducible apply State.modSys_goes
    | with_reducible apply State.settleSync_goes

theorem State.election_goes {cl : Bool} {r s : State} (h : r.Goes cl s) :
    r.Goes cl (State.election s) := by
  unfold State.election
  repeat' first
    | with_reducible assumption
    | intro _
    | with_reducible apply State.modSys_goes
    | with_reducible apply State.raise_goes
    | with_reducible apply State.setMembership_goes
    | with_reducible apply State.becomeManager_goes
    | with_reducible refine State.Goes.snd ?_ (by with_reducible assumption)
    | with_reducible refine State.Goes.fst ?_ (by with_reducible assumption)
    | with_reducible refine State.Goes.thd ?_ (by with_reducible assumption)
    | split

theorem State.sendBeacons_goes {cl : Bool} {r s : State} (h : r.Goes cl s) :
    r.Goes cl (State.sendBeacons s) := by
  unfold State.sendBeacons
  repeat' first
    | with_reducible assumption
    | intro _
    | (extract_lets +onlyGivenNames t; refine State.Goes.cut (cl := cl) (r := r) (t := t) ?_ fun ht => ?_; subst t; rotate_left; clear_value t)
    | extract_lets +onlyGivenNames _
    | with_reducible apply State.boundary_goes
    | with_reducible apply State.atCycle_goes
    | with_reducible apply State.modSys_goes
    | with_reducible apply State.each_goes
    | with_reducible apply State.cwOnce_goes
    | split

theorem State.noteAlignment_goes {cl : Bool} {r s : State} (h : r.Goes cl s) {b : Bytes} :
    r.Goes cl (State.noteAlignment s b) := by
  unfold State.noteAlignment
  repeat' first
    | with_reducible assumption
    | intro _
    | (extract_lets +onlyGivenNames t; refine State.Goes.cut (cl := cl) (r := r) (t := t) ?_ fun ht => ?_; subst t; rotate_left; clear_value t)
    | extract_lets +onlyGivenNames _
    | with_reducible apply State.boundary_goes
    | with_reducible apply State.setNum_goes
    | with_reducible apply State.draw_goes
    | with_reducible apply State.modSys_goes
    | with_reducible apply State.raise_goes
    | with_reducible refine State.Goes.snd ?_ (by with_reducible assumption)
    | with_reducible refine State.Goes.fst ?_ (by with_reducible assumption)
    | with_reducible refine State.Goes.thd ?_ (by with_reducible assumption)
    | split

theorem State.settleRole_goes {cl : Bool} {r s : State} (h : r.Goes cl s) {manager : Nat} :
    r.Goes cl (State.settleRole s manager) := by
  unfold State.settleRole
  repeat' first
    | with_reducible assumption
    | intro _
    | (extract_lets +onlyGivenNames t; refine State.Goes.cut (cl := cl) (r := r) (t := t) ?_ fun ht => ?_; subst t; rotate_left; clear_value t)
    | extract_lets +onlyGivenNames _
    | with_reducible apply State.takeRole_goes
    | with_reducible apply State.modSys_goes
    | with_reducible apply State.cwReliableSend_goes
    | split

theorem State.countBeacon_goes {cl : Bool} {r s : State} (h : r.Goes cl s) {src : Nat} {b : Bytes} :
    r.Goes cl (State.countBeacon s src b) := by
  unfold State.countBeacon
  repeat' first
    | with_reducible assumption
    | intro _
    | with_reducible apply State.settleLate_goes
    | (extract_lets +onlyGivenNames t; refine State.Goes.cut (cl := cl) (r := r) (t := t) ?_ fun ht => ?_; subst t; rotate_left; clear_value t)
    | extract_lets +onlyGivenNames _
    | with_reducible apply State.modTick_goes
    | with_reducible apply State.raise_goes
    | with_reducible apply State.noteAlignment_goes
    | with_reducible apply State.setNum_goes
    | with_reducible apply State.setMembership_goes
    | with_reducible apply State.modSys_goes
    | with_reducible apply State.takeRole_goes
    | with_reducible apply State.settleRole_goes
    | exact ⟨rfl, rfl⟩
    | split

theorem State.beaconCame_goes {cl : Bool} {r s : State} (h : r.Goes cl s) {p : EthNo} {src : Bytes} {b : Bytes} :
    r.Goes cl (State.beaconCame s p src b) := by
  unfold State.beaconCame
  repeat' first
    | with_reducible assumption
    | intro _
    | extract_lets +onlyGivenNames _
    | with_reducible apply State.cwTake_goes
    | with_reducible apply State.modSys_goes
    | with_reducible apply State.setNum_goes
    | with_reducible apply State.boundary_goes
    | with_reducible apply State.countBeacon_goes
    | with_reducible refine State.Goes.snd ?_ (by with_reducible assumption)
    | with_reducible refine State.Goes.fst ?_ (by with_reducible assumption)
    | with_reducible refine State.Goes.thd ?_ (by with_reducible assumption)
    | split

theorem State.beaconMissed_goes {cl : Bool} {r s : State} (h : r.Goes cl s) :
    r.Goes cl (State.beaconMissed s) := by
  unfold State.beaconMissed
  repeat' first
    | with_reducible assumption
    | intro _
    | (extract_lets +onlyGivenNames t; refine State.Goes.cut (cl := cl) (r := r) (t := t) ?_ fun ht => ?_; subst t; rotate_left; clear_value t)
    | extract_lets +onlyGivenNames _
    | with_reducible apply State.boundary_goes
    | with_reducible apply State.atCycle_goes
    | with_reducible apply State.modSys_goes
    | with_reducible apply State.bump_goes
    | with_reducible apply State.raise_goes
    | split

theorem State.takeover_goes {cl : Bool} {r s : State} (h : r.Goes cl s) :
    r.Goes cl (State.takeover s) := by
  unfold State.takeover
  repeat' first
    | with_reducible assumption
    | intro _
    | with_reducible apply State.settleLate_goes
    | (extract_lets +onlyGivenNames t; refine State.Goes.cut (cl := cl) (r := r) (t := t) ?_ fun ht => ?_; subst t; rotate_left; clear_value t)
    | extract_lets +onlyGivenNames _
    | with_reducible apply State.boundary_goes
    | with_reducible apply State.becomeManager_goes
    | with_reducible apply State.raise_goes
    | with_reducible apply State.modSys_goes
    | with_reducible apply State.setNum_goes
    | with_reducible apply State.each_goes
    | with_reducible apply State.negotiate_goes
    | with_reducible apply State.readImage_goes
    | with_reducible refine State.Goes.snd ?_ (by with_reducible assumption)
    | with_reducible refine State.Goes.fst ?_ (by with_reducible assumption)
    | with_reducible refine State.Goes.thd ?_ (by with_reducible assumption)
    | split

theorem State.isolate_goes {cl : Bool} {r s : State} (h : r.Goes cl s) :
    r.Goes cl (State.isolate s) := by
  unfold State.isolate
  repeat' first
    | with_reducible assumption
    | intro _
    | with_reducible apply State.takeRole_goes
    | with_reducible apply State.raise_goes
    | split

theorem State.dropMember_goes {cl : Bool} {r s : State} (h : r.Goes cl s) {node : Nat} :
    r.Goes cl (State.dropMember s node) := by
  unfold State.dropMember
  repeat' first
    | with_reducible assumption
    | intro _
    | extract_lets +onlyGivenNames _
    | with_reducible apply State.setMembership_goes
    | with_reducible apply State.setMismatch_goes
    | with_reducible apply State.modSys_goes
    | with_reducible apply State.raise_goes
    | with_reducible refine State.Goes.snd ?_ (by with_reducible assumption)
    | with_reducible refine State.Goes.fst ?_ (by with_reducible assumption)
    | with_reducible refine State.Goes.thd ?_ (by with_reducible assumption)
    | split

theorem State.joinCame_goes {cl : Bool} {r s : State} (h : r.Goes cl s) {p : EthNo} {src : Bytes} {b : Bytes} :
    r.Goes cl (State.joinCame s p src b) := by
  unfold State.joinCame
  repeat' first
    | with_reducible assumption
    | intro _
    | (extract_lets +onlyGivenNames t; refine State.Goes.cut (cl := cl) (r := r) (t := t) ?_ fun ht => ?_; subst t; rotate_left; clear_value t)
    | extract_lets +onlyGivenNames _
    | with_reducible apply State.cwTake_goes
    | with_reducible apply State.sendAck_goes
    | with_reducible apply State.cwReliableSend_goes
    | with_reducible apply State.modSys_goes
    | with_reducible apply State.negotiate_goes
    | with_reducible apply State.readImage_goes
    | with_reducible refine State.Goes.snd ?_ (by with_reducible assumption)
    | with_reducible refine State.Goes.fst ?_ (by with_reducible assumption)
    | with_reducible refine State.Goes.thd ?_ (by with_reducible assumption)
    | split

theorem State.joinAnswered_goes {cl : Bool} {r s : State} (h : r.Goes cl s) {p : EthNo} {src : Bytes} {b : Bytes} :
    r.Goes cl (State.joinAnswered s p src b) := by
  unfold State.joinAnswered
  repeat' first
    | with_reducible assumption
    | intro _
    | (extract_lets +onlyGivenNames t; refine State.Goes.cut (cl := cl) (r := r) (t := t) ?_ fun ht => ?_; subst t; rotate_left; clear_value t)
    | extract_lets +onlyGivenNames _
    | with_reducible apply State.cwTake_goes
    | with_reducible apply State.sendAck_goes
    | with_reducible apply State.raise_goes
    | with_reducible refine State.Goes.snd ?_ (by with_reducible assumption)
    | with_reducible refine State.Goes.fst ?_ (by with_reducible assumption)
    | with_reducible refine State.Goes.thd ?_ (by with_reducible assumption)
    | split

theorem State.sendDigest_goes {cl : Bool} {r s : State} (h : r.Goes cl s) :
    r.Goes cl (State.sendDigest s) := by
  unfold State.sendDigest
  repeat' first
    | with_reducible assumption
    | intro _
    | extract_lets +onlyGivenNames _
    | with_reducible apply State.boundary_goes
    | with_reducible apply State.modSys_goes
    | with_reducible apply State.cwOnce_goes
    | split

theorem State.digestCame_goes {cl : Bool} {r s : State} (h : r.Goes cl s) {p : EthNo} {src : Bytes} {b : Bytes} :
    r.Goes cl (State.digestCame s p src b) := by
  unfold State.digestCame
  repeat' first
    | with_reducible assumption
    | intro _
    | (extract_lets +onlyGivenNames t; refine State.Goes.cut (cl := cl) (r := r) (t := t) ?_ fun ht => ?_; subst t; rotate_left; clear_value t)
    | extract_lets +onlyGivenNames _
    | with_reducible apply State.cwTake_goes
    | with_reducible apply State.modMember_goes
    | with_reducible apply State.setNum_goes
    | with_reducible refine State.Goes.snd ?_ (by with_reducible assumption)
    | with_reducible refine State.Goes.fst ?_ (by with_reducible assumption)
    | with_reducible refine State.Goes.thd ?_ (by with_reducible assumption)
    | exact ‹MemState.Canonical _›
    | split

theorem State.compareDigests_goes {cl : Bool} {r s : State} (h : r.Goes cl s) :
    r.Goes cl (State.compareDigests s) := by
  unfold State.compareDigests
  repeat' first
    | with_reducible assumption
    | intro _
    | (extract_lets +onlyGivenNames t; refine State.Goes.cut (cl := cl) (r := r) (t := t) ?_ fun ht => ?_; subst t; rotate_left; clear_value t)
    | extract_lets +onlyGivenNames _
    | with_reducible apply State.boundary_goes
    | with_reducible apply State.atCycle_goes
    | with_reducible apply State.setNum_goes
    | with_reducible apply State.modSys_goes
    | with_reducible apply State.each_goes
    | with_reducible apply State.setMismatch_goes
    | with_reducible apply State.raise_goes
    | with_reducible refine State.Goes.snd ?_ (by with_reducible assumption)
    | with_reducible refine State.Goes.fst ?_ (by with_reducible assumption)
    | with_reducible refine State.Goes.thd ?_ (by with_reducible assumption)
    | split

theorem epochAct_goes {cl : Bool} {r s : State} (h : r.Goes cl s) {w : Write} {v : OdVal} :
    r.Goes cl (epochAct w v s).2 := by
  unfold epochAct
  repeat' first
    | with_reducible assumption
    | intro _
    | with_reducible apply State.settleLate_goes
    | (extract_lets +onlyGivenNames t; refine State.Goes.cut (cl := cl) (r := r) (t := t) ?_ fun ht => ?_; subst t; rotate_left; clear_value t)
    | extract_lets +onlyGivenNames _
    | with_reducible apply guarded_goes
    | with_reducible apply always_goes
    | with_reducible apply State.setNum_goes
    | with_reducible apply State.modSys_goes
    | with_reducible refine State.Goes.snd ?_ (by with_reducible assumption)
    | with_reducible refine State.Goes.fst ?_ (by with_reducible assumption)
    | with_reducible refine State.Goes.thd ?_ (by with_reducible assumption)
    | with_reducible apply Act.ite_goes
    | split

theorem State.releaseClaims_goes {cl : Bool} {r s : State} (h : r.Goes cl s) :
    r.Goes cl (State.releaseClaims s) := by
  unfold State.releaseClaims
  repeat' first
    | with_reducible assumption
    | intro _
    | with_reducible apply State.each_goes
    | with_reducible apply State.relayTo_goes
    | with_reducible apply State.modMember_goes
    | with_reducible refine State.Goes.snd ?_ (by with_reducible assumption)
    | with_reducible refine State.Goes.fst ?_ (by with_reducible assumption)
    | with_reducible refine State.Goes.thd ?_ (by with_reducible assumption)
    | exact ‹MemState.Canonical _›
    | split

theorem State.closeReadiness_goes {cl : Bool} {r s : State} (h : r.Goes cl s) :
    r.Goes cl (State.closeReadiness s) := by
  unfold State.closeReadiness
  repeat' first
    | with_reducible assumption
    | intro _
    | with_reducible apply State.settleLate_goes
    | (extract_lets +onlyGivenNames t; refine State.Goes.cut (cl := cl) (r := r) (t := t) ?_ fun ht => ?_; subst t; rotate_left; clear_value t)
    | extract_lets +onlyGivenNames _
    | with_reducible apply State.boundary_goes
    | with_reducible apply State.modSys_goes
    | with_reducible apply State.setNum_goes
    | with_reducible apply State.raise_goes
    | with_reducible apply State.releaseClaims_goes
    | with_reducible refine State.Goes.snd ?_ (by with_reducible assumption)
    | with_reducible refine State.Goes.fst ?_ (by with_reducible assumption)
    | with_reducible refine State.Goes.thd ?_ (by with_reducible assumption)
    | split
    | dsimp -zeta only
    | (clear_value *; split)

theorem rereadAct_goes {cl : Bool} {r s : State} (h : r.Goes cl s) {w : Write} {v : OdVal} :
    r.Goes cl (rereadAct w v s).2 := by
  unfold rereadAct
  repeat' first
    | with_reducible assumption
    | intro _
    | with_reducible apply guarded_goes
    | with_reducible apply always_goes
    | with_reducible apply State.readImage_goes
    | with_reducible refine State.Goes.snd ?_ (by with_reducible assumption)
    | with_reducible refine State.Goes.fst ?_ (by with_reducible assumption)
    | with_reducible refine State.Goes.thd ?_ (by with_reducible assumption)
    | with_reducible apply Act.ite_goes
    | split

/-! ### Links -/

theorem State.fillBuffer_goes {cl : Bool} {r s : State} (h : r.Goes cl s) {p : EthNo} {a : Nat} {k : SlotNo} {f : CwFrame} :
    r.Goes cl (State.fillBuffer s p a k f) := by
  unfold State.fillBuffer
  repeat' first
    | with_reducible assumption
    | intro _
    | (extract_lets +onlyGivenNames t; refine State.Goes.cut (cl := cl) (r := r) (t := t) ?_ fun ht => ?_; subst t; rotate_left; clear_value t)
    | extract_lets +onlyGivenNames _
    | with_reducible apply State.modMem_goes
    | with_reducible apply State.modSys_goes
    | with_reducible apply State.modPort_goes
    | with_reducible apply State.sendPfc_goes
    | exact MemState.putEth_canonical ‹MemState.Canonical _›
    | exact ‹MemState.Canonical _›
    | split

theorem State.abandonFrame_goes {cl : Bool} {r s : State} (h : r.Goes cl s) {k : SlotNo} {b : Bytes} :
    r.Goes cl (State.abandonFrame s k b) := by
  unfold State.abandonFrame
  repeat' first
    | with_reducible assumption
    | intro _
    | with_reducible apply State.abandonOutcome_goes
    | extract_lets +onlyGivenNames _
    | with_reducible apply State.draw_goes
    | with_reducible apply State.finishFrame_goes
    | with_reducible refine State.Goes.snd ?_ (by with_reducible assumption)
    | with_reducible refine State.Goes.fst ?_ (by with_reducible assumption)
    | with_reducible refine State.Goes.thd ?_ (by with_reducible assumption)
    | split

theorem State.takeData_goes {cl : Bool} {r s : State} (h : r.Goes cl s) {p : EthNo} {a : Nat} {k : SlotNo} {f : CwFrame} :
    r.Goes cl (State.takeData s p a k f) := by
  unfold State.takeData
  repeat' first
    | with_reducible assumption
    | intro _
    | with_reducible apply State.modSlot_goes
    | with_reducible apply State.commitSlot_goes
    | with_reducible apply State.takeSegment_goes
    | (extract_lets +onlyGivenNames t; refine State.Goes.cut (cl := cl) (r := r) (t := t) ?_ fun ht => ?_; subst t; rotate_left; clear_value t)
    | extract_lets +onlyGivenNames _
    | with_reducible apply State.beginCut_goes
    | with_reducible apply State.abandonFrame_goes
    | with_reducible apply State.fillBuffer_goes
    | with_reducible apply State.modFrame_goes
    | split

theorem State.dataCame_goes {cl : Bool} {r s : State} (h : r.Goes cl s) {p : EthNo} {src : Bytes} {b : Bytes} :
    r.Goes cl (State.dataCame s p src b) := by
  unfold State.dataCame
  repeat' first
    | with_reducible assumption
    | intro _
    | with_reducible apply State.raiseOnce_goes
    | with_reducible apply State.cwTake_goes
    | with_reducible apply State.takeData_goes
    | with_reducible apply State.sendAck_goes
    | with_reducible refine State.Goes.snd ?_ (by with_reducible assumption)
    | with_reducible refine State.Goes.fst ?_ (by with_reducible assumption)
    | with_reducible refine State.Goes.thd ?_ (by with_reducible assumption)
    | split

theorem State.ackCame_goes {cl : Bool} {r s : State} (h : r.Goes cl s) {p : EthNo} {src : Bytes} {b : Bytes} :
    r.Goes cl (State.ackCame s p src b) := by
  unfold State.ackCame
  repeat' first
    | with_reducible assumption
    | intro _
    | with_reducible apply State.cwTake_goes
    | with_reducible apply State.takeAck_goes
    | with_reducible refine State.Goes.snd ?_ (by with_reducible assumption)
    | with_reducible refine State.Goes.fst ?_ (by with_reducible assumption)
    | with_reducible refine State.Goes.thd ?_ (by with_reducible assumption)
    | split

theorem State.ackAgain_goes {cl : Bool} {r s : State} (h : r.Goes cl s) {src : Nat} {chan : Nat} :
    r.Goes cl (State.ackAgain s src chan) := by
  unfold State.ackAgain
  repeat' first
    | with_reducible assumption
    | intro _
    | with_reducible apply State.atCycle_goes
    | with_reducible apply State.sendAck_goes
    | with_reducible refine State.Goes.snd ?_ (by with_reducible assumption)
    | with_reducible refine State.Goes.fst ?_ (by with_reducible assumption)
    | with_reducible refine State.Goes.thd ?_ (by with_reducible assumption)
    | split

theorem State.sendFlowReset_goes {cl : Bool} {r s : State} (h : r.Goes cl s) {dest : Nat} {chan : Nat} :
    r.Goes cl (State.sendFlowReset s dest chan) := by
  unfold State.sendFlowReset
  repeat' first
    | with_reducible assumption
    | intro _
    | (extract_lets +onlyGivenNames t; refine State.Goes.cut (cl := cl) (r := r) (t := t) ?_ fun ht => ?_; subst t; rotate_left; clear_value t)
    | extract_lets +onlyGivenNames _
    | with_reducible apply State.atCycle_goes
    | with_reducible apply State.setFlow_goes
    | with_reducible apply State.cwOnce_goes
    | with_reducible refine State.Goes.snd ?_ (by with_reducible assumption)
    | with_reducible refine State.Goes.fst ?_ (by with_reducible assumption)
    | with_reducible refine State.Goes.thd ?_ (by with_reducible assumption)
    | split

theorem State.flowResetCame_goes {cl : Bool} {r s : State} (h : r.Goes cl s) {p : EthNo} {src : Bytes} {b : Bytes} :
    r.Goes cl (State.flowResetCame s p src b) := by
  unfold State.flowResetCame
  repeat' first
    | with_reducible assumption
    | intro _
    | (extract_lets +onlyGivenNames t; refine State.Goes.cut (cl := cl) (r := r) (t := t) ?_ fun ht => ?_; subst t; rotate_left; clear_value t)
    | extract_lets +onlyGivenNames _
    | with_reducible apply State.cwTake_goes
    | with_reducible apply State.modSys_goes
    | with_reducible apply State.releaseBuffers_goes
    | with_reducible apply State.failFrames_goes
    | with_reducible apply State.sendAck_goes
    | with_reducible refine State.Goes.snd ?_ (by with_reducible assumption)
    | with_reducible refine State.Goes.fst ?_ (by with_reducible assumption)
    | with_reducible refine State.Goes.thd ?_ (by with_reducible assumption)
    | split

theorem State.answerCame_goes {cl : Bool} {r s : State} (h : r.Goes cl s) {p : EthNo} {src : Bytes} {b : Bytes} :
    r.Goes cl (State.answerCame s p src b) := by
  unfold State.answerCame
  repeat' first
    | with_reducible assumption
    | intro _
    | (extract_lets +onlyGivenNames t; refine State.Goes.cut (cl := cl) (r := r) (t := t) ?_ fun ht => ?_; subst t; rotate_left; clear_value t)
    | extract_lets +onlyGivenNames _
    | with_reducible apply State.cwTake_goes
    | with_reducible apply State.sendAck_goes
    | with_reducible apply State.joinAnswer_goes
    | with_reducible apply State.takeAnswer_goes
    | with_reducible refine State.Goes.snd ?_ (by with_reducible assumption)
    | with_reducible refine State.Goes.fst ?_ (by with_reducible assumption)
    | with_reducible refine State.Goes.thd ?_ (by with_reducible assumption)
    | split

theorem State.relayLate_goes {cl : Bool} {r s : State} (h : r.Goes cl s) {transaction : Nat} :
    r.Goes cl (State.relayLate s transaction) := by
  unfold State.relayLate
  repeat' first
    | with_reducible assumption
    | intro _
    | (extract_lets +onlyGivenNames t; refine State.Goes.cut (cl := cl) (r := r) (t := t) ?_ fun ht => ?_; subst t; rotate_left; clear_value t)
    | extract_lets +onlyGivenNames _
    | with_reducible apply State.atCycle_goes
    | with_reducible apply State.modSys_goes
    | with_reducible apply State.takeAnswer_goes
    | with_reducible refine State.Goes.snd ?_ (by with_reducible assumption)
    | with_reducible refine State.Goes.fst ?_ (by with_reducible assumption)
    | with_reducible refine State.Goes.thd ?_ (by with_reducible assumption)
    | split

theorem State.renewClaim_goes {cl : Bool} {r s : State} (h : r.Goes cl s) {node : Nat} :
    r.Goes cl (State.renewClaim s node) := by
  unfold State.renewClaim
  repeat' first
    | with_reducible assumption
    | intro _
    | (extract_lets +onlyGivenNames t; refine State.Goes.cut (cl := cl) (r := r) (t := t) ?_ fun ht => ?_; subst t; rotate_left; clear_value t)
    | extract_lets +onlyGivenNames _
    | with_reducible apply State.atCycle_goes
    | with_reducible apply State.modMember_goes
    | with_reducible apply State.relayTo_goes
    | with_reducible refine State.Goes.snd ?_ (by with_reducible assumption)
    | with_reducible refine State.Goes.fst ?_ (by with_reducible assumption)
    | with_reducible refine State.Goes.thd ?_ (by with_reducible assumption)
    | exact ‹MemState.Canonical _›
    | split

theorem State.pollEvents_goes {cl : Bool} {r s : State} (h : r.Goes cl s) {node : Nat} :
    r.Goes cl (State.pollEvents s node) := by
  unfold State.pollEvents
  repeat' first
    | with_reducible assumption
    | intro _
    | with_reducible apply State.relayTo_goes
    | split

/-! ### Ethernet -/

theorem State.linkComesUp_goes {cl : Bool} {r s : State} (h : r.Goes cl s) {p : EthNo} :
    r.Goes cl (State.linkComesUp s p) := by
  unfold State.linkComesUp
  repeat' first
    | with_reducible assumption
    | intro _
    | with_reducible apply State.setNum_goes
    | with_reducible apply State.raise_goes
    | with_reducible apply State.settleError_goes
    | split

theorem State.linkGoesDown_goes {cl : Bool} {r s : State} (h : r.Goes cl s) {p : EthNo} :
    r.Goes cl (State.linkGoesDown s p) := by
  unfold State.linkGoesDown
  repeat' first
    | with_reducible assumption
    | intro _
    | with_reducible apply State.dropLink_goes
    | split

theorem State.received_goes {cl : Bool} {r s : State} (h : r.Goes cl s) {p : EthNo} {f : State → State} (hf : ∀ t, r.Goes cl t → r.Goes cl (f t)) :
    r.Goes cl (State.received s p f) := by
  unfold State.received
  repeat' first
    | with_reducible assumption
    | intro _
    | with_reducible apply hf
    | with_reducible apply State.bump_goes
    | split

theorem State.unsupported_goes {cl : Bool} {r s : State} (h : r.Goes cl s) {p : EthNo} {u : Unsupported} :
    r.Goes cl (State.unsupported s p u) := by
  unfold State.unsupported
  repeat' first
    | with_reducible assumption
    | intro _
    | with_reducible apply State.received_goes
    | with_reducible apply State.bump_goes
    | split

theorem State.arpAsked_goes {cl : Bool} {r s : State} (h : r.Goes cl s) {p : EthNo} {mac : Bytes} {sender : Bytes} {target : Bytes} :
    r.Goes cl (State.arpAsked s p mac sender target) := by
  unfold State.arpAsked
  repeat' first
    | with_reducible assumption
    | intro _
    | with_reducible apply State.received_goes
    | with_reducible apply State.countFrame_goes
    | with_reducible apply State.emit_goes
    | split

theorem State.learn_goes {cl : Bool} {r s : State} (h : r.Goes cl s) {p : EthNo} {addr : Bytes} {mac : Bytes} :
    r.Goes cl (State.learn s p addr mac) := by
  unfold State.learn
  repeat' first
    | with_reducible assumption
    | intro _
    | with_reducible apply State.modPort_goes

theorem State.arpAnswered_goes {cl : Bool} {r s : State} (h : r.Goes cl s) {p : EthNo} {mac : Bytes} {sender : Bytes} :
    r.Goes cl (State.arpAnswered s p mac sender) := by
  unfold State.arpAnswered
  repeat' first
    | with_reducible assumption
    | intro _
    | with_reducible apply State.received_goes
    | with_reducible apply State.learn_goes
    | split

theorem State.ndCame_goes {cl : Bool} {r s : State} (h : r.Goes cl s) {p : EthNo} {m : NdMessage} :
    r.Goes cl (State.ndCame s p m) := by
  unfold State.ndCame
  repeat' first
    | with_reducible assumption
    | intro _
    | with_reducible apply State.received_goes
    | with_reducible apply State.solicit_goes
    | with_reducible apply State.countFrame_goes
    | with_reducible apply State.emit_goes
    | with_reducible apply State.learn_goes
    | with_reducible refine State.Goes.snd ?_ (by with_reducible assumption)
    | with_reducible refine State.Goes.fst ?_ (by with_reducible assumption)
    | with_reducible refine State.Goes.thd ?_ (by with_reducible assumption)
    | split

theorem State.echoAsked_goes {cl : Bool} {r s : State} (h : r.Goes cl s) {p : EthNo} {dst : Bytes} {src : Bytes} {body : Bytes} :
    r.Goes cl (State.echoAsked s p dst src body) := by
  unfold State.echoAsked
  repeat' first
    | with_reducible assumption
    | intro _
    | (extract_lets +onlyGivenNames t; refine State.Goes.cut (cl := cl) (r := r) (t := t) ?_ fun ht => ?_; subst t; rotate_left; clear_value t)
    | extract_lets +onlyGivenNames _
    | with_reducible apply State.received_goes
    | with_reducible apply State.resolve_goes
    | with_reducible apply State.countFrame_goes
    | with_reducible apply State.emit_goes
    | split

theorem State.queryCame_goes {cl : Bool} {r s : State} (h : r.Goes cl s) {p : EthNo} {six : Bool} {group : Bytes} :
    r.Goes cl (State.queryCame s p six group) := by
  unfold State.queryCame
  repeat' first
    | with_reducible assumption
    | intro _
    | with_reducible apply State.received_goes
    | with_reducible apply State.reportGroups_goes

theorem State.pfcCame_goes {cl : Bool} {r s : State} (h : r.Goes cl s) {p : EthNo} {b : Bytes} :
    r.Goes cl (State.pfcCame s p b) := by
  unfold State.pfcCame
  repeat' first
    | with_reducible assumption
    | intro _
    | (extract_lets +onlyGivenNames t; refine State.Goes.cut (cl := cl) (r := r) (t := t) ?_ fun ht => ?_; subst t; rotate_left; clear_value t)
    | extract_lets +onlyGivenNames _
    | with_reducible apply State.received_goes
    | with_reducible apply State.bump_goes
    | with_reducible apply State.flushData_goes
    | with_reducible apply State.modPort_goes
    | split

theorem State.refreshPfc_goes {cl : Bool} {r s : State} (h : r.Goes cl s) {p : EthNo} :
    r.Goes cl (State.refreshPfc s p) := by
  unfold State.refreshPfc
  repeat' first
    | with_reducible assumption
    | intro _
    | (extract_lets +onlyGivenNames t; refine State.Goes.cut (cl := cl) (r := r) (t := t) ?_ fun ht => ?_; subst t; rotate_left; clear_value t)
    | extract_lets +onlyGivenNames _
    | with_reducible apply State.atCycle_goes
    | with_reducible apply State.modPort_goes
    | with_reducible apply State.sendPfc_goes
    | split

theorem State.pfcWatchdog_goes {cl : Bool} {r s : State} (h : r.Goes cl s) {p : EthNo} :
    r.Goes cl (State.pfcWatchdog s p) := by
  unfold State.pfcWatchdog
  repeat' first
    | with_reducible assumption
    | intro _
    | (extract_lets +onlyGivenNames t; refine State.Goes.cut (cl := cl) (r := r) (t := t) ?_ fun ht => ?_; subst t; rotate_left; clear_value t)
    | extract_lets +onlyGivenNames _
    | with_reducible apply State.atCycle_goes
    | with_reducible apply State.modPort_goes
    | with_reducible apply State.bump_goes
    | with_reducible apply State.raise_goes
    | with_reducible refine State.Goes.snd ?_ (by with_reducible assumption)
    | with_reducible refine State.Goes.fst ?_ (by with_reducible assumption)
    | with_reducible refine State.Goes.thd ?_ (by with_reducible assumption)
    | split

theorem State.stopFrame_goes {cl : Bool} {r s : State} (h : r.Goes cl s) {cmd : Nat} {p : EthNo} {src : Bytes} {sport : Nat} {b : Bytes} {f : State → SlotNo → State} {g : State → SlotNo → State} (hf : ∀ t a1, r.Goes cl t → r.Goes cl (f t a1)) (hg : ∀ t a1, r.Goes cl t → r.Goes cl (g t a1)) :
    r.Goes cl (State.stopFrame s cmd p src sport b f g) := by
  unfold State.stopFrame
  repeat' first
    | with_reducible assumption
    | intro _
    | (extract_lets +onlyGivenNames t; refine State.Goes.cut (cl := cl) (r := r) (t := t) ?_ fun ht => ?_; subst t; rotate_left; clear_value t)
    | extract_lets +onlyGivenNames _
    | with_reducible apply hf
    | with_reducible apply hg
    | with_reducible apply State.received_goes
    | with_reducible apply State.bump_goes
    | with_reducible apply State.raiseOnce_goes
    | with_reducible apply State.modSlot_goes
    | with_reducible refine State.Goes.snd ?_ (by with_reducible assumption)
    | with_reducible refine State.Goes.fst ?_ (by with_reducible assumption)
    | with_reducible refine State.Goes.thd ?_ (by with_reducible assumption)
    | split

theorem State.stopCame_goes {cl : Bool} {r s : State} (h : r.Goes cl s) {p : EthNo} {src : Bytes} {sport : Nat} {b : Bytes} :
    r.Goes cl (State.stopCame s p src sport b) := by
  unfold State.stopCame
  repeat' first
    | with_reducible assumption
    | intro _
    | with_reducible apply State.hold_goes
    | extract_lets +onlyGivenNames _
    | with_reducible apply State.stopFrame_goes
    | with_reducible apply State.dropJobs_goes
    | with_reducible apply State.modSlot_goes

theorem State.releaseCame_goes {cl : Bool} {r s : State} (h : r.Goes cl s) {p : EthNo} {src : Bytes} {sport : Nat} {b : Bytes} :
    r.Goes cl (State.releaseCame s p src sport b) := by
  unfold State.releaseCame
  repeat' first
    | with_reducible assumption
    | intro _
    | with_reducible apply State.stopFrame_goes
    | with_reducible apply State.releaseResult_goes

theorem State.holdEnds_goes {cl : Bool} {r s : State} (h : r.Goes cl s) {k : SlotNo} :
    r.Goes cl (State.holdEnds s k) := by
  unfold State.holdEnds
  repeat' first
    | with_reducible assumption
    | intro _
    | with_reducible apply State.atCycle_goes
    | with_reducible apply State.releaseResult_goes
    | with_reducible refine State.Goes.snd ?_ (by with_reducible assumption)
    | with_reducible refine State.Goes.fst ?_ (by with_reducible assumption)
    | with_reducible refine State.Goes.thd ?_ (by with_reducible assumption)
    | split

/-! ### Fences -/

theorem fenceAct_goes {cl : Bool} {r s : State} (h : r.Goes cl s) {w : Write} {v : OdVal} :
    r.Goes cl (fenceAct w v s).2 := by
  unfold fenceAct
  repeat' first
    | with_reducible assumption
    | intro _
    | with_reducible apply guarded_goes
    | with_reducible apply always_goes
    | with_reducible apply State.trigger_goes

theorem State.hang_goes {cl : Bool} {r s : State} (h : r.Goes cl s) {k : IsleNo} {c : CtxNo} :
    r.Goes cl (State.hang s k c) := by
  unfold State.hang
  repeat' first
    | with_reducible assumption
    | intro _
    | extract_lets +onlyGivenNames _
    | with_reducible apply State.atCycle_goes
    | with_reducible apply State.raise_goes
    | with_reducible apply State.trigger_goes
    | split

theorem State.completeFence_goes {cl : Bool} {r s : State} (h : r.Goes cl s) {k : IsleNo} :
    r.Goes cl (State.completeFence s k) := by
  unfold State.completeFence
  repeat' first
    | with_reducible assumption
    | intro _
    | with_reducible apply State.each_goes
    | with_reducible apply State.loseArgmax_goes
    | (extract_lets +onlyGivenNames t; refine State.Goes.cut (cl := cl) (r := r) (t := t) ?_ fun ht => ?_; subst t; rotate_left; clear_value t)
    | extract_lets +onlyGivenNames _
    | with_reducible apply State.atCycle_goes
    | with_reducible apply State.modIsle_goes
    | with_reducible apply State.bump_goes
    | with_reducible apply State.raise_goes
    | with_reducible apply State.settleAvail_goes
    | with_reducible apply State.settleClocks_goes
    | with_reducible apply State.shedTest_goes
    | exact ‹Scratchpad.Canonical _›
    | split

theorem State.beginUnfence_goes {cl : Bool} {r s : State} (h : r.Goes cl s) {k : IsleNo} : r.Goes cl (s.beginUnfence k) := by
  unfold State.beginUnfence
  extract_lets t
  have ht : r.Goes cl t := State.modIsle_goes h fun _ _ => Scratchpad.empty_canonical rfl rfl
  exact State.settleError_goes (State.settleClocks_goes ht)

theorem unfenceAct_goes {cl : Bool} {r s : State} (h : r.Goes cl s) {w : Write} {v : OdVal} :
    r.Goes cl (unfenceAct w v s).2 := by
  unfold unfenceAct
  repeat' first
    | with_reducible assumption
    | intro _
    | with_reducible apply guarded_goes
    | with_reducible apply always_goes
    | with_reducible apply State.beginUnfence_goes

theorem State.rebuildSets_goes {cl : Bool} {r s : State} (h : r.Goes cl s) {isle : IsleNo} {k : SlotNo} {d : Nat} :
    r.Goes cl (State.rebuildSets s isle k d).2 := by
  unfold State.rebuildSets
  repeat' first
    | with_reducible assumption
    | intro _
    | (extract_lets +onlyGivenNames t; refine State.Goes.cut (cl := cl) (r := r) (t := t) ?_ fun ht => ?_; subst t; rotate_left; clear_value t)
    | extract_lets +onlyGivenNames _
    | with_reducible apply State.modSlot_goes
    | with_reducible apply State.raise_goes
    | with_reducible apply State.loadSets_goes
    | with_reducible apply State.readExt_goes
    | with_reducible apply State.atCycle_goes
    | with_reducible refine State.Goes.snd ?_ (by with_reducible assumption)
    | with_reducible refine State.Goes.fst ?_ (by with_reducible assumption)
    | with_reducible refine State.Goes.thd ?_ (by with_reducible assumption)
    | apply State.Goes.foldl
    | apply State.Goes.foldlFst
    | apply State.Goes.foldlSnd
    | apply State.Goes.foldlThd
    | apply State.Goes.foldlFth
    | refine State.Goes.mapIsles ?_ (fun _ => rfl)
    | split
    | dsimp -zeta only
    | refine State.Goes.of (s := s) ?_ rfl rfl rfl rfl rfl rfl rfl rfl id (fun _ => id)

theorem State.reloadIsle_goes {cl : Bool} {r s : State} (h : r.Goes cl s) {k : IsleNo} :
    r.Goes cl (State.reloadIsle s k).2 := State.Goes.foldlSnd h fun _ _ g => State.rebuildSets_goes g

theorem State.endUnfence_goes {cl : Bool} {r s : State} (h : r.Goes cl s) {k : IsleNo} {ok : Bool} :
    r.Goes cl (State.endUnfence s k ok) := by
  unfold State.endUnfence
  repeat' first
    | with_reducible assumption
    | intro _
    | (extract_lets +onlyGivenNames t; refine State.Goes.cut (cl := cl) (r := r) (t := t) ?_ fun ht => ?_; subst t; rotate_left; clear_value t)
    | extract_lets +onlyGivenNames _
    | with_reducible apply State.modIsle_goes
    | with_reducible apply State.raise_goes
    | with_reducible apply State.trigger_goes
    | with_reducible apply State.settleAvail_goes
    | with_reducible apply State.returnMask_goes
    | with_reducible apply State.settleClocks_goes
    | with_reducible apply State.boundary_goes
    | with_reducible apply State.reloadIsle_goes
    | with_reducible apply State.atCycle_goes
    | with_reducible refine State.Goes.snd ?_ (by with_reducible assumption)
    | with_reducible refine State.Goes.fst ?_ (by with_reducible assumption)
    | with_reducible refine State.Goes.thd ?_ (by with_reducible assumption)
    | apply State.Goes.foldl
    | apply State.Goes.foldlFst
    | apply State.Goes.foldlSnd
    | apply State.Goes.foldlThd
    | apply State.Goes.foldlFth
    | refine State.Goes.mapIsles ?_ (fun _ => rfl)
    | split
    | dsimp -zeta only
    | refine State.Goes.of (s := s) ?_ rfl rfl rfl rfl rfl rfl rfl rfl id (fun _ => id)

theorem State.loadRow_goes {cl : Bool} {r s : State} (h : r.Goes cl s) {k : IsleNo} {row : Nat} {data : Bytes} :
    r.Goes cl (s.loadRow k row data) := by
  unfold State.loadRow
  exact State.modSp_goes h fun _ hp => Scratchpad.puts_canonical hp

theorem State.reloadRow_goes {cl : Bool} {r s : State} (h : r.Goes cl s) {k : IsleNo} {row : Nat} {data : Bytes} :
    r.Goes cl (s.reloadRow k row data) := by
  unfold State.reloadRow
  have g : r.Goes cl (s.loadRow k row data) := State.loadRow_goes h
  split
  · exact g
  · with_reducible refine State.Goes.ite (fun _ => h) fun _ => ?_
    with_reducible apply State.raise_goes
    with_reducible apply State.modIsle_goes
    · exact g
    · exact fun _ hi => hi

theorem clearNoticeAct_goes {cl : Bool} {r s : State} (h : r.Goes cl s) {w : Write} {v : OdVal} :
    r.Goes cl (clearNoticeAct w v s).2 := by
  unfold clearNoticeAct
  repeat' first
    | with_reducible assumption
    | intro _
    | with_reducible apply always_goes
    | with_reducible apply State.modSlot_goes

theorem State.sendEmcy_goes {cl : Bool} {r s : State} (h : r.Goes cl s) {p : CanNo} :
    r.Goes cl (State.sendEmcy s p) := by
  unfold State.sendEmcy
  repeat' first
    | with_reducible assumption
    | intro _
    | (extract_lets +onlyGivenNames t; refine State.Goes.cut (cl := cl) (r := r) (t := t) ?_ fun ht => ?_; subst t; rotate_left; clear_value t)
    | extract_lets +onlyGivenNames _
    | with_reducible apply State.atCycle_goes
    | with_reducible apply State.modCan_goes
    | with_reducible apply State.emit_goes
    | with_reducible refine State.Goes.snd ?_ (by with_reducible assumption)
    | with_reducible refine State.Goes.fst ?_ (by with_reducible assumption)
    | with_reducible refine State.Goes.thd ?_ (by with_reducible assumption)
    | split

/-! ### Ports -/

theorem State.applyCan_goes {cl : Bool} {r s : State} (h : r.Goes cl s) {p : CanNo} :
    r.Goes cl (State.applyCan s p) := by
  unfold State.applyCan
  repeat' first
    | with_reducible assumption
    | intro _
    | extract_lets +onlyGivenNames _
    | with_reducible apply State.modCan_goes

theorem State.armHeartbeat_goes {cl : Bool} {r s : State} (h : r.Goes cl s) {p : CanNo} :
    r.Goes cl (State.armHeartbeat s p) := by
  unfold State.armHeartbeat
  repeat' first
    | with_reducible assumption
    | intro _
    | extract_lets +onlyGivenNames _
    | with_reducible apply State.modCan_goes

theorem State.nmt_goes {cl : Bool} {r s : State} (h : r.Goes cl s) {p : CanNo} {f : State → State} (hf : ∀ t, r.Goes cl t → r.Goes cl (f t)) :
    r.Goes cl (State.nmt s p f) := by
  unfold State.nmt
  repeat' first
    | with_reducible assumption
    | intro _
    | with_reducible apply hf
    | split

theorem State.setNmt_goes {cl : Bool} {r s : State} (h : r.Goes cl s) {p : CanNo} {n : NmtState} :
    r.Goes cl (State.setNmt s p n) := by
  unfold State.setNmt
  repeat' first
    | with_reducible assumption
    | intro _
    | with_reducible apply State.nmt_goes
    | with_reducible apply State.modCan_goes

theorem State.resetCommunication_goes {cl : Bool} {r s : State} (h : r.Goes cl s) {p : CanNo} :
    r.Goes cl (State.resetCommunication s p) := by
  unfold State.resetCommunication
  repeat' first
    | with_reducible assumption
    | intro _
    | (extract_lets +onlyGivenNames t; refine State.Goes.cut (cl := cl) (r := r) (t := t) ?_ fun ht => ?_; subst t; rotate_left; clear_value t)
    | extract_lets +onlyGivenNames _
    | with_reducible apply State.freeDomains_goes
    | with_reducible apply State.modReq_goes
    | with_reducible apply State.applyCan_goes
    | with_reducible apply State.setNmt_goes
    | with_reducible apply State.emit_goes
    | with_reducible apply State.armHeartbeat_goes
    | split

theorem State.produceHeartbeat_goes {cl : Bool} {r s : State} (h : r.Goes cl s) {p : CanNo} :
    r.Goes cl (State.produceHeartbeat s p) := by
  unfold State.produceHeartbeat
  repeat' first
    | with_reducible assumption
    | intro _
    | (extract_lets +onlyGivenNames t; refine State.Goes.cut (cl := cl) (r := r) (t := t) ?_ fun ht => ?_; subst t; rotate_left; clear_value t)
    | extract_lets +onlyGivenNames _
    | with_reducible apply State.atCycle_goes
    | with_reducible apply State.modCan_goes
    | with_reducible apply State.emit_goes
    | with_reducible apply State.nmt_goes
    | with_reducible refine State.Goes.snd ?_ (by with_reducible assumption)
    | with_reducible refine State.Goes.fst ?_ (by with_reducible assumption)
    | with_reducible refine State.Goes.thd ?_ (by with_reducible assumption)
    | split

theorem State.restartLease_goes {cl : Bool} {r s : State} (h : r.Goes cl s) {q : Requester} :
    r.Goes cl (State.restartLease s q) := by
  unfold State.restartLease
  repeat' first
    | with_reducible assumption
    | intro _
    | with_reducible apply State.modReq_goes
    | split

theorem State.heardHeartbeat_goes {cl : Bool} {r s : State} (h : r.Goes cl s) {p : CanNo} {node : Nat} :
    r.Goes cl (State.heardHeartbeat s p node) := by
  unfold State.heardHeartbeat
  repeat' first
    | with_reducible assumption
    | intro _
    | (extract_lets +onlyGivenNames t; refine State.Goes.cut (cl := cl) (r := r) (t := t) ?_ fun ht => ?_; subst t; rotate_left; clear_value t)
    | extract_lets +onlyGivenNames _
    | with_reducible apply State.expireBefore_goes
    | with_reducible apply State.restartLease_goes
    | with_reducible apply State.modCan_goes
    | split

theorem State.heartbeatLapses_goes {cl : Bool} {r s : State} (h : r.Goes cl s) {p : CanNo} :
    r.Goes cl (State.heartbeatLapses s p) := by
  unfold State.heartbeatLapses
  repeat' first
    | with_reducible assumption
    | intro _
    | extract_lets +onlyGivenNames _
    | with_reducible apply State.atCycle_goes
    | with_reducible apply State.modCan_goes
    | with_reducible apply State.raise_goes
    | with_reducible refine State.Goes.snd ?_ (by with_reducible assumption)
    | with_reducible refine State.Goes.fst ?_ (by with_reducible assumption)
    | with_reducible refine State.Goes.thd ?_ (by with_reducible assumption)
    | split

theorem State.setCan_goes {cl : Bool} {r s : State} (h : r.Goes cl s) {p : CanNo} {c : CanStatus} {code : Option Nat} :
    r.Goes cl (State.setCan s p c code) := by
  unfold State.setCan
  repeat' first
    | with_reducible assumption
    | intro _
    | (extract_lets +onlyGivenNames t; refine State.Goes.cut (cl := cl) (r := r) (t := t) ?_ fun ht => ?_; subst t; rotate_left; clear_value t)
    | extract_lets +onlyGivenNames _
    | with_reducible apply State.modCan_goes
    | with_reducible apply State.raise_goes
    | with_reducible apply State.settleError_goes
    | with_reducible refine State.Goes.snd ?_ (by with_reducible assumption)
    | with_reducible refine State.Goes.fst ?_ (by with_reducible assumption)
    | with_reducible refine State.Goes.thd ?_ (by with_reducible assumption)
    | split

theorem State.foreign_goes {cl : Bool} {r s : State} (h : r.Goes cl s) {p : CanNo} {node : Nat} :
    r.Goes cl (State.foreign s p node) := by
  unfold State.foreign
  repeat' first
    | with_reducible assumption
    | intro _
    | with_reducible apply State.bump_goes
    | with_reducible apply State.raiseOnce_goes
    | split

theorem versionAct_goes {cl : Bool} {r s : State} (h : r.Goes cl s) {w : Write} {v : OdVal} :
    r.Goes cl (versionAct w v s).2 := by
  unfold versionAct
  repeat' first
    | with_reducible assumption
    | intro _
    | extract_lets +onlyGivenNames _
    | with_reducible apply always_goes
    | with_reducible apply State.modReq_goes
    | with_reducible apply State.raise_goes
    | with_reducible refine State.Goes.snd ?_ (by with_reducible assumption)
    | with_reducible refine State.Goes.fst ?_ (by with_reducible assumption)
    | with_reducible refine State.Goes.thd ?_ (by with_reducible assumption)
    | with_reducible apply Act.ite_goes
    | split

theorem State.enterService_goes {cl : Bool} {r s : State} (h : r.Goes cl s) :
    r.Goes cl (State.enterService s) := by
  unfold State.enterService
  repeat' first
    | with_reducible assumption
    | intro _
    | (extract_lets +onlyGivenNames t; refine State.Goes.cut (cl := cl) (r := r) (t := t) ?_ fun ht => ?_; subst t; rotate_left; clear_value t)
    | extract_lets +onlyGivenNames _
    | with_reducible apply State.setNum_goes
    | with_reducible apply State.modFw_goes
    | with_reducible apply State.record_goes
    | with_reducible apply State.raise_goes
    | with_reducible apply State.settleError_goes
    | with_reducible refine State.Goes.snd ?_ (by with_reducible assumption)
    | with_reducible refine State.Goes.fst ?_ (by with_reducible assumption)
    | with_reducible refine State.Goes.thd ?_ (by with_reducible assumption)
    | split

theorem startAct_goes {cl : Bool} {r s : State} (h : r.Goes cl s) {w : Write} {v : OdVal} :
    r.Goes cl (startAct w v s).2 := by
  unfold startAct
  repeat' first
    | with_reducible assumption
    | intro _
    | with_reducible apply guarded_goes
    | with_reducible apply always_goes
    | with_reducible apply State.enterService_goes

theorem storeAllAct_goes {cl : Bool} {r s : State} (h : r.Goes cl s) {w : Write} {v : OdVal} :
    r.Goes cl (storeAllAct w v s).2 := by
  unfold storeAllAct
  repeat' first
    | with_reducible assumption
    | intro _
    | with_reducible apply always_goes
    | with_reducible apply State.storeSettings_goes

theorem restoreAct_goes {cl : Bool} {r s : State} (h : r.Goes cl s) {w : Write} {v : OdVal} :
    r.Goes cl (restoreAct w v s).2 := by
  unfold restoreAct
  repeat' first
    | with_reducible assumption
    | intro _
    | with_reducible apply always_goes
    | with_reducible apply State.modFw_goes

theorem State.claim_goes {cl : Bool} {r s : State} (h : r.Goes cl s) {q : Requester} {mask : Nat} : r.Goes cl (s.claim q mask).2 := by
  unfold State.claim
  dsimp only
  split
  · exact State.bump_goes h
  · apply State.restartLease_goes
    apply State.modReq_goes
    exact State.Goes.of (s := s.draw.2) (State.draw_goes h) rfl rfl rfl rfl rfl rfl rfl rfl id fun _ => id

theorem claimAct_goes {cl : Bool} {r s : State} (h : r.Goes cl s) {w : Write} {v : OdVal} :
    r.Goes cl (claimAct w v s).2 := by
  unfold claimAct
  repeat' first
    | with_reducible assumption
    | intro _
    | with_reducible apply State.expireBefore_goes
    | with_reducible apply State.claim_goes

theorem State.claimTie_goes {cl : Bool} {r s : State} (h : r.Goes cl s) {w : Write} {b other : Bytes} : r.Goes cl (s.claimTie w b other) := by
  unfold State.claimTie
  extract_lets w' t contends first mine u od
  have h1 : r.Goes cl t := State.expireBefore_goes (State.atCycle_goes h)
  have hf : ∀ w w' b b', r.Goes cl (first w w' b b') := fun _ _ _ _ =>
    State.odRun_goes (State.odRun_goes h1 fun _ _ _ h => claimAct_goes h) fun _ _ _ h => claimAct_goes h
  have hu : r.Goes cl u := State.Goes.ite (fun _ => hf ..) fun _ => hf ..
  split
  · split
    · exact hf ..
    · exact State.Goes.of (s := u) hu rfl rfl rfl rfl rfl rfl rfl rfl id fun _ => id
  · exact hf ..

theorem State.mismatch_goes {cl : Bool} {r s : State} (h : r.Goes cl s) {q : Requester} :
    r.Goes cl (State.mismatch s q) := by
  unfold State.mismatch
  repeat' first
    | with_reducible assumption
    | intro _
    | (extract_lets +onlyGivenNames t; refine State.Goes.cut (cl := cl) (r := r) (t := t) ?_ fun ht => ?_; subst t; rotate_left; clear_value t)
    | extract_lets +onlyGivenNames _
    | with_reducible apply State.bump_goes
    | with_reducible apply State.raiseOnce_goes
    | with_reducible apply State.modReq_goes
    | with_reducible apply State.raise_goes
    | with_reducible refine State.Goes.snd ?_ (by with_reducible assumption)
    | with_reducible refine State.Goes.fst ?_ (by with_reducible assumption)
    | with_reducible refine State.Goes.thd ?_ (by with_reducible assumption)
    | split

theorem tokenAct_goes {cl : Bool} {r s : State} (h : r.Goes cl s) {f : State → Requester → State} {w : Write} {v : OdVal} (hf : ∀ t a1, r.Goes cl t → r.Goes cl (f t a1)) :
    r.Goes cl (tokenAct f w v s).2 := by
  unfold tokenAct
  repeat' first
    | with_reducible assumption
    | intro _
    | extract_lets +onlyGivenNames _
    | with_reducible apply hf
    | with_reducible apply State.mismatch_goes
    | with_reducible refine State.Goes.snd ?_ (by with_reducible assumption)
    | with_reducible refine State.Goes.fst ?_ (by with_reducible assumption)
    | with_reducible refine State.Goes.thd ?_ (by with_reducible assumption)
    | with_reducible apply Act.ite_goes
    | split

theorem releaseAct_goes {cl : Bool} {r s : State} (h : r.Goes cl s) {w : Write} {v : OdVal} :
    r.Goes cl (releaseAct w v s).2 := by
  unfold releaseAct
  repeat' first
    | with_reducible assumption
    | intro _
    | with_reducible apply tokenAct_goes
    | with_reducible apply State.freeDomains_goes

theorem renewAct_goes {cl : Bool} {r s : State} (h : r.Goes cl s) {w : Write} {v : OdVal} :
    r.Goes cl (renewAct w v s).2 := by
  unfold renewAct
  repeat' first
    | with_reducible assumption
    | intro _
    | with_reducible apply tokenAct_goes
    | with_reducible apply State.restartLease_goes

theorem State.leaseEnds_goes {cl : Bool} {r s : State} (h : r.Goes cl s) {q : Requester} :
    r.Goes cl (State.leaseEnds s q) := by
  unfold State.leaseEnds
  repeat' first
    | with_reducible assumption
    | intro _
    | with_reducible apply State.atCycle_goes
    | with_reducible apply State.expireLease_goes
    | split

theorem State.limitEnds_goes {cl : Bool} {r s : State} (h : r.Goes cl s) {q : Requester} :
    r.Goes cl (State.limitEnds s q) := by
  unfold State.limitEnds
  repeat' first
    | with_reducible assumption
    | intro _
    | with_reducible apply State.atCycle_goes
    | with_reducible apply State.modReq_goes
    | with_reducible refine State.Goes.snd ?_ (by with_reducible assumption)
    | with_reducible refine State.Goes.fst ?_ (by with_reducible assumption)
    | with_reducible refine State.Goes.thd ?_ (by with_reducible assumption)
    | split

/-! ### Reset -/

/-- What a reset leaves of the state before it: the queue, the draws and the trace; every window is disabled and every store
is empty. -/
theorem State.cleared_stays (s : State) (st : Straps) (trained : Bool) :
    (s.cleared st trained).pending = s.pending ∧ (s.cleared st trained).free = s.free ∧ (s.cleared st trained).out = s.out
      ∧ (s.cleared st trained).now = 0 ∧ (s.cleared st trained).power.straps = st
      ∧ (s.cleared st trained).Isolated ∧ (s.cleared st trained).Canonical := by
  have hw : ∀ (o : OwnerNo) (n : Fin 64), (s.cleared st trained).windows[o][n] = {} := by
    intro o n
    show (Vector.replicate 16 (Vector.replicate 64 ({} : Window)))[o][n] = {}
    simp
  refine ⟨rfl, rfl, rfl, rfl, rfl, ⟨fun o n => ?_, fun o p _ n m => ?_⟩, ⟨?_, ?_⟩, fun k => ?_⟩
  · rw [hw]; exact Window.legal_empty _
  · rw [hw]; exact Window.apart_empty _
  · exact ⟨List.Pairwise.nil, by simp [State.cleared, State.setNum, State.setEntry]⟩
  · exact ⟨⟨List.Pairwise.nil, by simp [State.cleared, State.setNum, State.setEntry]⟩, List.Pairwise.nil,
      by simp [State.cleared, State.setNum, State.setEntry]⟩
  · have : (s.cleared st trained).isles[k].sp = {} := by
      show (Vector.replicate 16 ({} : IsleState))[k].sp = {}
      simp
    rw [this]
    exact ⟨⟨List.Pairwise.nil, by simp⟩, List.Pairwise.nil, by simp⟩

theorem State.booted_goes {cl : Bool} {r s : State} (h : r.Goes cl s) {b : BootChoice} :
    r.Goes cl (State.booted s b) := by
  unfold State.booted
  repeat' first
    | with_reducible assumption
    | intro _
    | (extract_lets +onlyGivenNames t; refine State.Goes.cut (cl := cl) (r := r) (t := t) ?_ fun ht => ?_; subst t; rotate_left; clear_value t)
    | extract_lets +onlyGivenNames _
    | with_reducible apply State.modFw_goes
    | with_reducible apply State.record_goes
    | with_reducible apply State.setNum_goes
    | with_reducible apply State.each_goes
    | with_reducible apply State.raise_goes
    | with_reducible refine State.Goes.snd ?_ (by with_reducible assumption)
    | with_reducible refine State.Goes.fst ?_ (by with_reducible assumption)
    | with_reducible refine State.Goes.thd ?_ (by with_reducible assumption)
    | split

theorem State.defaultFronts_goes {cl : Bool} {r s : State} (h : r.Goes cl s) :
    r.Goes cl (State.defaultFronts s) := by
  unfold State.defaultFronts
  repeat' first
    | with_reducible assumption
    | intro _
    | with_reducible apply State.each_goes
    | with_reducible apply State.modSlot_goes

theorem State.restoreSettings_goes {cl : Bool} {r s : State} (h : r.Goes cl s) :
    r.Goes cl (State.restoreSettings s) := by
  unfold State.restoreSettings
  repeat' first
    | with_reducible assumption
    | intro _
    | (extract_lets +onlyGivenNames t; refine State.Goes.cut (cl := cl) (r := r) (t := t) ?_ fun ht => ?_; subst t; rotate_left; clear_value t)
    | extract_lets +onlyGivenNames _
    | with_reducible apply State.raise_goes
    | with_reducible apply State.modFw_goes
    | with_reducible apply State.loadBank_goes
    | with_reducible apply State.defaultFronts_goes
    | split

theorem State.startSystem_goes {cl : Bool} {r s : State} (h : r.Goes cl s) :
    r.Goes cl (State.startSystem s) := by
  unfold State.startSystem
  repeat' first
    | with_reducible assumption
    | intro _
    | with_reducible apply State.showSource_goes
    | (extract_lets +onlyGivenNames t; refine State.Goes.cut (cl := cl) (r := r) (t := t) ?_ fun ht => ?_; subst t; rotate_left; clear_value t)
    | extract_lets +onlyGivenNames _
    | with_reducible apply State.setNum_goes
    | with_reducible apply State.modSys_goes
    | with_reducible apply State.raise_goes
    | with_reducible apply State.startRole_goes
    | with_reducible apply State.settleSync_goes
    | split

theorem State.startSlots_goes {cl : Bool} {r s : State} (h : r.Goes cl s) :
    r.Goes cl (State.startSlots s) := by
  unfold State.startSlots
  repeat' first
    | with_reducible assumption
    | intro _
    | (extract_lets +onlyGivenNames t; refine State.Goes.cut (cl := cl) (r := r) (t := t) ?_ fun ht => ?_; subst t; rotate_left; clear_value t)
    | extract_lets +onlyGivenNames _
    | with_reducible apply State.each_goes
    | with_reducible apply State.modSlot_goes
    | with_reducible apply State.renewAdapt_goes

theorem State.startPorts_goes {cl : Bool} {r s : State} (h : r.Goes cl s) :
    r.Goes cl (State.startPorts s) := by
  unfold State.startPorts
  repeat' first
    | with_reducible assumption
    | intro _
    | (extract_lets +onlyGivenNames t; refine State.Goes.cut (cl := cl) (r := r) (t := t) ?_ fun ht => ?_; subst t; rotate_left; clear_value t)
    | extract_lets +onlyGivenNames _
    | with_reducible apply State.each_goes
    | with_reducible apply State.applyCan_goes
    | with_reducible apply State.emit_goes
    | with_reducible apply State.armHeartbeat_goes
    | with_reducible apply State.setNum_goes
    | split

theorem State.reportTrip_goes {cl : Bool} {r s : State} (h : r.Goes cl s) {t : Option Nat} :
    r.Goes cl (State.reportTrip s t) := by
  unfold State.reportTrip
  repeat' first
    | with_reducible assumption
    | intro _
    | with_reducible apply State.setNum_goes
    | with_reducible apply State.raise_goes
    | with_reducible refine State.Goes.snd ?_ (by with_reducible assumption)
    | with_reducible refine State.Goes.fst ?_ (by with_reducible assumption)
    | with_reducible refine State.Goes.thd ?_ (by with_reducible assumption)
    | split

/-- A reset goes on: the queue, the draws and the trace stay, and the rest is isolated and canonical. -/
theorem State.restart_goes {r s : State} (h : r.Goes false s) {st : Straps} {trained : Bool} {fails : Nat} :
    r.Goes false (s.restart st trained fails) := by
  have hc := s.cleared_stays st trained
  have h0 : r.Goes false (s.cleared st trained) := h.trans ⟨⟨hc.1, hc.2.1 ▸ le_refl _, hc.2.2.1 ▸ List.prefix_refl _,
    fun _ => hc.2.2.2.2.2.1, fun _ => hc.2.2.2.2.2.2⟩, nofun, nofun⟩
  unfold State.restart
  generalize s.cleared st trained = r' at h0 ⊢
  repeat' first
    | with_reducible assumption
    | (extract_lets +onlyGivenNames t; refine State.Goes.cut (cl := false) (r := r) (t := t) ?_ fun ht => ?_; subst t; rotate_left; clear_value t)
    | extract_lets +onlyGivenNames _
    | with_reducible apply State.reportTrip_goes
    | with_reducible apply State.booted_goes
    | with_reducible apply State.raise_goes
    | with_reducible apply State.startSystem_goes
    | with_reducible apply State.restoreSettings_goes
    | exact fun _ => ⟨rfl, rfl⟩
    | with_reducible apply State.modTick_goes
    | with_reducible apply State.startPorts_goes
    | with_reducible apply State.startSlots_goes
    | with_reducible apply State.resumeLedger_goes
    | with_reducible apply State.storeSettings_goes
    | with_reducible apply State.settleError_goes
    | split

/-! ### Firmware -/

theorem updateAct_goes {cl : Bool} {r s : State} (h : r.Goes cl s) {c : UpdateCommand} {f : State → State} {w : Write} {v : OdVal} (hf : ∀ t, r.Goes cl t → r.Goes cl (f t)) :
    r.Goes cl (updateAct c f w v s).2 := by
  unfold updateAct
  repeat' first
    | with_reducible assumption
    | intro _
    | with_reducible apply hf
    | with_reducible apply State.setNum_goes
    | with_reducible apply State.raise_goes
    | with_reducible refine State.Goes.snd ?_ (by with_reducible assumption)
    | with_reducible refine State.Goes.fst ?_ (by with_reducible assumption)
    | with_reducible refine State.Goes.thd ?_ (by with_reducible assumption)
    | with_reducible apply Act.ite_goes
    | split

theorem State.noteFailure_goes {cl : Bool} {r s : State} (h : r.Goes cl s) {code : Nat} :
    r.Goes cl (State.noteFailure s code) := by
  unfold State.noteFailure
  repeat' first
    | with_reducible assumption
    | intro _
    | with_reducible apply State.setNum_goes

theorem State.emptyIdle_goes {cl : Bool} {r s : State} (h : r.Goes cl s) :
    r.Goes cl (State.emptyIdle s) := by
  unfold State.emptyIdle
  repeat' first
    | with_reducible assumption
    | intro _
    | extract_lets +onlyGivenNames _
    | with_reducible apply State.setBoot_goes
    | with_reducible apply State.modFw_goes

theorem State.failStaging_goes {cl : Bool} {r s : State} (h : r.Goes cl s) {code : Nat} :
    r.Goes cl (State.failStaging s code) := by
  unfold State.failStaging
  repeat' first
    | with_reducible assumption
    | intro _
    | with_reducible apply State.modFw_goes
    | with_reducible apply State.emptyIdle_goes
    | with_reducible apply State.noteFailure_goes

theorem State.beginStaging_goes {cl : Bool} {r s : State} (h : r.Goes cl s) {card : Option Bytes} :
    r.Goes cl (State.beginStaging s card) := by
  unfold State.beginStaging
  repeat' first
    | with_reducible assumption
    | intro _
    | with_reducible apply State.failStaging_goes
    | with_reducible apply State.raise_goes
    | with_reducible apply State.modFw_goes
    | with_reducible apply State.setNum_goes
    | with_reducible apply State.emptyIdle_goes
    | with_reducible refine State.Goes.snd ?_ (by with_reducible assumption)
    | with_reducible refine State.Goes.fst ?_ (by with_reducible assumption)
    | with_reducible refine State.Goes.thd ?_ (by with_reducible assumption)
    | split

theorem stageAct_goes {cl : Bool} {r s : State} (h : r.Goes cl s) {card : Option Bytes} {w : Write} {v : OdVal} :
    r.Goes cl (stageAct card w v s).2 := by
  unfold stageAct
  repeat' first
    | with_reducible assumption
    | intro _
    | with_reducible apply updateAct_goes
    | with_reducible apply State.beginStaging_goes

theorem State.endStaging_goes {cl : Bool} {r s : State} (h : r.Goes cl s) {readBack : Bool} :
    r.Goes cl (State.endStaging s readBack) := by
  unfold State.endStaging
  repeat' first
    | with_reducible assumption
    | intro _
    | (extract_lets +onlyGivenNames t; refine State.Goes.cut (cl := cl) (r := r) (t := t) ?_ fun ht => ?_; subst t; rotate_left; clear_value t)
    | extract_lets +onlyGivenNames _
    | with_reducible apply State.failStaging_goes
    | with_reducible apply State.raise_goes
    | with_reducible apply State.modFw_goes
    | with_reducible apply State.setBoot_goes
    | with_reducible apply State.setNum_goes
    | with_reducible refine State.Goes.snd ?_ (by with_reducible assumption)
    | with_reducible refine State.Goes.fst ?_ (by with_reducible assumption)
    | with_reducible refine State.Goes.thd ?_ (by with_reducible assumption)
    | split

theorem State.cardRemoved_goes {cl : Bool} {r s : State} (h : r.Goes cl s) :
    r.Goes cl (State.cardRemoved s) := by
  unfold State.cardRemoved
  repeat' first
    | with_reducible assumption
    | intro _
    | with_reducible apply State.failStaging_goes
    | with_reducible apply State.raise_goes
    | split

theorem State.switchBank_goes {cl : Bool} {r s : State} (h : r.Goes cl s) {core : Nat} :
    r.Goes cl (State.switchBank s core) := by
  unfold State.switchBank
  repeat' first
    | with_reducible assumption
    | intro _
    | with_reducible apply State.modFw_goes

theorem State.runImage_goes {cl : Bool} {r s : State} (h : r.Goes cl s) {slot : Bool} :
    r.Goes cl (State.runImage s slot) := by
  unfold State.runImage
  repeat' first
    | with_reducible assumption
    | intro _
    | with_reducible apply State.modFw_goes

theorem State.beginActivation_goes {cl : Bool} {r s : State} (h : r.Goes cl s) {revert : Bool} {target : Bool} :
    r.Goes cl (State.beginActivation s revert target) := by
  unfold State.beginActivation
  repeat' first
    | with_reducible assumption
    | intro _
    | (extract_lets +onlyGivenNames t; refine State.Goes.cut (cl := cl) (r := r) (t := t) ?_ fun ht => ?_; subst t; rotate_left; clear_value t)
    | extract_lets +onlyGivenNames _
    | with_reducible apply State.raise_goes
    | with_reducible apply State.abandonWhere_goes
    | with_reducible apply State.modFw_goes

theorem State.activateRecovery_goes {r s : State} (h : r.Goes false s) {target : Bool} :
    r.Goes false (State.activateRecovery s target) := by
  unfold State.activateRecovery
  repeat' first
    | with_reducible assumption
    | intro _
    | (extract_lets +onlyGivenNames t; refine State.Goes.cut (cl := false) (r := r) (t := t) ?_ fun ht => ?_; subst t; rotate_left; clear_value t)
    | extract_lets +onlyGivenNames _
    | with_reducible apply State.setBoot_goes
    | with_reducible apply State.noteFailure_goes
    | with_reducible apply State.raise_goes
    | with_reducible apply State.restart_goes
    | with_reducible refine State.Goes.snd ?_ (by with_reducible assumption)
    | with_reducible refine State.Goes.fst ?_ (by with_reducible assumption)
    | with_reducible refine State.Goes.thd ?_ (by with_reducible assumption)
    | split

theorem activateAct_goes {r s : State} (h : r.Goes false s) {w : Write} {v : OdVal} :
    r.Goes false (activateAct w v s).2 := by
  unfold activateAct
  repeat' first
    | with_reducible assumption
    | intro _
    | extract_lets +onlyGivenNames _
    | with_reducible apply updateAct_goes
    | with_reducible apply State.activate_goes
    | with_reducible apply State.activateRecovery_goes
    | with_reducible apply State.beginActivation_goes
    | with_reducible refine State.Goes.snd ?_ (by with_reducible assumption)
    | with_reducible refine State.Goes.fst ?_ (by with_reducible assumption)
    | with_reducible refine State.Goes.thd ?_ (by with_reducible assumption)
    | with_reducible apply Act.ite_goes
    | split

theorem revertAct_goes {cl : Bool} {r s : State} (h : r.Goes cl s) {w : Write} {v : OdVal} :
    r.Goes cl (revertAct w v s).2 := by
  unfold revertAct
  repeat' first
    | with_reducible assumption
    | intro _
    | with_reducible apply updateAct_goes
    | with_reducible apply State.beginActivation_goes

theorem State.endPause_goes {cl : Bool} {r s : State} (h : r.Goes cl s) {a : Activation} :
    r.Goes cl (State.endPause s a) := by
  unfold State.endPause
  repeat' first
    | with_reducible assumption
    | intro _
    | with_reducible apply State.setNum_goes

theorem State.failActivation_goes {cl : Bool} {r s : State} (h : r.Goes cl s) {a : Activation} {code : Nat} :
    r.Goes cl (State.failActivation s a code) := by
  unfold State.failActivation
  repeat' first
    | with_reducible assumption
    | intro _
    | (extract_lets +onlyGivenNames t; refine State.Goes.cut (cl := cl) (r := r) (t := t) ?_ fun ht => ?_; subst t; rotate_left; clear_value t)
    | extract_lets +onlyGivenNames _
    | with_reducible apply State.setBoot_goes
    | with_reducible apply State.modFw_goes
    | with_reducible apply State.noteFailure_goes
    | with_reducible apply State.raise_goes

theorem State.switchBack_goes {cl : Bool} {r s : State} (h : r.Goes cl s) {last : Nat} :
    r.Goes cl (State.switchBack s last) := by
  unfold State.switchBack
  repeat' first
    | with_reducible assumption
    | intro _
    | with_reducible apply State.each_goes
    | with_reducible apply State.switchBank_goes
    | with_reducible apply State.runImage_goes

theorem State.writeHandoff_goes {cl : Bool} {r s : State} (h : r.Goes cl s) {core : Nat} {r0 : Bytes} :
    r.Goes cl (State.writeHandoff s core r0) := by
  unfold State.writeHandoff
  repeat' first
    | with_reducible assumption
    | intro _
    | with_reducible apply State.modFw_goes

theorem State.switchCore_goes {cl : Bool} {r s : State} (h : r.Goes cl s) {a : Activation} {core : Nat} {r0 : Bytes} {selfCheck : Bool} :
    r.Goes cl (State.switchCore s a core r0 selfCheck) := by
  unfold State.switchCore
  repeat' first
    | with_reducible assumption
    | intro _
    | (extract_lets +onlyGivenNames t; refine State.Goes.cut (cl := cl) (r := r) (t := t) ?_ fun ht => ?_; subst t; rotate_left; clear_value t)
    | extract_lets +onlyGivenNames _
    | with_reducible apply State.writeHandoff_goes
    | with_reducible apply State.switchBank_goes
    | with_reducible apply State.runImage_goes
    | with_reducible apply State.endPause_goes
    | with_reducible apply State.modFw_goes
    | with_reducible apply State.switchBack_goes
    | with_reducible apply State.failActivation_goes
    | split

theorem State.coreSwitch_goes {cl : Bool} {r s : State} (h : r.Goes cl s) {r0 : Bytes} {selfCheck : Bool} :
    r.Goes cl (State.coreSwitch s r0 selfCheck) := by
  unfold State.coreSwitch
  repeat' first
    | with_reducible assumption
    | intro _
    | extract_lets +onlyGivenNames _
    | with_reducible apply State.endPause_goes
    | with_reducible apply State.failActivation_goes
    | with_reducible apply State.switchCore_goes
    | with_reducible refine State.Goes.snd ?_ (by with_reducible assumption)
    | with_reducible refine State.Goes.fst ?_ (by with_reducible assumption)
    | with_reducible refine State.Goes.thd ?_ (by with_reducible assumption)
    | split

theorem State.holdPeriod_goes {cl : Bool} {r s : State} (h : r.Goes cl s) {p : Nat} : r.Goes cl (State.holdPeriod s p) := by
  have g : r.Goes cl (s.setNum 0x2100 1 p) := State.setNum_goes h
  unfold State.holdPeriod
  dsimp only
  split
  · exact g
  · exact State.Goes.of g rfl rfl rfl rfl rfl rfl rfl rfl id (fun _ => id)

theorem State.revertSettings_goes {cl : Bool} {r s : State} (h : r.Goes cl s) :
    r.Goes cl (State.revertSettings s) := by
  unfold State.revertSettings
  repeat' first
    | with_reducible assumption
    | intro _
    | with_reducible apply State.holdPeriod_goes
    | (extract_lets +onlyGivenNames t; refine State.Goes.cut (cl := cl) (r := r) (t := t) ?_ fun ht => ?_; subst t; rotate_left; clear_value t)
    | extract_lets +onlyGivenNames _
    | with_reducible apply State.each_goes
    | with_reducible apply State.modSlot_goes
    | with_reducible apply State.loadBank_goes
    | with_reducible apply State.defaultFronts_goes
    | with_reducible apply State.setNum_goes
    | with_reducible apply State.epochSlot_goes
    | with_reducible apply State.epochPort_goes
    | with_reducible apply State.startRole_goes
    | with_reducible apply State.settleSync_goes
    | with_reducible apply State.settleError_goes
    | split
    | dsimp -zeta only
    | refine State.Goes.of (s := s) ?_ rfl rfl rfl rfl rfl rfl rfl rfl id (fun _ => id)

theorem State.completeActivation_goes {cl : Bool} {r s : State} (h : r.Goes cl s) {a : Activation} :
    r.Goes cl (State.completeActivation s a) := by
  unfold State.completeActivation
  repeat' first
    | with_reducible assumption
    | intro _
    | (extract_lets +onlyGivenNames t; refine State.Goes.cut (cl := cl) (r := r) (t := t) ?_ fun ht => ?_; subst t; rotate_left; clear_value t)
    | extract_lets +onlyGivenNames _
    | with_reducible apply State.modFw_goes
    | with_reducible apply State.setNum_goes
    | with_reducible apply State.setBoot_goes
    | with_reducible apply State.revertSettings_goes
    | with_reducible apply State.storeSettings_goes
    | with_reducible apply State.raise_goes
    | with_reducible apply Act.ite_goes
    | split

theorem State.schedulerSwitch_goes {cl : Bool} {r s : State} (h : r.Goes cl s) {r0 : Bytes} {selfCheck : Bool} :
    r.Goes cl (State.schedulerSwitch s r0 selfCheck) := by
  unfold State.schedulerSwitch
  repeat' first
    | with_reducible assumption
    | intro _
    | (extract_lets +onlyGivenNames t; refine State.Goes.cut (cl := cl) (r := r) (t := t) ?_ fun ht => ?_; subst t; rotate_left; clear_value t)
    | extract_lets +onlyGivenNames _
    | with_reducible apply State.writeHandoff_goes
    | with_reducible apply State.switchBank_goes
    | with_reducible apply State.completeActivation_goes
    | with_reducible apply State.modFw_goes
    | with_reducible apply State.switchBack_goes
    | with_reducible apply State.failActivation_goes
    | with_reducible refine State.Goes.snd ?_ (by with_reducible assumption)
    | with_reducible refine State.Goes.fst ?_ (by with_reducible assumption)
    | with_reducible refine State.Goes.thd ?_ (by with_reducible assumption)
    | split

theorem State.resumeActivation_goes {cl : Bool} {r s : State} (h : r.Goes cl s) :
    r.Goes cl (State.resumeActivation s) := by
  unfold State.resumeActivation
  repeat' first
    | with_reducible assumption
    | intro _
    | with_reducible apply State.atCycle_goes
    | with_reducible apply State.modFw_goes
    | with_reducible refine State.Goes.snd ?_ (by with_reducible assumption)
    | with_reducible refine State.Goes.fst ?_ (by with_reducible assumption)
    | with_reducible refine State.Goes.thd ?_ (by with_reducible assumption)
    | with_reducible apply Act.ite_goes
    | split

theorem State.updateOnPfw_goes {cl : Bool} {r s : State} (h : r.Goes cl s) :
    r.Goes cl (State.updateOnPfw s) := by
  unfold State.updateOnPfw
  repeat' first
    | with_reducible assumption
    | intro _
    | (extract_lets +onlyGivenNames t; refine State.Goes.cut (cl := cl) (r := r) (t := t) ?_ fun ht => ?_; subst t; rotate_left; clear_value t)
    | extract_lets +onlyGivenNames _
    | with_reducible apply State.failStaging_goes
    | with_reducible apply State.endPause_goes
    | with_reducible apply State.modFw_goes
    | with_reducible apply State.noteFailure_goes
    | with_reducible apply State.raise_goes
    | with_reducible refine State.Goes.snd ?_ (by with_reducible assumption)
    | with_reducible refine State.Goes.fst ?_ (by with_reducible assumption)
    | with_reducible refine State.Goes.thd ?_ (by with_reducible assumption)
    | split

theorem State.confirm_goes {cl : Bool} {r s : State} (h : r.Goes cl s) :
    r.Goes cl (State.confirm s) := by
  unfold State.confirm
  repeat' first
    | with_reducible assumption
    | intro _
    | (extract_lets +onlyGivenNames t; refine State.Goes.cut (cl := cl) (r := r) (t := t) ?_ fun ht => ?_; subst t; rotate_left; clear_value t)
    | extract_lets +onlyGivenNames _
    | with_reducible apply State.setBoot_goes
    | with_reducible apply State.modFw_goes
    | with_reducible apply State.raise_goes
    | with_reducible refine State.Goes.snd ?_ (by with_reducible assumption)
    | with_reducible refine State.Goes.fst ?_ (by with_reducible assumption)
    | with_reducible refine State.Goes.thd ?_ (by with_reducible assumption)
    | split

theorem confirmAct_goes {cl : Bool} {r s : State} (h : r.Goes cl s) {w : Write} {v : OdVal} :
    r.Goes cl (confirmAct w v s).2 := by
  unfold confirmAct
  repeat' first
    | with_reducible assumption
    | intro _
    | with_reducible apply guarded_goes
    | with_reducible apply always_goes
    | with_reducible apply State.confirm_goes

theorem State.autoConfirm_goes {cl : Bool} {r s : State} (h : r.Goes cl s) :
    r.Goes cl (State.autoConfirm s) := by
  unfold State.autoConfirm
  repeat' first
    | with_reducible assumption
    | intro _
    | with_reducible apply State.atCycle_goes
    | with_reducible apply State.confirm_goes
    | with_reducible refine State.Goes.snd ?_ (by with_reducible assumption)
    | with_reducible refine State.Goes.fst ?_ (by with_reducible assumption)
    | with_reducible refine State.Goes.thd ?_ (by with_reducible assumption)
    | split

/-! ### Ledger -/

theorem State.chargeEnergy_goes {cl : Bool} {r s : State} (h : r.Goes cl s) {o : OwnerNo} {e : Nat} :
    r.Goes cl (State.chargeEnergy s o e) := by
  unfold State.chargeEnergy
  repeat' first
    | with_reducible assumption
    | intro _
    | extract_lets +onlyGivenNames _
    | with_reducible apply State.modLedger_goes

theorem State.energySample_goes {cl : Bool} {r s : State} (h : r.Goes cl s) {isles : Vector Nat 16} {front : Nat} {movers : Nat} {rest : Nat} {mv : Nat} {amps : Nat} :
    r.Goes cl (State.energySample s isles front movers rest mv amps) := by
  unfold State.energySample
  repeat' first
    | with_reducible assumption
    | intro _
    | (extract_lets +onlyGivenNames t; refine State.Goes.cut (cl := cl) (r := r) (t := t) ?_ fun ht => ?_; subst t; rotate_left; clear_value t)
    | extract_lets +onlyGivenNames _
    | with_reducible apply State.setNum_goes
    | with_reducible apply State.each_goes
    | with_reducible apply State.chargeEnergy_goes
    | with_reducible apply State.modLedger_goes
    | refine State.Goes.mapIsles ?_ (fun _ => rfl)
    | split

/-! ### Owners -/

theorem createAct_goes {cl : Bool} {r s : State} (h : r.Goes cl s) {w : Write} {v : OdVal} :
    r.Goes cl (createAct w v s).2 := by
  unfold createAct
  repeat' first
    | with_reducible assumption
    | intro _
    | extract_lets +onlyGivenNames _
    | with_reducible apply guarded_goes
    | with_reducible apply always_goes
    | with_reducible apply State.modOwner_goes
    | with_reducible apply State.modMem_goes
    | with_reducible refine State.Goes.snd ?_ (by with_reducible assumption)
    | with_reducible refine State.Goes.fst ?_ (by with_reducible assumption)
    | with_reducible refine State.Goes.thd ?_ (by with_reducible assumption)
    | exact ‹MemState.Canonical _›

theorem State.noteKeyCounter_goes {cl : Bool} {r s : State} (h : r.Goes cl s) {b : Bytes} :
    r.Goes cl (State.noteKeyCounter s b) := by
  unfold State.noteKeyCounter
  repeat' first
    | with_reducible assumption
    | intro _
    | with_reducible apply State.modOwner_goes
    | split
    | dsimp -zeta only
    | refine State.Goes.of (s := s) ?_ rfl rfl rfl rfl rfl rfl rfl rfl id (fun _ => id)

theorem State.renewSession_goes {cl : Bool} {r s : State} (h : r.Goes cl s) {key : Nat} :
    r.Goes cl (State.renewSession s key) := by
  unfold State.renewSession
  repeat' first
    | with_reducible assumption
    | intro _
    | with_reducible apply State.modSys_goes

theorem State.putKey_goes {cl : Bool} {r s : State} (h : r.Goes cl s) {b : Bytes} {p : Bytes} :
    r.Goes cl (State.putKey s b p) := by
  unfold State.putKey
  repeat' first
    | with_reducible assumption
    | intro _
    | extract_lets +onlyGivenNames _
    | with_reducible apply State.modOwner_goes
    | with_reducible apply State.renewSession_goes
    | with_reducible refine State.Goes.snd ?_ (by with_reducible assumption)
    | with_reducible refine State.Goes.fst ?_ (by with_reducible assumption)
    | with_reducible refine State.Goes.thd ?_ (by with_reducible assumption)
    | split

theorem keyLoadAct_goes {cl : Bool} {r s : State} (h : r.Goes cl s) {w : Write} {v : OdVal} :
    r.Goes cl (keyLoadAct w v s).2 := by
  unfold keyLoadAct
  repeat' first
    | with_reducible assumption
    | intro _
    | with_reducible apply State.raise_goes
    | with_reducible apply State.putKey_goes
    | with_reducible apply State.noteKeyCounter_goes
    | with_reducible refine State.Goes.snd ?_ (by with_reducible assumption)
    | with_reducible refine State.Goes.fst ?_ (by with_reducible assumption)
    | with_reducible refine State.Goes.thd ?_ (by with_reducible assumption)
    | with_reducible apply Act.ite_goes
    | split

theorem State.setLock_goes {cl : Bool} {r s : State} (h : r.Goes cl s) {o : Nat} {on : Bool} :
    r.Goes cl (State.setLock s o on) := by
  unfold State.setLock
  repeat' first
    | with_reducible assumption
    | intro _
    | extract_lets +onlyGivenNames _
    | with_reducible apply State.setNum_goes

theorem lockAct_goes {cl : Bool} {r s : State} (h : r.Goes cl s) {w : Write} {v : OdVal} :
    r.Goes cl (lockAct w v s).2 := by
  unfold lockAct
  repeat' first
    | with_reducible assumption
    | intro _
    | (extract_lets +onlyGivenNames t; refine State.Goes.cut (cl := cl) (r := r) (t := t) ?_ fun ht => ?_; subst t; rotate_left; clear_value t)
    | extract_lets +onlyGivenNames _
    | with_reducible apply guarded_goes
    | with_reducible apply always_goes
    | with_reducible apply State.modOwner_goes
    | with_reducible apply State.setLock_goes
    | with_reducible apply State.raise_goes
    | with_reducible refine State.Goes.snd ?_ (by with_reducible assumption)
    | with_reducible refine State.Goes.fst ?_ (by with_reducible assumption)
    | with_reducible refine State.Goes.thd ?_ (by with_reducible assumption)
    | with_reducible apply Act.ite_goes
    | split

theorem State.stopOwner_goes {cl : Bool} {r s : State} (h : r.Goes cl s) {o : OwnerNo} :
    r.Goes cl (State.stopOwner s o) := by
  unfold State.stopOwner
  repeat' first
    | with_reducible assumption
    | intro _
    | (extract_lets +onlyGivenNames t; refine State.Goes.cut (cl := cl) (r := r) (t := t) ?_ fun ht => ?_; subst t; rotate_left; clear_value t)
    | extract_lets +onlyGivenNames _
    | with_reducible apply State.stopWhere_goes
    | with_reducible apply State.each_goes
    | with_reducible apply State.closeCounter_goes
    | with_reducible apply State.abortWhere_goes
    | with_reducible apply State.abandonWhere_goes
    | with_reducible apply State.failFrames_goes
    | with_reducible apply State.endEntry_goes
    | with_reducible apply State.transmitResult_goes

theorem State.clearWindows_isolated {s t : State} {o : OwnerNo} (h : s.Isolated)
    (ht : t.windows = s.windows.set o (Vector.replicate 64 {})) (hp : t.power.straps = s.power.straps) : t.Isolated := by
  have hg : ∀ (p : OwnerNo) (m : Fin 64), t.windows[p][m] = if p = o then {} else s.windows[p][m] := by
    intro p m
    rw [ht]
    simp only [Fin.getElem_fin, Vector.getElem_set]
    by_cases e : o = p
    · subst e
      simp
    · have : ¬ o.val = p.val := fun c => e (Fin.ext c)
      have e' : ¬ p = o := fun c => e c.symm
      simp [this, e']
  have htop : t.memTop = s.memTop := by unfold State.memTop; rw [hp]
  refine ⟨fun p m => ?_, fun p q hpq m k => ?_⟩
  · rw [hg, htop]
    split
    · exact Window.legal_empty _
    · exact h.1 p m
  · rw [hg, hg]
    split
    · exact Window.apart_empty _
    · split
      · exact (Window.apart_empty _).symm
      · exact h.2 p q hpq m k

theorem State.withdrawOwner_goes {cl : Bool} {r s : State} (h : r.Goes cl s) {o : OwnerNo} : r.Goes cl (s.withdrawOwner o) := by
  unfold State.withdrawOwner
  apply State.setLock_goes
  apply State.modOwner_goes
  exact h.next ⟨rfl, le_refl _, List.prefix_refl _, fun hi => State.clearWindows_isolated hi rfl rfl, id⟩ rfl rfl

theorem State.killOwner_goes {cl : Bool} {r s : State} (h : r.Goes cl s) {o : OwnerNo} :
    r.Goes cl (State.killOwner s o) := by
  unfold State.killOwner
  repeat' first
    | with_reducible assumption
    | intro _
    | (extract_lets +onlyGivenNames t; refine State.Goes.cut (cl := cl) (r := r) (t := t) ?_ fun ht => ?_; subst t; rotate_left; clear_value t)
    | extract_lets +onlyGivenNames _
    | with_reducible apply State.modOwner_goes
    | with_reducible apply State.raise_goes
    | with_reducible apply State.stopOwner_goes
    | with_reducible apply State.withdrawOwner_goes

theorem State.relayKill_goes {cl : Bool} {r s : State} (h : r.Goes cl s) {o : Nat} :
    r.Goes cl (State.relayKill s o) := by
  unfold State.relayKill
  repeat' first
    | with_reducible assumption
    | intro _
    | with_reducible apply State.each_goes
    | with_reducible apply State.claimOn_goes
    | with_reducible apply State.relayTo_goes
    | split

theorem killAct_goes {cl : Bool} {r s : State} (h : r.Goes cl s) {w : Write} {v : OdVal} :
    r.Goes cl (killAct w v s).2 := by
  unfold killAct
  repeat' first
    | with_reducible assumption
    | intro _
    | with_reducible apply guarded_goes
    | with_reducible apply always_goes
    | with_reducible apply State.killOwner_goes
    | with_reducible apply State.relayKill_goes

theorem State.completeScrub_goes {cl : Bool} {r s : State} (h : r.Goes cl s) {o : OwnerNo} :
    r.Goes cl (State.completeScrub s o) := by
  unfold State.completeScrub
  repeat' first
    | with_reducible assumption
    | intro _
    | (extract_lets +onlyGivenNames t; refine State.Goes.cut (cl := cl) (r := r) (t := t) ?_ fun ht => ?_; subst t; rotate_left; clear_value t)
    | extract_lets +onlyGivenNames _
    | with_reducible apply State.each_goes
    | with_reducible apply State.modSp_goes
    | with_reducible apply State.modMem_goes
    | with_reducible apply State.modOwner_goes
    | with_reducible apply State.raise_goes
    | with_reducible refine State.Goes.snd ?_ (by with_reducible assumption)
    | with_reducible refine State.Goes.fst ?_ (by with_reducible assumption)
    | with_reducible refine State.Goes.thd ?_ (by with_reducible assumption)
    | with_reducible apply Scratchpad.scrubOwner_canonical
    | exact MemState.filterEth_canonical ‹MemState.Canonical _›
    | exact ‹MemState.Canonical _›
    | exact ‹Scratchpad.Canonical _›
    | split

theorem State.overdueScrub_goes {cl : Bool} {r s : State} (h : r.Goes cl s) {o : OwnerNo} :
    r.Goes cl (State.overdueScrub s o) := by
  unfold State.overdueScrub
  repeat' first
    | with_reducible assumption
    | intro _
    | extract_lets +onlyGivenNames _
    | with_reducible apply State.modOwner_goes
    | with_reducible apply State.raise_goes
    | split

/-! ### Power -/

theorem State.powerGood_goes {cl : Bool} {r s : State} (h : r.Goes cl s) :
    r.Goes cl (State.powerGood s) := by
  unfold State.powerGood
  repeat' first
    | with_reducible assumption
    | intro _
    | (extract_lets +onlyGivenNames t; refine State.Goes.cut (cl := cl) (r := r) (t := t) ?_ fun ht => ?_; subst t; rotate_left; clear_value t)
    | extract_lets +onlyGivenNames _
    | with_reducible apply State.atCycle_goes
    | with_reducible apply State.setNum_goes
    | with_reducible apply State.enterService_goes
    | with_reducible apply State.settleError_goes
    | split

theorem State.pauseAll_goes {cl : Bool} {r s : State} (h : r.Goes cl s) :
    r.Goes cl (State.pauseAll s) := by
  unfold State.pauseAll
  repeat' first
    | with_reducible assumption
    | intro _
    | with_reducible apply State.each_goes
    | with_reducible apply State.modChan_goes
    | with_reducible apply State.pauseChan_goes
    | split

theorem State.stopPorts_goes {cl : Bool} {r s : State} (h : r.Goes cl s) :
    r.Goes cl (State.stopPorts s) := by
  unfold State.stopPorts
  repeat' first
    | with_reducible assumption
    | intro _
    | extract_lets +onlyGivenNames _
    | with_reducible apply State.each_goes
    | with_reducible apply State.dropLink_goes
    | split

theorem State.startShed_goes {cl : Bool} {r s : State} (h : r.Goes cl s) {f : ShedFigures} :
    r.Goes cl (State.startShed s f) := by
  unfold State.startShed
  repeat' first
    | with_reducible assumption
    | intro _
    | (extract_lets +onlyGivenNames t; refine State.Goes.cut (cl := cl) (r := r) (t := t) ?_ fun ht => ?_; subst t; rotate_left; clear_value t)
    | extract_lets +onlyGivenNames _
    | with_reducible apply State.setNum_goes
    | with_reducible apply State.bump_goes
    | with_reducible apply State.modPower_goes
    | with_reducible apply State.modLedger_goes
    | with_reducible apply State.pauseAll_goes
    | with_reducible apply State.stopPorts_goes
    | with_reducible apply State.abandonWhere_goes
    | with_reducible apply State.updateOnPfw_goes
    | with_reducible apply State.commitPowerFail_goes
    | with_reducible apply State.raise_goes
    | rfl
    | split

theorem State.pfwAsserted_goes {cl : Bool} {r s : State} (h : r.Goes cl s) {f : ShedFigures} :
    r.Goes cl (State.pfwAsserted s f) := by
  unfold State.pfwAsserted
  repeat' first
    | with_reducible assumption
    | intro _
    | (extract_lets +onlyGivenNames t; refine State.Goes.cut (cl := cl) (r := r) (t := t) ?_ fun ht => ?_; subst t; rotate_left; clear_value t)
    | extract_lets +onlyGivenNames _
    | with_reducible apply State.setNum_goes
    | with_reducible apply State.raise_goes
    | with_reducible apply State.startShed_goes
    | with_reducible apply State.settleError_goes
    | split

theorem State.recover_goes {cl : Bool} {r s : State} (h : r.Goes cl s) :
    r.Goes cl (State.recover s) := by
  unfold State.recover
  repeat' first
    | with_reducible assumption
    | intro _
    | (extract_lets +onlyGivenNames t; refine State.Goes.cut (cl := cl) (r := r) (t := t) ?_ fun ht => ?_; subst t; rotate_left; clear_value t)
    | extract_lets +onlyGivenNames _
    | with_reducible apply State.setNum_goes
    | with_reducible apply State.each_goes
    | split

theorem State.pfwDeasserted_goes {cl : Bool} {r s : State} (h : r.Goes cl s) :
    r.Goes cl (State.pfwDeasserted s) := by
  unfold State.pfwDeasserted
  repeat' first
    | with_reducible assumption
    | intro _
    | (extract_lets +onlyGivenNames t; refine State.Goes.cut (cl := cl) (r := r) (t := t) ?_ fun ht => ?_; subst t; rotate_left; clear_value t)
    | extract_lets +onlyGivenNames _
    | with_reducible apply State.setNum_goes
    | with_reducible apply State.modPower_goes
    | with_reducible apply State.raise_goes
    | with_reducible apply State.recover_goes
    | with_reducible apply State.settleError_goes
    | rfl
    | split

theorem State.thermAsserted_goes {cl : Bool} {r s : State} (h : r.Goes cl s) :
    r.Goes cl (State.thermAsserted s) := by
  unfold State.thermAsserted
  repeat' first
    | with_reducible assumption
    | intro _
    | with_reducible apply State.setNum_goes
    | with_reducible apply State.raise_goes
    | with_reducible apply State.settleClocks_goes
    | split

theorem State.thermDeasserted_goes {cl : Bool} {r s : State} (h : r.Goes cl s) :
    r.Goes cl (State.thermDeasserted s) := by
  unfold State.thermDeasserted
  repeat' first
    | with_reducible assumption
    | intro _
    | with_reducible apply State.setNum_goes
    | with_reducible apply State.settleClocks_goes
    | with_reducible apply State.settleError_goes
    | split

theorem State.tripOn_goes {cl : Bool} {r s : State} (h : r.Goes cl s) {k : Nat} :
    r.Goes cl (State.tripOn s k) := by
  unfold State.tripOn
  repeat' first
    | with_reducible assumption
    | intro _
    | with_reducible apply State.modPower_goes
    | rfl

theorem State.sampleTemps_goes {cl : Bool} {r s : State} (h : r.Goes cl s) {ts : Vector Int 20} :
    r.Goes cl (State.sampleTemps s ts) := by
  unfold State.sampleTemps
  repeat' first
    | with_reducible assumption
    | intro _
    | (extract_lets +onlyGivenNames t; refine State.Goes.cut (cl := cl) (r := r) (t := t) ?_ fun ht => ?_; subst t; rotate_left; clear_value t)
    | extract_lets +onlyGivenNames _
    | with_reducible apply State.each_goes
    | with_reducible apply State.setNum_goes
    | with_reducible apply State.modIsle_goes
    | with_reducible apply State.modPower_goes
    | with_reducible apply State.settleClocks_goes
    | with_reducible apply State.settleError_goes
    | with_reducible apply State.tripOn_goes
    | with_reducible refine State.Goes.snd ?_ (by with_reducible assumption)
    | with_reducible refine State.Goes.fst ?_ (by with_reducible assumption)
    | with_reducible refine State.Goes.thd ?_ (by with_reducible assumption)
    | apply State.Goes.foldl
    | apply State.Goes.foldlFst
    | apply State.Goes.foldlSnd
    | apply State.Goes.foldlThd
    | apply State.Goes.foldlFth
    | rfl
    | exact ‹Scratchpad.Canonical _›
    | split
    | dsimp -zeta only
    | (clear_value *; split)

theorem State.limitStep_goes {cl : Bool} {r s : State} (h : r.Goes cl s) :
    r.Goes cl (State.limitStep s) := by
  unfold State.limitStep
  repeat' first
    | with_reducible assumption
    | intro _
    | (extract_lets +onlyGivenNames t; refine State.Goes.cut (cl := cl) (r := r) (t := t) ?_ fun ht => ?_; subst t; rotate_left; clear_value t)
    | extract_lets +onlyGivenNames _
    | with_reducible apply State.each_goes
    | with_reducible apply State.modIsle_goes
    | with_reducible apply State.raise_goes
    | with_reducible apply State.settleClocks_goes
    | with_reducible apply State.settleError_goes
    | exact ‹Scratchpad.Canonical _›
    | split

theorem State.isleThermal_goes {cl : Bool} {r s : State} (h : r.Goes cl s) {k : IsleNo} :
    r.Goes cl (State.isleThermal s k) := by
  unfold State.isleThermal
  repeat' first
    | with_reducible assumption
    | intro _
    | (extract_lets +onlyGivenNames t; refine State.Goes.cut (cl := cl) (r := r) (t := t) ?_ fun ht => ?_; subst t; rotate_left; clear_value t)
    | extract_lets +onlyGivenNames _
    | with_reducible apply State.atCycle_goes
    | with_reducible apply State.modIsle_goes
    | with_reducible apply State.raise_goes
    | with_reducible apply State.trigger_goes
    | with_reducible refine State.Goes.snd ?_ (by with_reducible assumption)
    | with_reducible refine State.Goes.fst ?_ (by with_reducible assumption)
    | with_reducible refine State.Goes.thd ?_ (by with_reducible assumption)
    | exact ‹Scratchpad.Canonical _›
    | split

theorem State.sampleRails_goes {cl : Bool} {r s : State} (h : r.Goes cl s) {inRange : BitVec 8} {f : ShedFigures} :
    r.Goes cl (State.sampleRails s inRange f) := by
  unfold State.sampleRails
  repeat' first
    | with_reducible assumption
    | intro _
    | (extract_lets +onlyGivenNames t; refine State.Goes.cut (cl := cl) (r := r) (t := t) ?_ fun ht => ?_; subst t; rotate_left; clear_value t)
    | extract_lets +onlyGivenNames _
    | with_reducible apply State.modPower_goes
    | with_reducible apply State.setNum_goes
    | with_reducible apply State.each_goes
    | with_reducible apply State.raise_goes
    | with_reducible apply State.startShed_goes
    | with_reducible apply State.recover_goes
    | with_reducible apply State.settleError_goes
    | apply State.Goes.foldl
    | apply State.Goes.foldlFst
    | apply State.Goes.foldlSnd
    | apply State.Goes.foldlThd
    | apply State.Goes.foldlFth
    | rfl
    | split

theorem State.jtagLoad_goes {cl : Bool} {r s : State} (h : r.Goes cl s) {op : JtagOp} {authenticated : Bool} :
    r.Goes cl (State.jtagLoad s op authenticated) := by
  unfold State.jtagLoad
  repeat' first
    | with_reducible assumption
    | intro _
    | (extract_lets +onlyGivenNames t; refine State.Goes.cut (cl := cl) (r := r) (t := t) ?_ fun ht => ?_; subst t; rotate_left; clear_value t)
    | extract_lets +onlyGivenNames _
    | with_reducible apply State.modPower_goes
    | with_reducible apply State.emit_goes
    | with_reducible refine State.Goes.snd ?_ (by with_reducible assumption)
    | with_reducible refine State.Goes.fst ?_ (by with_reducible assumption)
    | with_reducible refine State.Goes.thd ?_ (by with_reducible assumption)
    | rfl
    | split

/-! ### OdWrite -/

theorem nodeAct_goes {r s : State} (h : r.Goes false s) {w : Write} {v : OdVal} :
    r.Goes false (nodeAct w v s).2 := by
  unfold nodeAct
  repeat' first
    | with_reducible assumption
    | intro _
    | with_reducible apply always_goes
    | with_reducible apply State.setEntry_goes
    | with_reducible apply State.setNum_goes

theorem cobAct_goes {r s : State} (h : r.Goes false s) {w : Write} {v : OdVal} :
    r.Goes false (cobAct w v s).2 := by
  unfold cobAct
  repeat' first
    | with_reducible assumption
    | intro _
    | with_reducible apply always_goes
    | with_reducible apply State.setNum_goes

theorem inhibitAct_goes {r s : State} (h : r.Goes false s) {w : Write} {v : OdVal} :
    r.Goes false (inhibitAct w v s).2 := by
  unfold inhibitAct
  repeat' first
    | with_reducible assumption
    | intro _
    | with_reducible apply always_goes
    | with_reducible apply State.setEntry_goes

theorem heartbeatAct_goes {r s : State} (h : r.Goes false s) {w : Write} {v : OdVal} :
    r.Goes false (heartbeatAct w v s).2 := by
  unfold heartbeatAct
  repeat' first
    | with_reducible assumption
    | intro _
    | with_reducible apply always_goes
    | with_reducible apply State.setEntry_goes
    | with_reducible apply State.armHeartbeat_goes

theorem slotAct_goes {r s : State} (h : r.Goes false s) {i : Nat} {sub : Nat} {w : Write} {v : OdVal} :
    r.Goes false (slotAct i sub w v s).2 := by
  unfold slotAct
  repeat' first
    | with_reducible assumption
    | intro _
    | with_reducible apply frontAct_goes
    | with_reducible apply loadDefaultsAct_goes
    | with_reducible apply planAct_goes
    | with_reducible apply forceWarmingAct_goes
    | with_reducible apply analysisAct_goes
    | with_reducible apply adaptResetAct_goes
    | with_reducible apply storeAct_goes
    | with_reducible refine State.Goes.snd ?_ (by with_reducible assumption)
    | with_reducible refine State.Goes.fst ?_ (by with_reducible assumption)
    | with_reducible refine State.Goes.thd ?_ (by with_reducible assumption)
    | with_reducible apply Act.ite_goes

theorem serviceAct_goes {r s : State} (h : r.Goes false s) {i : Nat} {sub : Nat} {w : Write} {v : OdVal} :
    r.Goes false (serviceAct i sub w v s).2 := by
  unfold serviceAct
  repeat' first
    | with_reducible assumption
    | intro _
    | with_reducible apply storeAllAct_goes
    | with_reducible apply restoreAct_goes
    | with_reducible apply cobAct_goes
    | with_reducible apply inhibitAct_goes
    | with_reducible apply heartbeatAct_goes
    | with_reducible apply startAct_goes
    | with_reducible apply versionAct_goes
    | with_reducible apply claimAct_goes
    | with_reducible apply releaseAct_goes
    | with_reducible apply renewAct_goes
    | with_reducible apply storeAct_goes
    | with_reducible refine State.Goes.snd ?_ (by with_reducible assumption)
    | with_reducible refine State.Goes.fst ?_ (by with_reducible assumption)
    | with_reducible refine State.Goes.thd ?_ (by with_reducible assumption)
    | with_reducible apply Act.ite_goes

theorem deviceAct_goes {r s : State} (h : r.Goes false s) {i : Nat} {sub : Nat} {card : Option Bytes} {w : Write} {v : OdVal} :
    r.Goes false (deviceAct i sub card w v s).2 := by
  unfold deviceAct
  repeat' first
    | with_reducible assumption
    | intro _
    | with_reducible apply resyncAct_goes
    | with_reducible apply frontDefaultAct_goes
    | with_reducible apply fenceAct_goes
    | with_reducible apply unfenceAct_goes
    | with_reducible apply stageAct_goes
    | with_reducible apply activateAct_goes
    | with_reducible apply confirmAct_goes
    | with_reducible apply revertAct_goes
    | with_reducible apply clearNoticeAct_goes
    | with_reducible apply createAct_goes
    | with_reducible apply killAct_goes
    | with_reducible apply keyLoadAct_goes
    | with_reducible apply lockAct_goes
    | with_reducible apply nodeAct_goes
    | with_reducible apply epochAct_goes
    | with_reducible apply rereadAct_goes
    | with_reducible apply storeAct_goes
    | with_reducible refine State.Goes.snd ?_ (by with_reducible assumption)
    | with_reducible refine State.Goes.fst ?_ (by with_reducible assumption)
    | with_reducible refine State.Goes.thd ?_ (by with_reducible assumption)
    | with_reducible apply Act.ite_goes

theorem odAct_goes {r s : State} (h : r.Goes false s) {i : Nat} {sub : Nat} {card : Option Bytes} {w : Write} {v : OdVal} :
    r.Goes false (odAct i sub card w v s).2 := by
  unfold odAct
  repeat' first
    | with_reducible assumption
    | intro _
    | with_reducible apply slotAct_goes
    | with_reducible apply serviceAct_goes
    | with_reducible apply deviceAct_goes
    | with_reducible refine State.Goes.snd ?_ (by with_reducible assumption)
    | with_reducible refine State.Goes.fst ?_ (by with_reducible assumption)
    | with_reducible refine State.Goes.thd ?_ (by with_reducible assumption)
    | with_reducible apply Act.ite_goes

theorem State.odWrite_goes {r s : State} (h : r.Goes false s) {w : Write} {i : Nat} {sub : Nat} {b : Bytes} {a : Around} :
    r.Goes false (State.odWrite s w i sub b a) := by
  unfold State.odWrite
  repeat' first
    | with_reducible assumption
    | intro _
    | with_reducible apply State.loadPlan_goes
    | with_reducible apply State.odRun_goes
    | with_reducible apply odAct_goes

/-! ### Ptp -/

theorem State.ptpSend_goes {cl : Bool} {r s : State} (h : r.Goes cl s) {p : EthNo} {peer : Bytes} {port : Nat} {b : Bytes} :
    r.Goes cl (State.ptpSend s p peer port b) := by
  unfold State.ptpSend
  repeat' first
    | with_reducible assumption
    | intro _
    | with_reducible apply State.countFrame_goes
    | with_reducible apply State.emit_goes
    | with_reducible apply State.sendUdp_goes
    | split

theorem State.modPtp_goes {cl : Bool} {r s : State} (h : r.Goes cl s) {f : PtpState → PtpState} :
    r.Goes cl (State.modPtp s f) := by
  unfold State.modPtp
  repeat' first
    | with_reducible assumption
    | intro _
    | split
    | dsimp -zeta only
    | refine State.Goes.of (s := s) ?_ rfl rfl rfl rfl rfl rfl rfl rfl id (fun _ => id)

theorem State.announced_goes {cl : Bool} {r s : State} (h : r.Goes cl s) {b : Bytes} :
    r.Goes cl (State.announced s b) := by
  unfold State.announced
  repeat' first
    | with_reducible assumption
    | intro _
    | (extract_lets +onlyGivenNames t; refine State.Goes.cut (cl := cl) (r := r) (t := t) ?_ fun ht => ?_; subst t; rotate_left; clear_value t)
    | extract_lets +onlyGivenNames _
    | with_reducible apply State.modPtp_goes
    | with_reducible apply State.setNum_goes
    | split

theorem State.synced_goes {cl : Bool} {r s : State} (h : r.Goes cl s) {p : EthNo} {peer : Bytes} {sent : Int} {came : Int} :
    r.Goes cl (State.synced s p peer sent came) := by
  unfold State.synced
  repeat' first
    | with_reducible assumption
    | intro _
    | (extract_lets +onlyGivenNames t; refine State.Goes.cut (cl := cl) (r := r) (t := t) ?_ fun ht => ?_; subst t; rotate_left; clear_value t)
    | extract_lets +onlyGivenNames _
    | with_reducible apply State.modPtp_goes
    | with_reducible apply State.setNum_goes
    | with_reducible apply State.raise_goes
    | with_reducible apply State.setLedgerTime_goes
    | with_reducible apply State.ptpSend_goes
    | split

theorem State.ptpCame_goes {cl : Bool} {r s : State} (h : r.Goes cl s) {p : EthNo} {ns : Nat} {peer : Bytes} {b : Bytes} :
    r.Goes cl (State.ptpCame s p ns peer b) := by
  unfold State.ptpCame
  repeat' first
    | with_reducible assumption
    | intro _
    | (extract_lets +onlyGivenNames t; refine State.Goes.cut (cl := cl) (r := r) (t := t) ?_ fun ht => ?_; subst t; rotate_left; clear_value t)
    | extract_lets +onlyGivenNames _
    | with_reducible apply State.bump_goes
    | with_reducible apply State.announced_goes
    | with_reducible apply State.modPtp_goes
    | with_reducible apply State.synced_goes
    | with_reducible apply State.ptpSend_goes
    | with_reducible refine State.Goes.snd ?_ (by with_reducible assumption)
    | with_reducible refine State.Goes.fst ?_ (by with_reducible assumption)
    | with_reducible refine State.Goes.thd ?_ (by with_reducible assumption)
    | split

theorem State.ptpHoldover_goes {cl : Bool} {r s : State} (h : r.Goes cl s) :
    r.Goes cl (State.ptpHoldover s) := by
  unfold State.ptpHoldover
  repeat' first
    | with_reducible assumption
    | intro _
    | with_reducible apply State.atCycle_goes
    | with_reducible apply State.setNum_goes
    | with_reducible apply State.raise_goes
    | with_reducible refine State.Goes.snd ?_ (by with_reducible assumption)
    | with_reducible refine State.Goes.fst ?_ (by with_reducible assumption)
    | with_reducible refine State.Goes.thd ?_ (by with_reducible assumption)
    | split

/-! ### Relay -/

theorem State.joinRequest_goes {r s : State} (h : r.Goes false s) {src : Nat} {p : Bytes} :
    r.Goes false (State.joinRequest s src p).2 := by
  unfold State.joinRequest
  repeat' first
    | with_reducible assumption
    | intro _
    | extract_lets +onlyGivenNames _
    | with_reducible apply State.modSys_goes
    | split

theorem State.relayed_goes {r s : State} (h : r.Goes false s) {b : Bytes} {card : Option Bytes} :
    r.Goes false (State.relayed s b card).2 := by
  have ha : r.Goes false (s.odRun ⟨.relay, true, s.now⟩ (usdoIndex b) (usdoSub b) (usdoData b) (odAct (usdoIndex b) (usdoSub b) card) card) :=
    State.odRun_goes h fun _ _ _ g => odAct_goes g
  have he : r.Goes false (s.expireBefore s.now) := State.expireBefore_goes h
  unfold State.relayed
  extract_lets i sub t code
  split
  · exact ha
  · split
    · with_reducible exact he
    · with_reducible exact h

theorem State.answerRelay_goes {r s : State} (h : r.Goes false s) {src : Nat} {transaction : Nat} {b : Bytes} {card : Option Bytes} :
    r.Goes false (State.answerRelay s src transaction b card) := by
  unfold State.answerRelay
  repeat' first
    | with_reducible assumption
    | intro _
    | (extract_lets +onlyGivenNames t; refine State.Goes.cut (cl := false) (r := r) (t := t) ?_ fun ht => ?_; subst t; rotate_left; clear_value t)
    | extract_lets +onlyGivenNames _
    | with_reducible apply State.each_goes
    | with_reducible apply State.hold_goes
    | with_reducible apply State.cwReliableSend_goes
    | with_reducible apply State.relayed_goes
    | with_reducible refine State.Goes.snd ?_ (by with_reducible assumption)
    | with_reducible refine State.Goes.fst ?_ (by with_reducible assumption)
    | with_reducible refine State.Goes.thd ?_ (by with_reducible assumption)
    | apply State.Goes.foldl
    | apply State.Goes.foldlFst
    | apply State.Goes.foldlSnd
    | apply State.Goes.foldlThd
    | apply State.Goes.foldlFth
    | refine State.Goes.mapIsles ?_ (fun _ => rfl)
    | split
    | dsimp -zeta only
    | refine State.Goes.of (s := s) ?_ rfl rfl rfl rfl rfl rfl rfl rfl id (fun _ => id)

theorem State.answerHeld_goes {r s : State} (h : r.Goes false s) :
    r.Goes false (State.answerHeld s) := by
  unfold State.answerHeld
  repeat' first
    | with_reducible assumption
    | intro _
    | (extract_lets +onlyGivenNames t; refine State.Goes.cut (cl := false) (r := r) (t := t) ?_ fun ht => ?_; subst t; rotate_left; clear_value t)
    | extract_lets +onlyGivenNames _
    | with_reducible apply State.each_goes
    | with_reducible apply State.odRun_goes
    | with_reducible apply odAct_goes
    | with_reducible apply State.relayed_goes
    | with_reducible apply State.answerRelay_goes
    | with_reducible apply State.atCycle_goes
    | with_reducible refine State.Goes.snd ?_ (by with_reducible assumption)
    | with_reducible refine State.Goes.fst ?_ (by with_reducible assumption)
    | with_reducible refine State.Goes.thd ?_ (by with_reducible assumption)
    | apply State.Goes.foldl
    | apply State.Goes.foldlFst
    | apply State.Goes.foldlSnd
    | apply State.Goes.foldlThd
    | apply State.Goes.foldlFth
    | refine State.Goes.mapIsles ?_ (fun _ => rfl)
    | split
    | dsimp -zeta only
    | refine State.Goes.of (s := s) ?_ rfl rfl rfl rfl rfl rfl rfl rfl id (fun _ => id)

theorem State.requestCame_goes {r s : State} (h : r.Goes false s) {p : EthNo} {src : Bytes} {b : Bytes} {a : Around} :
    r.Goes false (State.requestCame s p src b a) := by
  unfold State.requestCame
  repeat' first
    | with_reducible assumption
    | intro _
    | with_reducible apply State.loadPlan_goes
    | with_reducible apply State.answerRelay_goes
    | (extract_lets +onlyGivenNames t; refine State.Goes.cut (cl := false) (r := r) (t := t) ?_ fun ht => ?_; subst t; rotate_left; clear_value t)
    | extract_lets +onlyGivenNames _
    | with_reducible apply State.cwTake_goes
    | with_reducible apply State.sendAck_goes
    | with_reducible apply State.joinRequest_goes
    | with_reducible apply State.relayed_goes
    | with_reducible apply State.each_goes
    | with_reducible apply State.cwReliableSend_goes
    | with_reducible refine State.Goes.snd ?_ (by with_reducible assumption)
    | with_reducible refine State.Goes.fst ?_ (by with_reducible assumption)
    | with_reducible refine State.Goes.thd ?_ (by with_reducible assumption)
    | split

end Sys2Proof.Machine
end

