-- ==== Sys2Proof/Laws/State.lean ====
section
/-! SUPPORT. What each update of one component leaves, one lemma for each field, so that no proof unfolds a record update. -/

namespace Sys2Proof.Machine

variable (s : State)

/-! ### State.modIsle -/

@[simp] theorem State.modIsle_now (k : IsleNo) (f : IsleState → IsleState) : (s.modIsle k f).now = s.now := rfl
@[simp] theorem State.modIsle_tick (k : IsleNo) (f : IsleState → IsleState) : (s.modIsle k f).tick = s.tick := rfl
@[simp] theorem State.modIsle_slots (k : IsleNo) (f : IsleState → IsleState) : (s.modIsle k f).slots = s.slots := rfl
@[simp] theorem State.modIsle_isles (k : IsleNo) (f : IsleState → IsleState) : (s.modIsle k f).isles = s.isles.set k (f s.isles[k]) := rfl
@[simp] theorem State.modIsle_counters (k : IsleNo) (f : IsleState → IsleState) : (s.modIsle k f).counters = s.counters := rfl
@[simp] theorem State.modIsle_devDma (k : IsleNo) (f : IsleState → IsleState) : (s.modIsle k f).devDma = s.devDma := rfl
@[simp] theorem State.modIsle_windows (k : IsleNo) (f : IsleState → IsleState) : (s.modIsle k f).windows = s.windows := rfl
@[simp] theorem State.modIsle_mem (k : IsleNo) (f : IsleState → IsleState) : (s.modIsle k f).mem = s.mem := rfl
@[simp] theorem State.modIsle_ev (k : IsleNo) (f : IsleState → IsleState) : (s.modIsle k f).ev = s.ev := rfl
@[simp] theorem State.modIsle_od (k : IsleNo) (f : IsleState → IsleState) : (s.modIsle k f).od = s.od := rfl
@[simp] theorem State.modIsle_can (k : IsleNo) (f : IsleState → IsleState) : (s.modIsle k f).can = s.can := rfl
@[simp] theorem State.modIsle_plans (k : IsleNo) (f : IsleState → IsleState) : (s.modIsle k f).plans = s.plans := rfl
@[simp] theorem State.modIsle_avail (k : IsleNo) (f : IsleState → IsleState) : (s.modIsle k f).avail = s.avail := rfl
@[simp] theorem State.modIsle_owners (k : IsleNo) (f : IsleState → IsleState) : (s.modIsle k f).owners = s.owners := rfl
@[simp] theorem State.modIsle_provCounter (k : IsleNo) (f : IsleState → IsleState) : (s.modIsle k f).provCounter = s.provCounter := rfl
@[simp] theorem State.modIsle_sys (k : IsleNo) (f : IsleState → IsleState) : (s.modIsle k f).sys = s.sys := rfl
@[simp] theorem State.modIsle_eth (k : IsleNo) (f : IsleState → IsleState) : (s.modIsle k f).eth = s.eth := rfl
@[simp] theorem State.modIsle_fw (k : IsleNo) (f : IsleState → IsleState) : (s.modIsle k f).fw = s.fw := rfl
@[simp] theorem State.modIsle_ledger (k : IsleNo) (f : IsleState → IsleState) : (s.modIsle k f).ledger = s.ledger := rfl
@[simp] theorem State.modIsle_power (k : IsleNo) (f : IsleState → IsleState) : (s.modIsle k f).power = s.power := rfl
@[simp] theorem State.modIsle_out (k : IsleNo) (f : IsleState → IsleState) : (s.modIsle k f).out = s.out := rfl
@[simp] theorem State.modIsle_free (k : IsleNo) (f : IsleState → IsleState) : (s.modIsle k f).free = s.free := rfl
@[simp] theorem State.modIsle_pending (k : IsleNo) (f : IsleState → IsleState) : (s.modIsle k f).pending = s.pending := rfl

/-! ### State.modCtx -/

@[simp] theorem State.modCtx_now (k : IsleNo) (c : CtxNo) (f : Context → Context) : (s.modCtx k c f).now = s.now := rfl
@[simp] theorem State.modCtx_tick (k : IsleNo) (c : CtxNo) (f : Context → Context) : (s.modCtx k c f).tick = s.tick := rfl
@[simp] theorem State.modCtx_slots (k : IsleNo) (c : CtxNo) (f : Context → Context) : (s.modCtx k c f).slots = s.slots := rfl
@[simp] theorem State.modCtx_isles (k : IsleNo) (c : CtxNo) (f : Context → Context) : (s.modCtx k c f).isles = s.isles.set k { s.isles[k] with ctx := s.isles[k].ctx.set c (f s.isles[k].ctx[c]) } := rfl
@[simp] theorem State.modCtx_counters (k : IsleNo) (c : CtxNo) (f : Context → Context) : (s.modCtx k c f).counters = s.counters := rfl
@[simp] theorem State.modCtx_devDma (k : IsleNo) (c : CtxNo) (f : Context → Context) : (s.modCtx k c f).devDma = s.devDma := rfl
@[simp] theorem State.modCtx_windows (k : IsleNo) (c : CtxNo) (f : Context → Context) : (s.modCtx k c f).windows = s.windows := rfl
@[simp] theorem State.modCtx_mem (k : IsleNo) (c : CtxNo) (f : Context → Context) : (s.modCtx k c f).mem = s.mem := rfl
@[simp] theorem State.modCtx_ev (k : IsleNo) (c : CtxNo) (f : Context → Context) : (s.modCtx k c f).ev = s.ev := rfl
@[simp] theorem State.modCtx_od (k : IsleNo) (c : CtxNo) (f : Context → Context) : (s.modCtx k c f).od = s.od := rfl
@[simp] theorem State.modCtx_can (k : IsleNo) (c : CtxNo) (f : Context → Context) : (s.modCtx k c f).can = s.can := rfl
@[simp] theorem State.modCtx_plans (k : IsleNo) (c : CtxNo) (f : Context → Context) : (s.modCtx k c f).plans = s.plans := rfl
@[simp] theorem State.modCtx_avail (k : IsleNo) (c : CtxNo) (f : Context → Context) : (s.modCtx k c f).avail = s.avail := rfl
@[simp] theorem State.modCtx_owners (k : IsleNo) (c : CtxNo) (f : Context → Context) : (s.modCtx k c f).owners = s.owners := rfl
@[simp] theorem State.modCtx_provCounter (k : IsleNo) (c : CtxNo) (f : Context → Context) : (s.modCtx k c f).provCounter = s.provCounter := rfl
@[simp] theorem State.modCtx_sys (k : IsleNo) (c : CtxNo) (f : Context → Context) : (s.modCtx k c f).sys = s.sys := rfl
@[simp] theorem State.modCtx_eth (k : IsleNo) (c : CtxNo) (f : Context → Context) : (s.modCtx k c f).eth = s.eth := rfl
@[simp] theorem State.modCtx_fw (k : IsleNo) (c : CtxNo) (f : Context → Context) : (s.modCtx k c f).fw = s.fw := rfl
@[simp] theorem State.modCtx_ledger (k : IsleNo) (c : CtxNo) (f : Context → Context) : (s.modCtx k c f).ledger = s.ledger := rfl
@[simp] theorem State.modCtx_power (k : IsleNo) (c : CtxNo) (f : Context → Context) : (s.modCtx k c f).power = s.power := rfl
@[simp] theorem State.modCtx_out (k : IsleNo) (c : CtxNo) (f : Context → Context) : (s.modCtx k c f).out = s.out := rfl
@[simp] theorem State.modCtx_free (k : IsleNo) (c : CtxNo) (f : Context → Context) : (s.modCtx k c f).free = s.free := rfl
@[simp] theorem State.modCtx_pending (k : IsleNo) (c : CtxNo) (f : Context → Context) : (s.modCtx k c f).pending = s.pending := rfl

/-! ### State.modCnt -/

@[simp] theorem State.modCnt_now (k : IsleNo) (f : IsleCounters → IsleCounters) : (s.modCnt k f).now = s.now := rfl
@[simp] theorem State.modCnt_tick (k : IsleNo) (f : IsleCounters → IsleCounters) : (s.modCnt k f).tick = s.tick := rfl
@[simp] theorem State.modCnt_slots (k : IsleNo) (f : IsleCounters → IsleCounters) : (s.modCnt k f).slots = s.slots := rfl
@[simp] theorem State.modCnt_isles (k : IsleNo) (f : IsleCounters → IsleCounters) : (s.modCnt k f).isles = s.isles.set k { s.isles[k] with cnt := f s.isles[k].cnt } := rfl
@[simp] theorem State.modCnt_counters (k : IsleNo) (f : IsleCounters → IsleCounters) : (s.modCnt k f).counters = s.counters := rfl
@[simp] theorem State.modCnt_devDma (k : IsleNo) (f : IsleCounters → IsleCounters) : (s.modCnt k f).devDma = s.devDma := rfl
@[simp] theorem State.modCnt_windows (k : IsleNo) (f : IsleCounters → IsleCounters) : (s.modCnt k f).windows = s.windows := rfl
@[simp] theorem State.modCnt_mem (k : IsleNo) (f : IsleCounters → IsleCounters) : (s.modCnt k f).mem = s.mem := rfl
@[simp] theorem State.modCnt_ev (k : IsleNo) (f : IsleCounters → IsleCounters) : (s.modCnt k f).ev = s.ev := rfl
@[simp] theorem State.modCnt_od (k : IsleNo) (f : IsleCounters → IsleCounters) : (s.modCnt k f).od = s.od := rfl
@[simp] theorem State.modCnt_can (k : IsleNo) (f : IsleCounters → IsleCounters) : (s.modCnt k f).can = s.can := rfl
@[simp] theorem State.modCnt_plans (k : IsleNo) (f : IsleCounters → IsleCounters) : (s.modCnt k f).plans = s.plans := rfl
@[simp] theorem State.modCnt_avail (k : IsleNo) (f : IsleCounters → IsleCounters) : (s.modCnt k f).avail = s.avail := rfl
@[simp] theorem State.modCnt_owners (k : IsleNo) (f : IsleCounters → IsleCounters) : (s.modCnt k f).owners = s.owners := rfl
@[simp] theorem State.modCnt_provCounter (k : IsleNo) (f : IsleCounters → IsleCounters) : (s.modCnt k f).provCounter = s.provCounter := rfl
@[simp] theorem State.modCnt_sys (k : IsleNo) (f : IsleCounters → IsleCounters) : (s.modCnt k f).sys = s.sys := rfl
@[simp] theorem State.modCnt_eth (k : IsleNo) (f : IsleCounters → IsleCounters) : (s.modCnt k f).eth = s.eth := rfl
@[simp] theorem State.modCnt_fw (k : IsleNo) (f : IsleCounters → IsleCounters) : (s.modCnt k f).fw = s.fw := rfl
@[simp] theorem State.modCnt_ledger (k : IsleNo) (f : IsleCounters → IsleCounters) : (s.modCnt k f).ledger = s.ledger := rfl
@[simp] theorem State.modCnt_power (k : IsleNo) (f : IsleCounters → IsleCounters) : (s.modCnt k f).power = s.power := rfl
@[simp] theorem State.modCnt_out (k : IsleNo) (f : IsleCounters → IsleCounters) : (s.modCnt k f).out = s.out := rfl
@[simp] theorem State.modCnt_free (k : IsleNo) (f : IsleCounters → IsleCounters) : (s.modCnt k f).free = s.free := rfl
@[simp] theorem State.modCnt_pending (k : IsleNo) (f : IsleCounters → IsleCounters) : (s.modCnt k f).pending = s.pending := rfl

/-! ### State.modSlot -/

@[simp] theorem State.modSlot_now (k : SlotNo) (f : Slot → Slot) : (s.modSlot k f).now = s.now := rfl
@[simp] theorem State.modSlot_tick (k : SlotNo) (f : Slot → Slot) : (s.modSlot k f).tick = s.tick := rfl
@[simp] theorem State.modSlot_slots (k : SlotNo) (f : Slot → Slot) : (s.modSlot k f).slots = s.slots.set k (f s.slots[k]) := rfl
@[simp] theorem State.modSlot_isles (k : SlotNo) (f : Slot → Slot) : (s.modSlot k f).isles = s.isles := rfl
@[simp] theorem State.modSlot_counters (k : SlotNo) (f : Slot → Slot) : (s.modSlot k f).counters = s.counters := rfl
@[simp] theorem State.modSlot_devDma (k : SlotNo) (f : Slot → Slot) : (s.modSlot k f).devDma = s.devDma := rfl
@[simp] theorem State.modSlot_windows (k : SlotNo) (f : Slot → Slot) : (s.modSlot k f).windows = s.windows := rfl
@[simp] theorem State.modSlot_mem (k : SlotNo) (f : Slot → Slot) : (s.modSlot k f).mem = s.mem := rfl
@[simp] theorem State.modSlot_ev (k : SlotNo) (f : Slot → Slot) : (s.modSlot k f).ev = s.ev := rfl
@[simp] theorem State.modSlot_od (k : SlotNo) (f : Slot → Slot) : (s.modSlot k f).od = s.od := rfl
@[simp] theorem State.modSlot_can (k : SlotNo) (f : Slot → Slot) : (s.modSlot k f).can = s.can := rfl
@[simp] theorem State.modSlot_plans (k : SlotNo) (f : Slot → Slot) : (s.modSlot k f).plans = s.plans := rfl
@[simp] theorem State.modSlot_avail (k : SlotNo) (f : Slot → Slot) : (s.modSlot k f).avail = s.avail := rfl
@[simp] theorem State.modSlot_owners (k : SlotNo) (f : Slot → Slot) : (s.modSlot k f).owners = s.owners := rfl
@[simp] theorem State.modSlot_provCounter (k : SlotNo) (f : Slot → Slot) : (s.modSlot k f).provCounter = s.provCounter := rfl
@[simp] theorem State.modSlot_sys (k : SlotNo) (f : Slot → Slot) : (s.modSlot k f).sys = s.sys := rfl
@[simp] theorem State.modSlot_eth (k : SlotNo) (f : Slot → Slot) : (s.modSlot k f).eth = s.eth := rfl
@[simp] theorem State.modSlot_fw (k : SlotNo) (f : Slot → Slot) : (s.modSlot k f).fw = s.fw := rfl
@[simp] theorem State.modSlot_ledger (k : SlotNo) (f : Slot → Slot) : (s.modSlot k f).ledger = s.ledger := rfl
@[simp] theorem State.modSlot_power (k : SlotNo) (f : Slot → Slot) : (s.modSlot k f).power = s.power := rfl
@[simp] theorem State.modSlot_out (k : SlotNo) (f : Slot → Slot) : (s.modSlot k f).out = s.out := rfl
@[simp] theorem State.modSlot_free (k : SlotNo) (f : Slot → Slot) : (s.modSlot k f).free = s.free := rfl
@[simp] theorem State.modSlot_pending (k : SlotNo) (f : Slot → Slot) : (s.modSlot k f).pending = s.pending := rfl

/-! ### State.modFrame -/

@[simp] theorem State.modFrame_now (k : SlotNo) (n : Nat) (f : Frame → Frame) : (s.modFrame k n f).now = s.now := rfl
@[simp] theorem State.modFrame_tick (k : SlotNo) (n : Nat) (f : Frame → Frame) : (s.modFrame k n f).tick = s.tick := rfl
@[simp] theorem State.modFrame_slots (k : SlotNo) (n : Nat) (f : Frame → Frame) : (s.modFrame k n f).slots = s.slots.set k (s.slots[k].modFrame n f) := rfl
@[simp] theorem State.modFrame_isles (k : SlotNo) (n : Nat) (f : Frame → Frame) : (s.modFrame k n f).isles = s.isles := rfl
@[simp] theorem State.modFrame_counters (k : SlotNo) (n : Nat) (f : Frame → Frame) : (s.modFrame k n f).counters = s.counters := rfl
@[simp] theorem State.modFrame_devDma (k : SlotNo) (n : Nat) (f : Frame → Frame) : (s.modFrame k n f).devDma = s.devDma := rfl
@[simp] theorem State.modFrame_windows (k : SlotNo) (n : Nat) (f : Frame → Frame) : (s.modFrame k n f).windows = s.windows := rfl
@[simp] theorem State.modFrame_mem (k : SlotNo) (n : Nat) (f : Frame → Frame) : (s.modFrame k n f).mem = s.mem := rfl
@[simp] theorem State.modFrame_ev (k : SlotNo) (n : Nat) (f : Frame → Frame) : (s.modFrame k n f).ev = s.ev := rfl
@[simp] theorem State.modFrame_od (k : SlotNo) (n : Nat) (f : Frame → Frame) : (s.modFrame k n f).od = s.od := rfl
@[simp] theorem State.modFrame_can (k : SlotNo) (n : Nat) (f : Frame → Frame) : (s.modFrame k n f).can = s.can := rfl
@[simp] theorem State.modFrame_plans (k : SlotNo) (n : Nat) (f : Frame → Frame) : (s.modFrame k n f).plans = s.plans := rfl
@[simp] theorem State.modFrame_avail (k : SlotNo) (n : Nat) (f : Frame → Frame) : (s.modFrame k n f).avail = s.avail := rfl
@[simp] theorem State.modFrame_owners (k : SlotNo) (n : Nat) (f : Frame → Frame) : (s.modFrame k n f).owners = s.owners := rfl
@[simp] theorem State.modFrame_provCounter (k : SlotNo) (n : Nat) (f : Frame → Frame) : (s.modFrame k n f).provCounter = s.provCounter := rfl
@[simp] theorem State.modFrame_sys (k : SlotNo) (n : Nat) (f : Frame → Frame) : (s.modFrame k n f).sys = s.sys := rfl
@[simp] theorem State.modFrame_eth (k : SlotNo) (n : Nat) (f : Frame → Frame) : (s.modFrame k n f).eth = s.eth := rfl
@[simp] theorem State.modFrame_fw (k : SlotNo) (n : Nat) (f : Frame → Frame) : (s.modFrame k n f).fw = s.fw := rfl
@[simp] theorem State.modFrame_ledger (k : SlotNo) (n : Nat) (f : Frame → Frame) : (s.modFrame k n f).ledger = s.ledger := rfl
@[simp] theorem State.modFrame_power (k : SlotNo) (n : Nat) (f : Frame → Frame) : (s.modFrame k n f).power = s.power := rfl
@[simp] theorem State.modFrame_out (k : SlotNo) (n : Nat) (f : Frame → Frame) : (s.modFrame k n f).out = s.out := rfl
@[simp] theorem State.modFrame_free (k : SlotNo) (n : Nat) (f : Frame → Frame) : (s.modFrame k n f).free = s.free := rfl
@[simp] theorem State.modFrame_pending (k : SlotNo) (n : Nat) (f : Frame → Frame) : (s.modFrame k n f).pending = s.pending := rfl

/-! ### State.modCounter -/

@[simp] theorem State.modCounter_now (n : CounterNo) (f : TileCounter → TileCounter) : (s.modCounter n f).now = s.now := rfl
@[simp] theorem State.modCounter_tick (n : CounterNo) (f : TileCounter → TileCounter) : (s.modCounter n f).tick = s.tick := rfl
@[simp] theorem State.modCounter_slots (n : CounterNo) (f : TileCounter → TileCounter) : (s.modCounter n f).slots = s.slots := rfl
@[simp] theorem State.modCounter_isles (n : CounterNo) (f : TileCounter → TileCounter) : (s.modCounter n f).isles = s.isles := rfl
@[simp] theorem State.modCounter_counters (n : CounterNo) (f : TileCounter → TileCounter) : (s.modCounter n f).counters = s.counters.set n (f s.counters[n]) := rfl
@[simp] theorem State.modCounter_devDma (n : CounterNo) (f : TileCounter → TileCounter) : (s.modCounter n f).devDma = s.devDma := rfl
@[simp] theorem State.modCounter_windows (n : CounterNo) (f : TileCounter → TileCounter) : (s.modCounter n f).windows = s.windows := rfl
@[simp] theorem State.modCounter_mem (n : CounterNo) (f : TileCounter → TileCounter) : (s.modCounter n f).mem = s.mem := rfl
@[simp] theorem State.modCounter_ev (n : CounterNo) (f : TileCounter → TileCounter) : (s.modCounter n f).ev = s.ev := rfl
@[simp] theorem State.modCounter_od (n : CounterNo) (f : TileCounter → TileCounter) : (s.modCounter n f).od = s.od := rfl
@[simp] theorem State.modCounter_can (n : CounterNo) (f : TileCounter → TileCounter) : (s.modCounter n f).can = s.can := rfl
@[simp] theorem State.modCounter_plans (n : CounterNo) (f : TileCounter → TileCounter) : (s.modCounter n f).plans = s.plans := rfl
@[simp] theorem State.modCounter_avail (n : CounterNo) (f : TileCounter → TileCounter) : (s.modCounter n f).avail = s.avail := rfl
@[simp] theorem State.modCounter_owners (n : CounterNo) (f : TileCounter → TileCounter) : (s.modCounter n f).owners = s.owners := rfl
@[simp] theorem State.modCounter_provCounter (n : CounterNo) (f : TileCounter → TileCounter) : (s.modCounter n f).provCounter = s.provCounter := rfl
@[simp] theorem State.modCounter_sys (n : CounterNo) (f : TileCounter → TileCounter) : (s.modCounter n f).sys = s.sys := rfl
@[simp] theorem State.modCounter_eth (n : CounterNo) (f : TileCounter → TileCounter) : (s.modCounter n f).eth = s.eth := rfl
@[simp] theorem State.modCounter_fw (n : CounterNo) (f : TileCounter → TileCounter) : (s.modCounter n f).fw = s.fw := rfl
@[simp] theorem State.modCounter_ledger (n : CounterNo) (f : TileCounter → TileCounter) : (s.modCounter n f).ledger = s.ledger := rfl
@[simp] theorem State.modCounter_power (n : CounterNo) (f : TileCounter → TileCounter) : (s.modCounter n f).power = s.power := rfl
@[simp] theorem State.modCounter_out (n : CounterNo) (f : TileCounter → TileCounter) : (s.modCounter n f).out = s.out := rfl
@[simp] theorem State.modCounter_free (n : CounterNo) (f : TileCounter → TileCounter) : (s.modCounter n f).free = s.free := rfl
@[simp] theorem State.modCounter_pending (n : CounterNo) (f : TileCounter → TileCounter) : (s.modCounter n f).pending = s.pending := rfl

/-! ### State.modTick -/

@[simp] theorem State.modTick_now (f : TickState → TickState) : (s.modTick f).now = s.now := rfl
@[simp] theorem State.modTick_tick (f : TickState → TickState) : (s.modTick f).tick = f s.tick := rfl
@[simp] theorem State.modTick_slots (f : TickState → TickState) : (s.modTick f).slots = s.slots := rfl
@[simp] theorem State.modTick_isles (f : TickState → TickState) : (s.modTick f).isles = s.isles := rfl
@[simp] theorem State.modTick_counters (f : TickState → TickState) : (s.modTick f).counters = s.counters := rfl
@[simp] theorem State.modTick_devDma (f : TickState → TickState) : (s.modTick f).devDma = s.devDma := rfl
@[simp] theorem State.modTick_windows (f : TickState → TickState) : (s.modTick f).windows = s.windows := rfl
@[simp] theorem State.modTick_mem (f : TickState → TickState) : (s.modTick f).mem = s.mem := rfl
@[simp] theorem State.modTick_ev (f : TickState → TickState) : (s.modTick f).ev = s.ev := rfl
@[simp] theorem State.modTick_od (f : TickState → TickState) : (s.modTick f).od = s.od := rfl
@[simp] theorem State.modTick_can (f : TickState → TickState) : (s.modTick f).can = s.can := rfl
@[simp] theorem State.modTick_plans (f : TickState → TickState) : (s.modTick f).plans = s.plans := rfl
@[simp] theorem State.modTick_avail (f : TickState → TickState) : (s.modTick f).avail = s.avail := rfl
@[simp] theorem State.modTick_owners (f : TickState → TickState) : (s.modTick f).owners = s.owners := rfl
@[simp] theorem State.modTick_provCounter (f : TickState → TickState) : (s.modTick f).provCounter = s.provCounter := rfl
@[simp] theorem State.modTick_sys (f : TickState → TickState) : (s.modTick f).sys = s.sys := rfl
@[simp] theorem State.modTick_eth (f : TickState → TickState) : (s.modTick f).eth = s.eth := rfl
@[simp] theorem State.modTick_fw (f : TickState → TickState) : (s.modTick f).fw = s.fw := rfl
@[simp] theorem State.modTick_ledger (f : TickState → TickState) : (s.modTick f).ledger = s.ledger := rfl
@[simp] theorem State.modTick_power (f : TickState → TickState) : (s.modTick f).power = s.power := rfl
@[simp] theorem State.modTick_out (f : TickState → TickState) : (s.modTick f).out = s.out := rfl
@[simp] theorem State.modTick_free (f : TickState → TickState) : (s.modTick f).free = s.free := rfl
@[simp] theorem State.modTick_pending (f : TickState → TickState) : (s.modTick f).pending = s.pending := rfl

/-! ### State.modMem -/

@[simp] theorem State.modMem_now (f : MemState → MemState) : (s.modMem f).now = s.now := rfl
@[simp] theorem State.modMem_tick (f : MemState → MemState) : (s.modMem f).tick = s.tick := rfl
@[simp] theorem State.modMem_slots (f : MemState → MemState) : (s.modMem f).slots = s.slots := rfl
@[simp] theorem State.modMem_isles (f : MemState → MemState) : (s.modMem f).isles = s.isles := rfl
@[simp] theorem State.modMem_counters (f : MemState → MemState) : (s.modMem f).counters = s.counters := rfl
@[simp] theorem State.modMem_devDma (f : MemState → MemState) : (s.modMem f).devDma = s.devDma := rfl
@[simp] theorem State.modMem_windows (f : MemState → MemState) : (s.modMem f).windows = s.windows := rfl
@[simp] theorem State.modMem_mem (f : MemState → MemState) : (s.modMem f).mem = f s.mem := rfl
@[simp] theorem State.modMem_ev (f : MemState → MemState) : (s.modMem f).ev = s.ev := rfl
@[simp] theorem State.modMem_od (f : MemState → MemState) : (s.modMem f).od = s.od := rfl
@[simp] theorem State.modMem_can (f : MemState → MemState) : (s.modMem f).can = s.can := rfl
@[simp] theorem State.modMem_plans (f : MemState → MemState) : (s.modMem f).plans = s.plans := rfl
@[simp] theorem State.modMem_avail (f : MemState → MemState) : (s.modMem f).avail = s.avail := rfl
@[simp] theorem State.modMem_owners (f : MemState → MemState) : (s.modMem f).owners = s.owners := rfl
@[simp] theorem State.modMem_provCounter (f : MemState → MemState) : (s.modMem f).provCounter = s.provCounter := rfl
@[simp] theorem State.modMem_sys (f : MemState → MemState) : (s.modMem f).sys = s.sys := rfl
@[simp] theorem State.modMem_eth (f : MemState → MemState) : (s.modMem f).eth = s.eth := rfl
@[simp] theorem State.modMem_fw (f : MemState → MemState) : (s.modMem f).fw = s.fw := rfl
@[simp] theorem State.modMem_ledger (f : MemState → MemState) : (s.modMem f).ledger = s.ledger := rfl
@[simp] theorem State.modMem_power (f : MemState → MemState) : (s.modMem f).power = s.power := rfl
@[simp] theorem State.modMem_out (f : MemState → MemState) : (s.modMem f).out = s.out := rfl
@[simp] theorem State.modMem_free (f : MemState → MemState) : (s.modMem f).free = s.free := rfl
@[simp] theorem State.modMem_pending (f : MemState → MemState) : (s.modMem f).pending = s.pending := rfl

/-! ### State.extWrite -/

@[simp] theorem State.extWrite_now (o : OwnerNo) (a : Nat) (b : Bytes) : (s.extWrite o a b).now = s.now := rfl
@[simp] theorem State.extWrite_tick (o : OwnerNo) (a : Nat) (b : Bytes) : (s.extWrite o a b).tick = s.tick := rfl
@[simp] theorem State.extWrite_slots (o : OwnerNo) (a : Nat) (b : Bytes) : (s.extWrite o a b).slots = s.slots := rfl
@[simp] theorem State.extWrite_isles (o : OwnerNo) (a : Nat) (b : Bytes) : (s.extWrite o a b).isles = s.isles := rfl
@[simp] theorem State.extWrite_counters (o : OwnerNo) (a : Nat) (b : Bytes) : (s.extWrite o a b).counters = s.counters := rfl
@[simp] theorem State.extWrite_devDma (o : OwnerNo) (a : Nat) (b : Bytes) : (s.extWrite o a b).devDma = s.devDma := rfl
@[simp] theorem State.extWrite_windows (o : OwnerNo) (a : Nat) (b : Bytes) : (s.extWrite o a b).windows = s.windows := rfl
@[simp] theorem State.extWrite_mem (o : OwnerNo) (a : Nat) (b : Bytes) : (s.extWrite o a b).mem = s.mem.write s.owners[o].memKey a b := rfl
@[simp] theorem State.extWrite_ev (o : OwnerNo) (a : Nat) (b : Bytes) : (s.extWrite o a b).ev = s.ev := rfl
@[simp] theorem State.extWrite_od (o : OwnerNo) (a : Nat) (b : Bytes) : (s.extWrite o a b).od = s.od := rfl
@[simp] theorem State.extWrite_can (o : OwnerNo) (a : Nat) (b : Bytes) : (s.extWrite o a b).can = s.can := rfl
@[simp] theorem State.extWrite_plans (o : OwnerNo) (a : Nat) (b : Bytes) : (s.extWrite o a b).plans = s.plans := rfl
@[simp] theorem State.extWrite_avail (o : OwnerNo) (a : Nat) (b : Bytes) : (s.extWrite o a b).avail = s.avail := rfl
@[simp] theorem State.extWrite_owners (o : OwnerNo) (a : Nat) (b : Bytes) : (s.extWrite o a b).owners = s.owners := rfl
@[simp] theorem State.extWrite_provCounter (o : OwnerNo) (a : Nat) (b : Bytes) : (s.extWrite o a b).provCounter = s.provCounter := rfl
@[simp] theorem State.extWrite_sys (o : OwnerNo) (a : Nat) (b : Bytes) : (s.extWrite o a b).sys = s.sys := rfl
@[simp] theorem State.extWrite_eth (o : OwnerNo) (a : Nat) (b : Bytes) : (s.extWrite o a b).eth = s.eth := rfl
@[simp] theorem State.extWrite_fw (o : OwnerNo) (a : Nat) (b : Bytes) : (s.extWrite o a b).fw = s.fw := rfl
@[simp] theorem State.extWrite_ledger (o : OwnerNo) (a : Nat) (b : Bytes) : (s.extWrite o a b).ledger = s.ledger := rfl
@[simp] theorem State.extWrite_power (o : OwnerNo) (a : Nat) (b : Bytes) : (s.extWrite o a b).power = s.power := rfl
@[simp] theorem State.extWrite_out (o : OwnerNo) (a : Nat) (b : Bytes) : (s.extWrite o a b).out = s.out := rfl
@[simp] theorem State.extWrite_free (o : OwnerNo) (a : Nat) (b : Bytes) : (s.extWrite o a b).free = s.free := rfl
@[simp] theorem State.extWrite_pending (o : OwnerNo) (a : Nat) (b : Bytes) : (s.extWrite o a b).pending = s.pending := rfl

/-! ### State.modCan -/

@[simp] theorem State.modCan_now (p : CanNo) (f : CanPort → CanPort) : (s.modCan p f).now = s.now := rfl
@[simp] theorem State.modCan_tick (p : CanNo) (f : CanPort → CanPort) : (s.modCan p f).tick = s.tick := rfl
@[simp] theorem State.modCan_slots (p : CanNo) (f : CanPort → CanPort) : (s.modCan p f).slots = s.slots := rfl
@[simp] theorem State.modCan_isles (p : CanNo) (f : CanPort → CanPort) : (s.modCan p f).isles = s.isles := rfl
@[simp] theorem State.modCan_counters (p : CanNo) (f : CanPort → CanPort) : (s.modCan p f).counters = s.counters := rfl
@[simp] theorem State.modCan_devDma (p : CanNo) (f : CanPort → CanPort) : (s.modCan p f).devDma = s.devDma := rfl
@[simp] theorem State.modCan_windows (p : CanNo) (f : CanPort → CanPort) : (s.modCan p f).windows = s.windows := rfl
@[simp] theorem State.modCan_mem (p : CanNo) (f : CanPort → CanPort) : (s.modCan p f).mem = s.mem := rfl
@[simp] theorem State.modCan_ev (p : CanNo) (f : CanPort → CanPort) : (s.modCan p f).ev = s.ev := rfl
@[simp] theorem State.modCan_od (p : CanNo) (f : CanPort → CanPort) : (s.modCan p f).od = s.od := rfl
@[simp] theorem State.modCan_can (p : CanNo) (f : CanPort → CanPort) : (s.modCan p f).can = s.can.set p (f s.can[p]) := rfl
@[simp] theorem State.modCan_plans (p : CanNo) (f : CanPort → CanPort) : (s.modCan p f).plans = s.plans := rfl
@[simp] theorem State.modCan_avail (p : CanNo) (f : CanPort → CanPort) : (s.modCan p f).avail = s.avail := rfl
@[simp] theorem State.modCan_owners (p : CanNo) (f : CanPort → CanPort) : (s.modCan p f).owners = s.owners := rfl
@[simp] theorem State.modCan_provCounter (p : CanNo) (f : CanPort → CanPort) : (s.modCan p f).provCounter = s.provCounter := rfl
@[simp] theorem State.modCan_sys (p : CanNo) (f : CanPort → CanPort) : (s.modCan p f).sys = s.sys := rfl
@[simp] theorem State.modCan_eth (p : CanNo) (f : CanPort → CanPort) : (s.modCan p f).eth = s.eth := rfl
@[simp] theorem State.modCan_fw (p : CanNo) (f : CanPort → CanPort) : (s.modCan p f).fw = s.fw := rfl
@[simp] theorem State.modCan_ledger (p : CanNo) (f : CanPort → CanPort) : (s.modCan p f).ledger = s.ledger := rfl
@[simp] theorem State.modCan_power (p : CanNo) (f : CanPort → CanPort) : (s.modCan p f).power = s.power := rfl
@[simp] theorem State.modCan_out (p : CanNo) (f : CanPort → CanPort) : (s.modCan p f).out = s.out := rfl
@[simp] theorem State.modCan_free (p : CanNo) (f : CanPort → CanPort) : (s.modCan p f).free = s.free := rfl
@[simp] theorem State.modCan_pending (p : CanNo) (f : CanPort → CanPort) : (s.modCan p f).pending = s.pending := rfl

/-! ### State.modOwner -/

@[simp] theorem State.modOwner_now (o : OwnerNo) (f : OwnerState → OwnerState) : (s.modOwner o f).now = s.now := rfl
@[simp] theorem State.modOwner_tick (o : OwnerNo) (f : OwnerState → OwnerState) : (s.modOwner o f).tick = s.tick := rfl
@[simp] theorem State.modOwner_slots (o : OwnerNo) (f : OwnerState → OwnerState) : (s.modOwner o f).slots = s.slots := rfl
@[simp] theorem State.modOwner_isles (o : OwnerNo) (f : OwnerState → OwnerState) : (s.modOwner o f).isles = s.isles := rfl
@[simp] theorem State.modOwner_counters (o : OwnerNo) (f : OwnerState → OwnerState) : (s.modOwner o f).counters = s.counters := rfl
@[simp] theorem State.modOwner_devDma (o : OwnerNo) (f : OwnerState → OwnerState) : (s.modOwner o f).devDma = s.devDma := rfl
@[simp] theorem State.modOwner_windows (o : OwnerNo) (f : OwnerState → OwnerState) : (s.modOwner o f).windows = s.windows := rfl
@[simp] theorem State.modOwner_mem (o : OwnerNo) (f : OwnerState → OwnerState) : (s.modOwner o f).mem = s.mem := rfl
@[simp] theorem State.modOwner_ev (o : OwnerNo) (f : OwnerState → OwnerState) : (s.modOwner o f).ev = s.ev := rfl
@[simp] theorem State.modOwner_od (o : OwnerNo) (f : OwnerState → OwnerState) : (s.modOwner o f).od = s.od := rfl
@[simp] theorem State.modOwner_can (o : OwnerNo) (f : OwnerState → OwnerState) : (s.modOwner o f).can = s.can := rfl
@[simp] theorem State.modOwner_plans (o : OwnerNo) (f : OwnerState → OwnerState) : (s.modOwner o f).plans = s.plans := rfl
@[simp] theorem State.modOwner_avail (o : OwnerNo) (f : OwnerState → OwnerState) : (s.modOwner o f).avail = s.avail := rfl
@[simp] theorem State.modOwner_owners (o : OwnerNo) (f : OwnerState → OwnerState) : (s.modOwner o f).owners = s.owners.set o (f s.owners[o]) := rfl
@[simp] theorem State.modOwner_provCounter (o : OwnerNo) (f : OwnerState → OwnerState) : (s.modOwner o f).provCounter = s.provCounter := rfl
@[simp] theorem State.modOwner_sys (o : OwnerNo) (f : OwnerState → OwnerState) : (s.modOwner o f).sys = s.sys := rfl
@[simp] theorem State.modOwner_eth (o : OwnerNo) (f : OwnerState → OwnerState) : (s.modOwner o f).eth = s.eth := rfl
@[simp] theorem State.modOwner_fw (o : OwnerNo) (f : OwnerState → OwnerState) : (s.modOwner o f).fw = s.fw := rfl
@[simp] theorem State.modOwner_ledger (o : OwnerNo) (f : OwnerState → OwnerState) : (s.modOwner o f).ledger = s.ledger := rfl
@[simp] theorem State.modOwner_power (o : OwnerNo) (f : OwnerState → OwnerState) : (s.modOwner o f).power = s.power := rfl
@[simp] theorem State.modOwner_out (o : OwnerNo) (f : OwnerState → OwnerState) : (s.modOwner o f).out = s.out := rfl
@[simp] theorem State.modOwner_free (o : OwnerNo) (f : OwnerState → OwnerState) : (s.modOwner o f).free = s.free := rfl
@[simp] theorem State.modOwner_pending (o : OwnerNo) (f : OwnerState → OwnerState) : (s.modOwner o f).pending = s.pending := rfl

/-! ### State.modLedger -/

@[simp] theorem State.modLedger_now (f : LedgerState → LedgerState) : (s.modLedger f).now = s.now := rfl
@[simp] theorem State.modLedger_tick (f : LedgerState → LedgerState) : (s.modLedger f).tick = s.tick := rfl
@[simp] theorem State.modLedger_slots (f : LedgerState → LedgerState) : (s.modLedger f).slots = s.slots := rfl
@[simp] theorem State.modLedger_isles (f : LedgerState → LedgerState) : (s.modLedger f).isles = s.isles := rfl
@[simp] theorem State.modLedger_counters (f : LedgerState → LedgerState) : (s.modLedger f).counters = s.counters := rfl
@[simp] theorem State.modLedger_devDma (f : LedgerState → LedgerState) : (s.modLedger f).devDma = s.devDma := rfl
@[simp] theorem State.modLedger_windows (f : LedgerState → LedgerState) : (s.modLedger f).windows = s.windows := rfl
@[simp] theorem State.modLedger_mem (f : LedgerState → LedgerState) : (s.modLedger f).mem = s.mem := rfl
@[simp] theorem State.modLedger_ev (f : LedgerState → LedgerState) : (s.modLedger f).ev = s.ev := rfl
@[simp] theorem State.modLedger_od (f : LedgerState → LedgerState) : (s.modLedger f).od = s.od := rfl
@[simp] theorem State.modLedger_can (f : LedgerState → LedgerState) : (s.modLedger f).can = s.can := rfl
@[simp] theorem State.modLedger_plans (f : LedgerState → LedgerState) : (s.modLedger f).plans = s.plans := rfl
@[simp] theorem State.modLedger_avail (f : LedgerState → LedgerState) : (s.modLedger f).avail = s.avail := rfl
@[simp] theorem State.modLedger_owners (f : LedgerState → LedgerState) : (s.modLedger f).owners = s.owners := rfl
@[simp] theorem State.modLedger_provCounter (f : LedgerState → LedgerState) : (s.modLedger f).provCounter = s.provCounter := rfl
@[simp] theorem State.modLedger_sys (f : LedgerState → LedgerState) : (s.modLedger f).sys = s.sys := rfl
@[simp] theorem State.modLedger_eth (f : LedgerState → LedgerState) : (s.modLedger f).eth = s.eth := rfl
@[simp] theorem State.modLedger_fw (f : LedgerState → LedgerState) : (s.modLedger f).fw = s.fw := rfl
@[simp] theorem State.modLedger_ledger (f : LedgerState → LedgerState) : (s.modLedger f).ledger = f s.ledger := rfl
@[simp] theorem State.modLedger_power (f : LedgerState → LedgerState) : (s.modLedger f).power = s.power := rfl
@[simp] theorem State.modLedger_out (f : LedgerState → LedgerState) : (s.modLedger f).out = s.out := rfl
@[simp] theorem State.modLedger_free (f : LedgerState → LedgerState) : (s.modLedger f).free = s.free := rfl
@[simp] theorem State.modLedger_pending (f : LedgerState → LedgerState) : (s.modLedger f).pending = s.pending := rfl

/-! ### State.modPower -/

@[simp] theorem State.modPower_now (f : PowerState → PowerState) : (s.modPower f).now = s.now := rfl
@[simp] theorem State.modPower_tick (f : PowerState → PowerState) : (s.modPower f).tick = s.tick := rfl
@[simp] theorem State.modPower_slots (f : PowerState → PowerState) : (s.modPower f).slots = s.slots := rfl
@[simp] theorem State.modPower_isles (f : PowerState → PowerState) : (s.modPower f).isles = s.isles := rfl
@[simp] theorem State.modPower_counters (f : PowerState → PowerState) : (s.modPower f).counters = s.counters := rfl
@[simp] theorem State.modPower_devDma (f : PowerState → PowerState) : (s.modPower f).devDma = s.devDma := rfl
@[simp] theorem State.modPower_windows (f : PowerState → PowerState) : (s.modPower f).windows = s.windows := rfl
@[simp] theorem State.modPower_mem (f : PowerState → PowerState) : (s.modPower f).mem = s.mem := rfl
@[simp] theorem State.modPower_ev (f : PowerState → PowerState) : (s.modPower f).ev = s.ev := rfl
@[simp] theorem State.modPower_od (f : PowerState → PowerState) : (s.modPower f).od = s.od := rfl
@[simp] theorem State.modPower_can (f : PowerState → PowerState) : (s.modPower f).can = s.can := rfl
@[simp] theorem State.modPower_plans (f : PowerState → PowerState) : (s.modPower f).plans = s.plans := rfl
@[simp] theorem State.modPower_avail (f : PowerState → PowerState) : (s.modPower f).avail = s.avail := rfl
@[simp] theorem State.modPower_owners (f : PowerState → PowerState) : (s.modPower f).owners = s.owners := rfl
@[simp] theorem State.modPower_provCounter (f : PowerState → PowerState) : (s.modPower f).provCounter = s.provCounter := rfl
@[simp] theorem State.modPower_sys (f : PowerState → PowerState) : (s.modPower f).sys = s.sys := rfl
@[simp] theorem State.modPower_eth (f : PowerState → PowerState) : (s.modPower f).eth = s.eth := rfl
@[simp] theorem State.modPower_fw (f : PowerState → PowerState) : (s.modPower f).fw = s.fw := rfl
@[simp] theorem State.modPower_ledger (f : PowerState → PowerState) : (s.modPower f).ledger = s.ledger := rfl
@[simp] theorem State.modPower_power (f : PowerState → PowerState) : (s.modPower f).power = f s.power := rfl
@[simp] theorem State.modPower_out (f : PowerState → PowerState) : (s.modPower f).out = s.out := rfl
@[simp] theorem State.modPower_free (f : PowerState → PowerState) : (s.modPower f).free = s.free := rfl
@[simp] theorem State.modPower_pending (f : PowerState → PowerState) : (s.modPower f).pending = s.pending := rfl

/-! ### State.modSys -/

@[simp] theorem State.modSys_now (f : SystemState → SystemState) : (s.modSys f).now = s.now := rfl
@[simp] theorem State.modSys_tick (f : SystemState → SystemState) : (s.modSys f).tick = s.tick := rfl
@[simp] theorem State.modSys_slots (f : SystemState → SystemState) : (s.modSys f).slots = s.slots := rfl
@[simp] theorem State.modSys_isles (f : SystemState → SystemState) : (s.modSys f).isles = s.isles := rfl
@[simp] theorem State.modSys_counters (f : SystemState → SystemState) : (s.modSys f).counters = s.counters := rfl
@[simp] theorem State.modSys_devDma (f : SystemState → SystemState) : (s.modSys f).devDma = s.devDma := rfl
@[simp] theorem State.modSys_windows (f : SystemState → SystemState) : (s.modSys f).windows = s.windows := rfl
@[simp] theorem State.modSys_mem (f : SystemState → SystemState) : (s.modSys f).mem = s.mem := rfl
@[simp] theorem State.modSys_ev (f : SystemState → SystemState) : (s.modSys f).ev = s.ev := rfl
@[simp] theorem State.modSys_od (f : SystemState → SystemState) : (s.modSys f).od = s.od := rfl
@[simp] theorem State.modSys_can (f : SystemState → SystemState) : (s.modSys f).can = s.can := rfl
@[simp] theorem State.modSys_plans (f : SystemState → SystemState) : (s.modSys f).plans = s.plans := rfl
@[simp] theorem State.modSys_avail (f : SystemState → SystemState) : (s.modSys f).avail = s.avail := rfl
@[simp] theorem State.modSys_owners (f : SystemState → SystemState) : (s.modSys f).owners = s.owners := rfl
@[simp] theorem State.modSys_provCounter (f : SystemState → SystemState) : (s.modSys f).provCounter = s.provCounter := rfl
@[simp] theorem State.modSys_sys (f : SystemState → SystemState) : (s.modSys f).sys = f s.sys := rfl
@[simp] theorem State.modSys_eth (f : SystemState → SystemState) : (s.modSys f).eth = s.eth := rfl
@[simp] theorem State.modSys_fw (f : SystemState → SystemState) : (s.modSys f).fw = s.fw := rfl
@[simp] theorem State.modSys_ledger (f : SystemState → SystemState) : (s.modSys f).ledger = s.ledger := rfl
@[simp] theorem State.modSys_power (f : SystemState → SystemState) : (s.modSys f).power = s.power := rfl
@[simp] theorem State.modSys_out (f : SystemState → SystemState) : (s.modSys f).out = s.out := rfl
@[simp] theorem State.modSys_free (f : SystemState → SystemState) : (s.modSys f).free = s.free := rfl
@[simp] theorem State.modSys_pending (f : SystemState → SystemState) : (s.modSys f).pending = s.pending := rfl

/-! ### State.modFw -/

@[simp] theorem State.modFw_now (f : FirmwareState → FirmwareState) : (s.modFw f).now = s.now := rfl
@[simp] theorem State.modFw_tick (f : FirmwareState → FirmwareState) : (s.modFw f).tick = s.tick := rfl
@[simp] theorem State.modFw_slots (f : FirmwareState → FirmwareState) : (s.modFw f).slots = s.slots := rfl
@[simp] theorem State.modFw_isles (f : FirmwareState → FirmwareState) : (s.modFw f).isles = s.isles := rfl
@[simp] theorem State.modFw_counters (f : FirmwareState → FirmwareState) : (s.modFw f).counters = s.counters := rfl
@[simp] theorem State.modFw_devDma (f : FirmwareState → FirmwareState) : (s.modFw f).devDma = s.devDma := rfl
@[simp] theorem State.modFw_windows (f : FirmwareState → FirmwareState) : (s.modFw f).windows = s.windows := rfl
@[simp] theorem State.modFw_mem (f : FirmwareState → FirmwareState) : (s.modFw f).mem = s.mem := rfl
@[simp] theorem State.modFw_ev (f : FirmwareState → FirmwareState) : (s.modFw f).ev = s.ev := rfl
@[simp] theorem State.modFw_od (f : FirmwareState → FirmwareState) : (s.modFw f).od = s.od := rfl
@[simp] theorem State.modFw_can (f : FirmwareState → FirmwareState) : (s.modFw f).can = s.can := rfl
@[simp] theorem State.modFw_plans (f : FirmwareState → FirmwareState) : (s.modFw f).plans = s.plans := rfl
@[simp] theorem State.modFw_avail (f : FirmwareState → FirmwareState) : (s.modFw f).avail = s.avail := rfl
@[simp] theorem State.modFw_owners (f : FirmwareState → FirmwareState) : (s.modFw f).owners = s.owners := rfl
@[simp] theorem State.modFw_provCounter (f : FirmwareState → FirmwareState) : (s.modFw f).provCounter = s.provCounter := rfl
@[simp] theorem State.modFw_sys (f : FirmwareState → FirmwareState) : (s.modFw f).sys = s.sys := rfl
@[simp] theorem State.modFw_eth (f : FirmwareState → FirmwareState) : (s.modFw f).eth = s.eth := rfl
@[simp] theorem State.modFw_fw (f : FirmwareState → FirmwareState) : (s.modFw f).fw = f s.fw := rfl
@[simp] theorem State.modFw_ledger (f : FirmwareState → FirmwareState) : (s.modFw f).ledger = s.ledger := rfl
@[simp] theorem State.modFw_power (f : FirmwareState → FirmwareState) : (s.modFw f).power = s.power := rfl
@[simp] theorem State.modFw_out (f : FirmwareState → FirmwareState) : (s.modFw f).out = s.out := rfl
@[simp] theorem State.modFw_free (f : FirmwareState → FirmwareState) : (s.modFw f).free = s.free := rfl
@[simp] theorem State.modFw_pending (f : FirmwareState → FirmwareState) : (s.modFw f).pending = s.pending := rfl

/-! ### State.emit -/

@[simp] theorem State.emit_now (o : Out) : (s.emit o).now = s.now := rfl
@[simp] theorem State.emit_tick (o : Out) : (s.emit o).tick = s.tick := rfl
@[simp] theorem State.emit_slots (o : Out) : (s.emit o).slots = s.slots := rfl
@[simp] theorem State.emit_isles (o : Out) : (s.emit o).isles = s.isles := rfl
@[simp] theorem State.emit_counters (o : Out) : (s.emit o).counters = s.counters := rfl
@[simp] theorem State.emit_devDma (o : Out) : (s.emit o).devDma = s.devDma := rfl
@[simp] theorem State.emit_windows (o : Out) : (s.emit o).windows = s.windows := rfl
@[simp] theorem State.emit_mem (o : Out) : (s.emit o).mem = s.mem := rfl
@[simp] theorem State.emit_ev (o : Out) : (s.emit o).ev = s.ev := rfl
@[simp] theorem State.emit_od (o : Out) : (s.emit o).od = s.od := rfl
@[simp] theorem State.emit_can (o : Out) : (s.emit o).can = s.can := rfl
@[simp] theorem State.emit_plans (o : Out) : (s.emit o).plans = s.plans := rfl
@[simp] theorem State.emit_avail (o : Out) : (s.emit o).avail = s.avail := rfl
@[simp] theorem State.emit_owners (o : Out) : (s.emit o).owners = s.owners := rfl
@[simp] theorem State.emit_provCounter (o : Out) : (s.emit o).provCounter = s.provCounter := rfl
@[simp] theorem State.emit_sys (o : Out) : (s.emit o).sys = s.sys := rfl
@[simp] theorem State.emit_eth (o : Out) : (s.emit o).eth = s.eth := rfl
@[simp] theorem State.emit_fw (o : Out) : (s.emit o).fw = s.fw := rfl
@[simp] theorem State.emit_ledger (o : Out) : (s.emit o).ledger = s.ledger := rfl
@[simp] theorem State.emit_power (o : Out) : (s.emit o).power = s.power := rfl
@[simp] theorem State.emit_out (o : Out) : (s.emit o).out = s.out ++ [o] := rfl
@[simp] theorem State.emit_free (o : Out) : (s.emit o).free = s.free := rfl
@[simp] theorem State.emit_pending (o : Out) : (s.emit o).pending = s.pending := rfl

/-! ### State.setEntry -/

@[simp] theorem State.setEntry_now (i n : Nat) (v : OdVal) : (s.setEntry i n v).now = s.now := rfl
@[simp] theorem State.setEntry_tick (i n : Nat) (v : OdVal) : (s.setEntry i n v).tick = s.tick := rfl
@[simp] theorem State.setEntry_slots (i n : Nat) (v : OdVal) : (s.setEntry i n v).slots = s.slots := rfl
@[simp] theorem State.setEntry_isles (i n : Nat) (v : OdVal) : (s.setEntry i n v).isles = s.isles := rfl
@[simp] theorem State.setEntry_counters (i n : Nat) (v : OdVal) : (s.setEntry i n v).counters = s.counters := rfl
@[simp] theorem State.setEntry_devDma (i n : Nat) (v : OdVal) : (s.setEntry i n v).devDma = s.devDma := rfl
@[simp] theorem State.setEntry_windows (i n : Nat) (v : OdVal) : (s.setEntry i n v).windows = s.windows := rfl
@[simp] theorem State.setEntry_mem (i n : Nat) (v : OdVal) : (s.setEntry i n v).mem = s.mem := rfl
@[simp] theorem State.setEntry_ev (i n : Nat) (v : OdVal) : (s.setEntry i n v).ev = s.ev := rfl
@[simp] theorem State.setEntry_od (i n : Nat) (v : OdVal) : (s.setEntry i n v).od = { s.od with vals := kvSet (odDefault i n) (odKey i n) v s.od.vals } := rfl
@[simp] theorem State.setEntry_can (i n : Nat) (v : OdVal) : (s.setEntry i n v).can = s.can := rfl
@[simp] theorem State.setEntry_plans (i n : Nat) (v : OdVal) : (s.setEntry i n v).plans = s.plans := rfl
@[simp] theorem State.setEntry_avail (i n : Nat) (v : OdVal) : (s.setEntry i n v).avail = s.avail := rfl
@[simp] theorem State.setEntry_owners (i n : Nat) (v : OdVal) : (s.setEntry i n v).owners = s.owners := rfl
@[simp] theorem State.setEntry_provCounter (i n : Nat) (v : OdVal) : (s.setEntry i n v).provCounter = s.provCounter := rfl
@[simp] theorem State.setEntry_sys (i n : Nat) (v : OdVal) : (s.setEntry i n v).sys = s.sys := rfl
@[simp] theorem State.setEntry_eth (i n : Nat) (v : OdVal) : (s.setEntry i n v).eth = s.eth := rfl
@[simp] theorem State.setEntry_fw (i n : Nat) (v : OdVal) : (s.setEntry i n v).fw = s.fw := rfl
@[simp] theorem State.setEntry_ledger (i n : Nat) (v : OdVal) : (s.setEntry i n v).ledger = s.ledger := rfl
@[simp] theorem State.setEntry_power (i n : Nat) (v : OdVal) : (s.setEntry i n v).power = s.power := rfl
@[simp] theorem State.setEntry_out (i n : Nat) (v : OdVal) : (s.setEntry i n v).out = s.out := rfl
@[simp] theorem State.setEntry_free (i n : Nat) (v : OdVal) : (s.setEntry i n v).free = s.free := rfl
@[simp] theorem State.setEntry_pending (i n : Nat) (v : OdVal) : (s.setEntry i n v).pending = s.pending := rfl

/-! ### State.setNum -/

@[simp] theorem State.setNum_now (i n : Nat) (v : Int) : (s.setNum i n v).now = s.now := rfl
@[simp] theorem State.setNum_tick (i n : Nat) (v : Int) : (s.setNum i n v).tick = s.tick := rfl
@[simp] theorem State.setNum_slots (i n : Nat) (v : Int) : (s.setNum i n v).slots = s.slots := rfl
@[simp] theorem State.setNum_isles (i n : Nat) (v : Int) : (s.setNum i n v).isles = s.isles := rfl
@[simp] theorem State.setNum_counters (i n : Nat) (v : Int) : (s.setNum i n v).counters = s.counters := rfl
@[simp] theorem State.setNum_devDma (i n : Nat) (v : Int) : (s.setNum i n v).devDma = s.devDma := rfl
@[simp] theorem State.setNum_windows (i n : Nat) (v : Int) : (s.setNum i n v).windows = s.windows := rfl
@[simp] theorem State.setNum_mem (i n : Nat) (v : Int) : (s.setNum i n v).mem = s.mem := rfl
@[simp] theorem State.setNum_ev (i n : Nat) (v : Int) : (s.setNum i n v).ev = s.ev := rfl
@[simp] theorem State.setNum_can (i n : Nat) (v : Int) : (s.setNum i n v).can = s.can := rfl
@[simp] theorem State.setNum_plans (i n : Nat) (v : Int) : (s.setNum i n v).plans = s.plans := rfl
@[simp] theorem State.setNum_avail (i n : Nat) (v : Int) : (s.setNum i n v).avail = s.avail := rfl
@[simp] theorem State.setNum_owners (i n : Nat) (v : Int) : (s.setNum i n v).owners = s.owners := rfl
@[simp] theorem State.setNum_provCounter (i n : Nat) (v : Int) : (s.setNum i n v).provCounter = s.provCounter := rfl
@[simp] theorem State.setNum_sys (i n : Nat) (v : Int) : (s.setNum i n v).sys = s.sys := rfl
@[simp] theorem State.setNum_eth (i n : Nat) (v : Int) : (s.setNum i n v).eth = s.eth := rfl
@[simp] theorem State.setNum_fw (i n : Nat) (v : Int) : (s.setNum i n v).fw = s.fw := rfl
@[simp] theorem State.setNum_ledger (i n : Nat) (v : Int) : (s.setNum i n v).ledger = s.ledger := rfl
@[simp] theorem State.setNum_power (i n : Nat) (v : Int) : (s.setNum i n v).power = s.power := rfl
@[simp] theorem State.setNum_out (i n : Nat) (v : Int) : (s.setNum i n v).out = s.out := rfl
@[simp] theorem State.setNum_free (i n : Nat) (v : Int) : (s.setNum i n v).free = s.free := rfl
@[simp] theorem State.setNum_pending (i n : Nat) (v : Int) : (s.setNum i n v).pending = s.pending := rfl

/-! ### State.bumpBy -/

@[simp] theorem State.bumpBy_now (i n m : Nat) : (s.bumpBy i n m).now = s.now := rfl
@[simp] theorem State.bumpBy_tick (i n m : Nat) : (s.bumpBy i n m).tick = s.tick := rfl
@[simp] theorem State.bumpBy_slots (i n m : Nat) : (s.bumpBy i n m).slots = s.slots := rfl
@[simp] theorem State.bumpBy_isles (i n m : Nat) : (s.bumpBy i n m).isles = s.isles := rfl
@[simp] theorem State.bumpBy_counters (i n m : Nat) : (s.bumpBy i n m).counters = s.counters := rfl
@[simp] theorem State.bumpBy_devDma (i n m : Nat) : (s.bumpBy i n m).devDma = s.devDma := rfl
@[simp] theorem State.bumpBy_windows (i n m : Nat) : (s.bumpBy i n m).windows = s.windows := rfl
@[simp] theorem State.bumpBy_mem (i n m : Nat) : (s.bumpBy i n m).mem = s.mem := rfl
@[simp] theorem State.bumpBy_ev (i n m : Nat) : (s.bumpBy i n m).ev = s.ev := rfl
@[simp] theorem State.bumpBy_can (i n m : Nat) : (s.bumpBy i n m).can = s.can := rfl
@[simp] theorem State.bumpBy_plans (i n m : Nat) : (s.bumpBy i n m).plans = s.plans := rfl
@[simp] theorem State.bumpBy_avail (i n m : Nat) : (s.bumpBy i n m).avail = s.avail := rfl
@[simp] theorem State.bumpBy_owners (i n m : Nat) : (s.bumpBy i n m).owners = s.owners := rfl
@[simp] theorem State.bumpBy_provCounter (i n m : Nat) : (s.bumpBy i n m).provCounter = s.provCounter := rfl
@[simp] theorem State.bumpBy_sys (i n m : Nat) : (s.bumpBy i n m).sys = s.sys := rfl
@[simp] theorem State.bumpBy_eth (i n m : Nat) : (s.bumpBy i n m).eth = s.eth := rfl
@[simp] theorem State.bumpBy_fw (i n m : Nat) : (s.bumpBy i n m).fw = s.fw := rfl
@[simp] theorem State.bumpBy_ledger (i n m : Nat) : (s.bumpBy i n m).ledger = s.ledger := rfl
@[simp] theorem State.bumpBy_power (i n m : Nat) : (s.bumpBy i n m).power = s.power := rfl
@[simp] theorem State.bumpBy_out (i n m : Nat) : (s.bumpBy i n m).out = s.out := rfl
@[simp] theorem State.bumpBy_free (i n m : Nat) : (s.bumpBy i n m).free = s.free := rfl
@[simp] theorem State.bumpBy_pending (i n m : Nat) : (s.bumpBy i n m).pending = s.pending := rfl

/-! ### State.bump -/

@[simp] theorem State.bump_now (i n : Nat) : (s.bump i n).now = s.now := rfl
@[simp] theorem State.bump_tick (i n : Nat) : (s.bump i n).tick = s.tick := rfl
@[simp] theorem State.bump_slots (i n : Nat) : (s.bump i n).slots = s.slots := rfl
@[simp] theorem State.bump_isles (i n : Nat) : (s.bump i n).isles = s.isles := rfl
@[simp] theorem State.bump_counters (i n : Nat) : (s.bump i n).counters = s.counters := rfl
@[simp] theorem State.bump_devDma (i n : Nat) : (s.bump i n).devDma = s.devDma := rfl
@[simp] theorem State.bump_windows (i n : Nat) : (s.bump i n).windows = s.windows := rfl
@[simp] theorem State.bump_mem (i n : Nat) : (s.bump i n).mem = s.mem := rfl
@[simp] theorem State.bump_ev (i n : Nat) : (s.bump i n).ev = s.ev := rfl
@[simp] theorem State.bump_can (i n : Nat) : (s.bump i n).can = s.can := rfl
@[simp] theorem State.bump_plans (i n : Nat) : (s.bump i n).plans = s.plans := rfl
@[simp] theorem State.bump_avail (i n : Nat) : (s.bump i n).avail = s.avail := rfl
@[simp] theorem State.bump_owners (i n : Nat) : (s.bump i n).owners = s.owners := rfl
@[simp] theorem State.bump_provCounter (i n : Nat) : (s.bump i n).provCounter = s.provCounter := rfl
@[simp] theorem State.bump_sys (i n : Nat) : (s.bump i n).sys = s.sys := rfl
@[simp] theorem State.bump_eth (i n : Nat) : (s.bump i n).eth = s.eth := rfl
@[simp] theorem State.bump_fw (i n : Nat) : (s.bump i n).fw = s.fw := rfl
@[simp] theorem State.bump_ledger (i n : Nat) : (s.bump i n).ledger = s.ledger := rfl
@[simp] theorem State.bump_power (i n : Nat) : (s.bump i n).power = s.power := rfl
@[simp] theorem State.bump_out (i n : Nat) : (s.bump i n).out = s.out := rfl
@[simp] theorem State.bump_free (i n : Nat) : (s.bump i n).free = s.free := rfl
@[simp] theorem State.bump_pending (i n : Nat) : (s.bump i n).pending = s.pending := rfl

/-! ### State.markTick -/

@[simp] theorem State.markTick_now (c q : Nat) : (s.markTick c q).now = s.now := rfl
@[simp] theorem State.markTick_tick (c q : Nat) : (s.markTick c q).tick = s.tick := rfl
@[simp] theorem State.markTick_slots (c q : Nat) : (s.markTick c q).slots = s.slots := rfl
@[simp] theorem State.markTick_isles (c q : Nat) : (s.markTick c q).isles = s.isles := rfl
@[simp] theorem State.markTick_counters (c q : Nat) : (s.markTick c q).counters = s.counters := rfl
@[simp] theorem State.markTick_devDma (c q : Nat) : (s.markTick c q).devDma = s.devDma := rfl
@[simp] theorem State.markTick_windows (c q : Nat) : (s.markTick c q).windows = s.windows := rfl
@[simp] theorem State.markTick_mem (c q : Nat) : (s.markTick c q).mem = s.mem := rfl
@[simp] theorem State.markTick_ev (c q : Nat) : (s.markTick c q).ev = { s.ev with onceTick := (c, q) :: s.ev.onceTick } := rfl
@[simp] theorem State.markTick_od (c q : Nat) : (s.markTick c q).od = s.od := rfl
@[simp] theorem State.markTick_can (c q : Nat) : (s.markTick c q).can = s.can := rfl
@[simp] theorem State.markTick_plans (c q : Nat) : (s.markTick c q).plans = s.plans := rfl
@[simp] theorem State.markTick_avail (c q : Nat) : (s.markTick c q).avail = s.avail := rfl
@[simp] theorem State.markTick_owners (c q : Nat) : (s.markTick c q).owners = s.owners := rfl
@[simp] theorem State.markTick_provCounter (c q : Nat) : (s.markTick c q).provCounter = s.provCounter := rfl
@[simp] theorem State.markTick_sys (c q : Nat) : (s.markTick c q).sys = s.sys := rfl
@[simp] theorem State.markTick_eth (c q : Nat) : (s.markTick c q).eth = s.eth := rfl
@[simp] theorem State.markTick_fw (c q : Nat) : (s.markTick c q).fw = s.fw := rfl
@[simp] theorem State.markTick_ledger (c q : Nat) : (s.markTick c q).ledger = s.ledger := rfl
@[simp] theorem State.markTick_power (c q : Nat) : (s.markTick c q).power = s.power := rfl
@[simp] theorem State.markTick_out (c q : Nat) : (s.markTick c q).out = s.out := rfl
@[simp] theorem State.markTick_free (c q : Nat) : (s.markTick c q).free = s.free := rfl
@[simp] theorem State.markTick_pending (c q : Nat) : (s.markTick c q).pending = s.pending := rfl

/-! ### State.at_ -/

@[simp] theorem State.at_tick (t : Nat) : (s.at_ t).tick = s.tick := by unfold State.at_; split <;> rfl
@[simp] theorem State.at_slots (t : Nat) : (s.at_ t).slots = s.slots := by unfold State.at_; split <;> rfl
@[simp] theorem State.at_counters (t : Nat) : (s.at_ t).counters = s.counters := by unfold State.at_; split <;> rfl
@[simp] theorem State.at_devDma (t : Nat) : (s.at_ t).devDma = s.devDma := by unfold State.at_; split <;> rfl
@[simp] theorem State.at_windows (t : Nat) : (s.at_ t).windows = s.windows := by unfold State.at_; split <;> rfl
@[simp] theorem State.at_mem (t : Nat) : (s.at_ t).mem = s.mem := by unfold State.at_; split <;> rfl
@[simp] theorem State.at_ev (t : Nat) : (s.at_ t).ev = s.ev := by unfold State.at_; split <;> rfl
@[simp] theorem State.at_od (t : Nat) : (s.at_ t).od = s.od := by unfold State.at_; split <;> rfl
@[simp] theorem State.at_can (t : Nat) : (s.at_ t).can = s.can := by unfold State.at_; split <;> rfl
@[simp] theorem State.at_plans (t : Nat) : (s.at_ t).plans = s.plans := by unfold State.at_; split <;> rfl
@[simp] theorem State.at_avail (t : Nat) : (s.at_ t).avail = s.avail := by unfold State.at_; split <;> rfl
@[simp] theorem State.at_owners (t : Nat) : (s.at_ t).owners = s.owners := by unfold State.at_; split <;> rfl
@[simp] theorem State.at_provCounter (t : Nat) : (s.at_ t).provCounter = s.provCounter := by unfold State.at_; split <;> rfl
@[simp] theorem State.at_sys (t : Nat) : (s.at_ t).sys = s.sys := by unfold State.at_; split <;> rfl
@[simp] theorem State.at_eth (t : Nat) : (s.at_ t).eth = s.eth := by unfold State.at_; split <;> rfl
@[simp] theorem State.at_fw (t : Nat) : (s.at_ t).fw = s.fw := by unfold State.at_; split <;> rfl
@[simp] theorem State.at_ledger (t : Nat) : (s.at_ t).ledger = s.ledger := by unfold State.at_; split <;> rfl
@[simp] theorem State.at_power (t : Nat) : (s.at_ t).power = s.power := by unfold State.at_; split <;> rfl
@[simp] theorem State.at_out (t : Nat) : (s.at_ t).out = s.out := by unfold State.at_; split <;> rfl
@[simp] theorem State.at_free (t : Nat) : (s.at_ t).free = s.free := by unfold State.at_; split <;> rfl
@[simp] theorem State.at_pending (t : Nat) : (s.at_ t).pending = s.pending := by unfold State.at_; split <;> rfl
theorem State.at_now (t : Nat) : (s.at_ t).now = max s.now t := by
  unfold State.at_
  split
  · exact (Nat.max_eq_right (Nat.le_of_lt ‹_›)).symm
  · exact (Nat.max_eq_left (Nat.le_of_not_lt ‹_›)).symm
theorem State.at_of_le (t : Nat) (h : t ≤ s.now) : s.at_ t = s := by unfold State.at_; simp only [Nat.not_lt.2 h, if_false]

/-! ### State.draw -/

@[simp] theorem State.draw_now : s.draw.2.now = s.now := rfl
@[simp] theorem State.draw_tick : s.draw.2.tick = s.tick := rfl
@[simp] theorem State.draw_slots : s.draw.2.slots = s.slots := rfl
@[simp] theorem State.draw_isles : s.draw.2.isles = s.isles := rfl
@[simp] theorem State.draw_counters : s.draw.2.counters = s.counters := rfl
@[simp] theorem State.draw_devDma : s.draw.2.devDma = s.devDma := rfl
@[simp] theorem State.draw_windows : s.draw.2.windows = s.windows := rfl
@[simp] theorem State.draw_mem : s.draw.2.mem = s.mem := rfl
@[simp] theorem State.draw_ev : s.draw.2.ev = s.ev := rfl
@[simp] theorem State.draw_od : s.draw.2.od = s.od := rfl
@[simp] theorem State.draw_can : s.draw.2.can = s.can := rfl
@[simp] theorem State.draw_plans : s.draw.2.plans = s.plans := rfl
@[simp] theorem State.draw_avail : s.draw.2.avail = s.avail := rfl
@[simp] theorem State.draw_owners : s.draw.2.owners = s.owners := rfl
@[simp] theorem State.draw_provCounter : s.draw.2.provCounter = s.provCounter := rfl
@[simp] theorem State.draw_sys : s.draw.2.sys = s.sys := rfl
@[simp] theorem State.draw_eth : s.draw.2.eth = s.eth := rfl
@[simp] theorem State.draw_fw : s.draw.2.fw = s.fw := rfl
@[simp] theorem State.draw_ledger : s.draw.2.ledger = s.ledger := rfl
@[simp] theorem State.draw_power : s.draw.2.power = s.power := rfl
@[simp] theorem State.draw_out : s.draw.2.out = s.out := rfl
@[simp] theorem State.draw_pending : s.draw.2.pending = s.pending := rfl
@[simp] theorem State.draw_free : s.draw.2.free = s.free + 1 := rfl

/-! ### State.charge -/

@[simp] theorem State.charge_now (o : OwnerNo) (n m : Nat) : (s.charge o n m).now = s.now := by unfold State.charge; split <;> rfl
@[simp] theorem State.charge_tick (o : OwnerNo) (n m : Nat) : (s.charge o n m).tick = s.tick := by unfold State.charge; split <;> rfl
@[simp] theorem State.charge_slots (o : OwnerNo) (n m : Nat) : (s.charge o n m).slots = s.slots := by unfold State.charge; split <;> rfl
@[simp] theorem State.charge_isles (o : OwnerNo) (n m : Nat) : (s.charge o n m).isles = s.isles := by unfold State.charge; split <;> rfl
@[simp] theorem State.charge_counters (o : OwnerNo) (n m : Nat) : (s.charge o n m).counters = s.counters := by unfold State.charge; split <;> rfl
@[simp] theorem State.charge_devDma (o : OwnerNo) (n m : Nat) : (s.charge o n m).devDma = s.devDma := by unfold State.charge; split <;> rfl
@[simp] theorem State.charge_windows (o : OwnerNo) (n m : Nat) : (s.charge o n m).windows = s.windows := by unfold State.charge; split <;> rfl
@[simp] theorem State.charge_mem (o : OwnerNo) (n m : Nat) : (s.charge o n m).mem = s.mem := by unfold State.charge; split <;> rfl
@[simp] theorem State.charge_ev (o : OwnerNo) (n m : Nat) : (s.charge o n m).ev = s.ev := by unfold State.charge; split <;> rfl
@[simp] theorem State.charge_od (o : OwnerNo) (n m : Nat) : (s.charge o n m).od = s.od := by unfold State.charge; split <;> rfl
@[simp] theorem State.charge_can (o : OwnerNo) (n m : Nat) : (s.charge o n m).can = s.can := by unfold State.charge; split <;> rfl
@[simp] theorem State.charge_plans (o : OwnerNo) (n m : Nat) : (s.charge o n m).plans = s.plans := by unfold State.charge; split <;> rfl
@[simp] theorem State.charge_avail (o : OwnerNo) (n m : Nat) : (s.charge o n m).avail = s.avail := by unfold State.charge; split <;> rfl
@[simp] theorem State.charge_owners (o : OwnerNo) (n m : Nat) : (s.charge o n m).owners = s.owners := by unfold State.charge; split <;> rfl
@[simp] theorem State.charge_provCounter (o : OwnerNo) (n m : Nat) : (s.charge o n m).provCounter = s.provCounter := by unfold State.charge; split <;> rfl
@[simp] theorem State.charge_sys (o : OwnerNo) (n m : Nat) : (s.charge o n m).sys = s.sys := by unfold State.charge; split <;> rfl
@[simp] theorem State.charge_eth (o : OwnerNo) (n m : Nat) : (s.charge o n m).eth = s.eth := by unfold State.charge; split <;> rfl
@[simp] theorem State.charge_fw (o : OwnerNo) (n m : Nat) : (s.charge o n m).fw = s.fw := by unfold State.charge; split <;> rfl
@[simp] theorem State.charge_power (o : OwnerNo) (n m : Nat) : (s.charge o n m).power = s.power := by unfold State.charge; split <;> rfl
@[simp] theorem State.charge_out (o : OwnerNo) (n m : Nat) : (s.charge o n m).out = s.out := by unfold State.charge; split <;> rfl
@[simp] theorem State.charge_free (o : OwnerNo) (n m : Nat) : (s.charge o n m).free = s.free := by unfold State.charge; split <;> rfl
@[simp] theorem State.charge_pending (o : OwnerNo) (n m : Nat) : (s.charge o n m).pending = s.pending := by unfold State.charge; split <;> rfl

/-! ### State.chargeSamples -/

@[simp] theorem State.chargeSamples_now (o : OwnerNo) (n : Nat) : (s.chargeSamples o n).now = s.now := by unfold State.chargeSamples; split <;> rfl
@[simp] theorem State.chargeSamples_tick (o : OwnerNo) (n : Nat) : (s.chargeSamples o n).tick = s.tick := by unfold State.chargeSamples; split <;> rfl
@[simp] theorem State.chargeSamples_slots (o : OwnerNo) (n : Nat) : (s.chargeSamples o n).slots = s.slots := by unfold State.chargeSamples; split <;> rfl
@[simp] theorem State.chargeSamples_isles (o : OwnerNo) (n : Nat) : (s.chargeSamples o n).isles = s.isles := by unfold State.chargeSamples; split <;> rfl
@[simp] theorem State.chargeSamples_counters (o : OwnerNo) (n : Nat) : (s.chargeSamples o n).counters = s.counters := by unfold State.chargeSamples; split <;> rfl
@[simp] theorem State.chargeSamples_devDma (o : OwnerNo) (n : Nat) : (s.chargeSamples o n).devDma = s.devDma := by unfold State.chargeSamples; split <;> rfl
@[simp] theorem State.chargeSamples_windows (o : OwnerNo) (n : Nat) : (s.chargeSamples o n).windows = s.windows := by unfold State.chargeSamples; split <;> rfl
@[simp] theorem State.chargeSamples_mem (o : OwnerNo) (n : Nat) : (s.chargeSamples o n).mem = s.mem := by unfold State.chargeSamples; split <;> rfl
@[simp] theorem State.chargeSamples_ev (o : OwnerNo) (n : Nat) : (s.chargeSamples o n).ev = s.ev := by unfold State.chargeSamples; split <;> rfl
@[simp] theorem State.chargeSamples_od (o : OwnerNo) (n : Nat) : (s.chargeSamples o n).od = s.od := by unfold State.chargeSamples; split <;> rfl
@[simp] theorem State.chargeSamples_can (o : OwnerNo) (n : Nat) : (s.chargeSamples o n).can = s.can := by unfold State.chargeSamples; split <;> rfl
@[simp] theorem State.chargeSamples_plans (o : OwnerNo) (n : Nat) : (s.chargeSamples o n).plans = s.plans := by unfold State.chargeSamples; split <;> rfl
@[simp] theorem State.chargeSamples_avail (o : OwnerNo) (n : Nat) : (s.chargeSamples o n).avail = s.avail := by unfold State.chargeSamples; split <;> rfl
@[simp] theorem State.chargeSamples_owners (o : OwnerNo) (n : Nat) : (s.chargeSamples o n).owners = s.owners := by unfold State.chargeSamples; split <;> rfl
@[simp] theorem State.chargeSamples_provCounter (o : OwnerNo) (n : Nat) : (s.chargeSamples o n).provCounter = s.provCounter := by unfold State.chargeSamples; split <;> rfl
@[simp] theorem State.chargeSamples_sys (o : OwnerNo) (n : Nat) : (s.chargeSamples o n).sys = s.sys := by unfold State.chargeSamples; split <;> rfl
@[simp] theorem State.chargeSamples_eth (o : OwnerNo) (n : Nat) : (s.chargeSamples o n).eth = s.eth := by unfold State.chargeSamples; split <;> rfl
@[simp] theorem State.chargeSamples_fw (o : OwnerNo) (n : Nat) : (s.chargeSamples o n).fw = s.fw := by unfold State.chargeSamples; split <;> rfl
@[simp] theorem State.chargeSamples_power (o : OwnerNo) (n : Nat) : (s.chargeSamples o n).power = s.power := by unfold State.chargeSamples; split <;> rfl
@[simp] theorem State.chargeSamples_out (o : OwnerNo) (n : Nat) : (s.chargeSamples o n).out = s.out := by unfold State.chargeSamples; split <;> rfl
@[simp] theorem State.chargeSamples_free (o : OwnerNo) (n : Nat) : (s.chargeSamples o n).free = s.free := by unfold State.chargeSamples; split <;> rfl
@[simp] theorem State.chargeSamples_pending (o : OwnerNo) (n : Nat) : (s.chargeSamples o n).pending = s.pending := by unfold State.chargeSamples; split <;> rfl

/-! ### Raising a code: only the log, the entries and the CAN ports change (R521 to R523) -/

/-- The fields that no raised code touches are the same. -/
structure State.SameButEvents (s t : State) : Prop where
  now : t.now = s.now
  tick : t.tick = s.tick
  slots : t.slots = s.slots
  isles : t.isles = s.isles
  counters : t.counters = s.counters
  devDma : t.devDma = s.devDma
  windows : t.windows = s.windows
  mem : t.mem = s.mem
  plans : t.plans = s.plans
  avail : t.avail = s.avail
  owners : t.owners = s.owners
  provCounter : t.provCounter = s.provCounter
  sys : t.sys = s.sys
  eth : t.eth = s.eth
  fw : t.fw = s.fw
  ledger : t.ledger = s.ledger
  power : t.power = s.power
  out : t.out = s.out
  free : t.free = s.free
  pending : t.pending = s.pending

theorem State.SameButEvents.refl : s.SameButEvents s := ⟨rfl, rfl, rfl, rfl, rfl, rfl, rfl, rfl, rfl, rfl, rfl, rfl, rfl, rfl, rfl, rfl, rfl, rfl, rfl, rfl⟩
theorem State.SameButEvents.trans {s t u : State} (h : s.SameButEvents t) (g : t.SameButEvents u) : s.SameButEvents u :=
  ⟨g.now.trans h.now, g.tick.trans h.tick, g.slots.trans h.slots, g.isles.trans h.isles, g.counters.trans h.counters, g.devDma.trans h.devDma, g.windows.trans h.windows, g.mem.trans h.mem, g.plans.trans h.plans, g.avail.trans h.avail, g.owners.trans h.owners, g.provCounter.trans h.provCounter, g.sys.trans h.sys, g.eth.trans h.eth, g.fw.trans h.fw, g.ledger.trans h.ledger, g.power.trans h.power, g.out.trans h.out, g.free.trans h.free, g.pending.trans h.pending⟩
theorem State.setNum_same (i n : Nat) (v : Int) : s.SameButEvents (s.setNum i n v) := ⟨rfl, rfl, rfl, rfl, rfl, rfl, rfl, rfl, rfl, rfl, rfl, rfl, rfl, rfl, rfl, rfl, rfl, rfl, rfl, rfl⟩
theorem State.modCan_same (p : CanNo) (f : CanPort → CanPort) : s.SameButEvents (s.modCan p f) := ⟨rfl, rfl, rfl, rfl, rfl, rfl, rfl, rfl, rfl, rfl, rfl, rfl, rfl, rfl, rfl, rfl, rfl, rfl, rfl, rfl⟩
theorem State.markTick_same (c q : Nat) : s.SameButEvents (s.markTick c q) := ⟨rfl, rfl, rfl, rfl, rfl, rfl, rfl, rfl, rfl, rfl, rfl, rfl, rfl, rfl, rfl, rfl, rfl, rfl, rfl, rfl⟩

theorem State.queueEmcy_same (m : Emcy) : s.SameButEvents (s.queueEmcy m).1 := by
  have step : ∀ (l : List (Fin 2)) (p : State × Nat), s.SameButEvents p.1 →
      s.SameButEvents (l.foldl (fun (p : State × Nat) port =>
        let c := p.1.can[port]
        if !c.canEmcy then p
        else if c.emcy.length < 32 then (p.1.modCan port fun c => { c with emcy := c.emcy ++ [m] }, p.2)
        else (p.1.bump 0x2600 7, p.2 + 1)) p).1 := by
    intro l
    induction l with
    | nil => exact fun p h => h
    | cons x xs ih =>
      intro p h
      refine ih _ ?_
      dsimp only
      split
      · exact h
      · split
        · exact State.SameButEvents.trans h (p.1.modCan_same _ (fun c => { c with emcy := c.emcy ++ [m] }))
        · exact h.trans (p.1.setNum_same _ _ _)
  exact step _ (s, 0) (State.SameButEvents.refl s)

theorem State.record_same (r : EventRecord) : s.SameButEvents (s.record r).1 := by
  unfold State.record
  dsimp only
  split
  · refine State.SameButEvents.trans ?_ (State.queueEmcy_same _ _)
    exact ⟨rfl, rfl, rfl, rfl, rfl, rfl, rfl, rfl, rfl, rfl, rfl, rfl, rfl, rfl, rfl, rfl, rfl, rfl, rfl, rfl⟩
  · exact ⟨rfl, rfl, rfl, rfl, rfl, rfl, rfl, rfl, rfl, rfl, rfl, rfl, rfl, rfl, rfl, rfl, rfl, rfl, rfl, rfl⟩

theorem State.log_same (r : EventRecord) : s.SameButEvents (s.log r) := by
  have h := s.record_same r
  unfold State.log
  split
  · rename_i e; rw [e] at h; exact h
  · rename_i e; rw [e] at h
    split
    · exact h.trans ((State.markTick_same _ _ _).trans (State.record_same _ _))
    · exact h

theorem State.raise_same (c : Nat) (d : Concern) : s.SameButEvents (s.raise c d) := s.log_same _

theorem State.raiseOnce_same (c q : Nat) (d : Concern) : s.SameButEvents (s.raiseOnce c q d) := by
  unfold State.raiseOnce
  split
  · exact (s.markTick_same c q).trans (State.raise_same _ _ _)
  · exact State.SameButEvents.refl s

theorem State.settleError_same : s.SameButEvents s.settleError := by
  unfold State.settleError
  dsimp only
  split
  · refine State.SameButEvents.trans ?_ (State.queueEmcy_same _ _)
    exact ⟨rfl, rfl, rfl, rfl, rfl, rfl, rfl, rfl, rfl, rfl, rfl, rfl, rfl, rfl, rfl, rfl, rfl, rfl, rfl, rfl⟩
  · exact ⟨rfl, rfl, rfl, rfl, rfl, rfl, rfl, rfl, rfl, rfl, rfl, rfl, rfl, rfl, rfl, rfl, rfl, rfl, rfl, rfl⟩


@[simp] theorem State.raise_now (c : Nat) (d : Concern) : (s.raise c d).now = s.now := (s.raise_same c d).now
@[simp] theorem State.raise_tick (c : Nat) (d : Concern) : (s.raise c d).tick = s.tick := (s.raise_same c d).tick
@[simp] theorem State.raise_slots (c : Nat) (d : Concern) : (s.raise c d).slots = s.slots := (s.raise_same c d).slots
@[simp] theorem State.raise_isles (c : Nat) (d : Concern) : (s.raise c d).isles = s.isles := (s.raise_same c d).isles
@[simp] theorem State.raise_counters (c : Nat) (d : Concern) : (s.raise c d).counters = s.counters := (s.raise_same c d).counters
@[simp] theorem State.raise_devDma (c : Nat) (d : Concern) : (s.raise c d).devDma = s.devDma := (s.raise_same c d).devDma
@[simp] theorem State.raise_windows (c : Nat) (d : Concern) : (s.raise c d).windows = s.windows := (s.raise_same c d).windows
@[simp] theorem State.raise_mem (c : Nat) (d : Concern) : (s.raise c d).mem = s.mem := (s.raise_same c d).mem
@[simp] theorem State.raise_plans (c : Nat) (d : Concern) : (s.raise c d).plans = s.plans := (s.raise_same c d).plans
@[simp] theorem State.raise_avail (c : Nat) (d : Concern) : (s.raise c d).avail = s.avail := (s.raise_same c d).avail
@[simp] theorem State.raise_owners (c : Nat) (d : Concern) : (s.raise c d).owners = s.owners := (s.raise_same c d).owners
@[simp] theorem State.raise_provCounter (c : Nat) (d : Concern) : (s.raise c d).provCounter = s.provCounter := (s.raise_same c d).provCounter
@[simp] theorem State.raise_sys (c : Nat) (d : Concern) : (s.raise c d).sys = s.sys := (s.raise_same c d).sys
@[simp] theorem State.raise_eth (c : Nat) (d : Concern) : (s.raise c d).eth = s.eth := (s.raise_same c d).eth
@[simp] theorem State.raise_fw (c : Nat) (d : Concern) : (s.raise c d).fw = s.fw := (s.raise_same c d).fw
@[simp] theorem State.raise_ledger (c : Nat) (d : Concern) : (s.raise c d).ledger = s.ledger := (s.raise_same c d).ledger
@[simp] theorem State.raise_power (c : Nat) (d : Concern) : (s.raise c d).power = s.power := (s.raise_same c d).power
@[simp] theorem State.raise_out (c : Nat) (d : Concern) : (s.raise c d).out = s.out := (s.raise_same c d).out
@[simp] theorem State.raise_free (c : Nat) (d : Concern) : (s.raise c d).free = s.free := (s.raise_same c d).free
@[simp] theorem State.raise_pending (c : Nat) (d : Concern) : (s.raise c d).pending = s.pending := (s.raise_same c d).pending

@[simp] theorem State.raiseOnce_now (c q : Nat) (d : Concern) : (s.raiseOnce c q d).now = s.now := (s.raiseOnce_same c q d).now
@[simp] theorem State.raiseOnce_tick (c q : Nat) (d : Concern) : (s.raiseOnce c q d).tick = s.tick := (s.raiseOnce_same c q d).tick
@[simp] theorem State.raiseOnce_slots (c q : Nat) (d : Concern) : (s.raiseOnce c q d).slots = s.slots := (s.raiseOnce_same c q d).slots
@[simp] theorem State.raiseOnce_isles (c q : Nat) (d : Concern) : (s.raiseOnce c q d).isles = s.isles := (s.raiseOnce_same c q d).isles
@[simp] theorem State.raiseOnce_counters (c q : Nat) (d : Concern) : (s.raiseOnce c q d).counters = s.counters := (s.raiseOnce_same c q d).counters
@[simp] theorem State.raiseOnce_devDma (c q : Nat) (d : Concern) : (s.raiseOnce c q d).devDma = s.devDma := (s.raiseOnce_same c q d).devDma
@[simp] theorem State.raiseOnce_windows (c q : Nat) (d : Concern) : (s.raiseOnce c q d).windows = s.windows := (s.raiseOnce_same c q d).windows
@[simp] theorem State.raiseOnce_mem (c q : Nat) (d : Concern) : (s.raiseOnce c q d).mem = s.mem := (s.raiseOnce_same c q d).mem
@[simp] theorem State.raiseOnce_plans (c q : Nat) (d : Concern) : (s.raiseOnce c q d).plans = s.plans := (s.raiseOnce_same c q d).plans
@[simp] theorem State.raiseOnce_avail (c q : Nat) (d : Concern) : (s.raiseOnce c q d).avail = s.avail := (s.raiseOnce_same c q d).avail
@[simp] theorem State.raiseOnce_owners (c q : Nat) (d : Concern) : (s.raiseOnce c q d).owners = s.owners := (s.raiseOnce_same c q d).owners
@[simp] theorem State.raiseOnce_provCounter (c q : Nat) (d : Concern) : (s.raiseOnce c q d).provCounter = s.provCounter := (s.raiseOnce_same c q d).provCounter
@[simp] theorem State.raiseOnce_sys (c q : Nat) (d : Concern) : (s.raiseOnce c q d).sys = s.sys := (s.raiseOnce_same c q d).sys
@[simp] theorem State.raiseOnce_eth (c q : Nat) (d : Concern) : (s.raiseOnce c q d).eth = s.eth := (s.raiseOnce_same c q d).eth
@[simp] theorem State.raiseOnce_fw (c q : Nat) (d : Concern) : (s.raiseOnce c q d).fw = s.fw := (s.raiseOnce_same c q d).fw
@[simp] theorem State.raiseOnce_ledger (c q : Nat) (d : Concern) : (s.raiseOnce c q d).ledger = s.ledger := (s.raiseOnce_same c q d).ledger
@[simp] theorem State.raiseOnce_power (c q : Nat) (d : Concern) : (s.raiseOnce c q d).power = s.power := (s.raiseOnce_same c q d).power
@[simp] theorem State.raiseOnce_out (c q : Nat) (d : Concern) : (s.raiseOnce c q d).out = s.out := (s.raiseOnce_same c q d).out
@[simp] theorem State.raiseOnce_free (c q : Nat) (d : Concern) : (s.raiseOnce c q d).free = s.free := (s.raiseOnce_same c q d).free
@[simp] theorem State.raiseOnce_pending (c q : Nat) (d : Concern) : (s.raiseOnce c q d).pending = s.pending := (s.raiseOnce_same c q d).pending

@[simp] theorem State.settleError_now : (s.settleError ).now = s.now := (s.settleError_same ).now
@[simp] theorem State.settleError_tick : (s.settleError ).tick = s.tick := (s.settleError_same ).tick
@[simp] theorem State.settleError_slots : (s.settleError ).slots = s.slots := (s.settleError_same ).slots
@[simp] theorem State.settleError_isles : (s.settleError ).isles = s.isles := (s.settleError_same ).isles
@[simp] theorem State.settleError_counters : (s.settleError ).counters = s.counters := (s.settleError_same ).counters
@[simp] theorem State.settleError_devDma : (s.settleError ).devDma = s.devDma := (s.settleError_same ).devDma
@[simp] theorem State.settleError_windows : (s.settleError ).windows = s.windows := (s.settleError_same ).windows
@[simp] theorem State.settleError_mem : (s.settleError ).mem = s.mem := (s.settleError_same ).mem
@[simp] theorem State.settleError_plans : (s.settleError ).plans = s.plans := (s.settleError_same ).plans
@[simp] theorem State.settleError_avail : (s.settleError ).avail = s.avail := (s.settleError_same ).avail
@[simp] theorem State.settleError_owners : (s.settleError ).owners = s.owners := (s.settleError_same ).owners
@[simp] theorem State.settleError_provCounter : (s.settleError ).provCounter = s.provCounter := (s.settleError_same ).provCounter
@[simp] theorem State.settleError_sys : (s.settleError ).sys = s.sys := (s.settleError_same ).sys
@[simp] theorem State.settleError_eth : (s.settleError ).eth = s.eth := (s.settleError_same ).eth
@[simp] theorem State.settleError_fw : (s.settleError ).fw = s.fw := (s.settleError_same ).fw
@[simp] theorem State.settleError_ledger : (s.settleError ).ledger = s.ledger := (s.settleError_same ).ledger
@[simp] theorem State.settleError_power : (s.settleError ).power = s.power := (s.settleError_same ).power
@[simp] theorem State.settleError_out : (s.settleError ).out = s.out := (s.settleError_same ).out
@[simp] theorem State.settleError_free : (s.settleError ).free = s.free := (s.settleError_same ).free
@[simp] theorem State.settleError_pending : (s.settleError ).pending = s.pending := (s.settleError_same ).pending

end Sys2Proof.Machine
end

