-- ==== Sys2Proof/Laws/Ops.lean ====
section
/-! SUPPORT. What each shared operation can do, said once: reads after writes of stores and entries, codes raised, channels and
engines, a write of an entry that is admitted, a tile op that issues, the tick under the operations of a boundary. -/

namespace Sys2Proof.Machine

theorem live_of_running {s t : State} (h : s.power.tripped = false) : live s t = .next t := by simp [live, h]

/-- An op that issues runs its body on the state in which it has its units. -/
theorem opRow_issues {s : State} {k c key us check op} (h : s.Issues k c key us check op) (body : Bytes → State → State) :
    s.opRow k c key us check body = body op (s.issued k c us) := by
  have hf := h.fresh
  have ht := h.takes
  unfold State.issued State.passed at hf
  unfold State.passed at ht
  unfold State.opRow
  rw [h.head]
  simp only [h.fetched, h.sound, ht, hf, Bool.false_and, Bool.not_true, Bool.false_eq_true, if_false, State.issued, State.passed]

theorem State.each_id {α} (s : State) (l : List α) (f : State → α → State) (h : ∀ x ∈ l, f s x = s) : s.each l f = s := by
  unfold State.each
  induction l with
  | nil => rfl
  | cons x xs ih => rw [List.foldl_cons, h x (by simp)]; exact ih fun y hy => h y (by simp [hy])

theorem State.answerClaims_none (s : State) (n) (h : (s.counters[n]).claims = []) : s.answerClaims n = s := by
  unfold State.answerClaims
  simp only [h]
  have e : (s.modCounter n fun t => { t with claims := [] }) = s := by
    have : (s.counters[n]) = { s.counters[n] with claims := [] } := by rw [← h]
    have e2 : s.counters.set n ({ s.counters[n] with claims := [] }) = s.counters := by
      rw [← this]; simp
    unfold State.modCounter
    rw [e2]
  have o : (allIsles.flatMap fun k => (allCtx.filter fun c => ([] : List (IsleNo × CtxNo)).contains (k, c)).map fun c => (k, c)) = [] := by
    simp
  rw [o, e]; rfl

theorem applyUpsets_nil (s : State) : s.applyUpsets [] = s := rfl

theorem scrub_clean (v : State) (k r) (h : ((v.isles[k]).sp.strongFrom (v.isles[k]).sp.scrubRow).or ((v.isles[k]).sp.strongFrom 0) = some r)
  (h2 : (v.isles[k]).health.phase ≠ .fenced) (h3 : ∀ u ∈ (v.isles[k]).sp.upsets, rowOf u.1 ≠ r) :
   v.scrub k ⟨[], [], false⟩ =
      let last := ((v.isles[k]).sp.strongFrom (r + 1)).isNone
      let v := v.modSp k fun p => { p with scrubRow := if last then 0 else r + 1, scrubbedAt := v.now }
      if last then v.modCnt k fun n => { n with scrubPasses := n.scrubPasses + 1 } else v := by
  unfold State.scrub
  simp only [applyUpsets_nil, h, h2, if_false]
  have : ((v.isles[k]).sp.upsets.map (·.1)).filter (fun w => rowOf w == r) = [] := by
    rw [List.filter_eq_nil_iff]
    intro a ha
    obtain ⟨u, hu, rfl⟩ := List.mem_map.1 ha
    simpa using h3 u hu
  rw [this]
  rfl

theorem kvGet_absent {α} (d : α) (k : Nat) (m : List (Nat × α)) (h : ∀ e ∈ m, e.1 ≠ k) : kvGet d k m = d := by
  induction m with
  | nil => rfl
  | cons x xs ih =>
    unfold kvGet
    rw [if_neg (h x (by simp))]
    exact ih fun e he => h e (by simp [he])

theorem cellsRead_absent (m : List Host.Cell) (n a : Nat) (h : ∀ c ∈ m, ¬ (a ≤ c.1 ∧ c.1 < a + n)) : cellsRead m a n = zeros n := by
  induction n generalizing a with
  | zero => rfl
  | succ n ih =>
    unfold cellsRead
    rw [kvGet_absent _ _ _ (fun e he hk => h e he ⟨by omega, by omega⟩), ih (a + 1) (fun c hc hk => h c hc ⟨by omega, by omega⟩)]
    rfl

theorem zeroRows_gone (rows : List Nat) (p : Scratchpad) (row : Nat) :
    (row ∈ rows ∨ ((∀ c ∈ p.cells, c.1 / 2048 ≠ row) ∧ ∀ t ∈ p.tags, rowOf t.1 ≠ row)) →
    (∀ c ∈ (rows.foldl Scratchpad.zeroRow p).cells, c.1 / 2048 ≠ row) ∧ ∀ t ∈ (rows.foldl Scratchpad.zeroRow p).tags, rowOf t.1 ≠ row := by
  induction rows generalizing p with
  | nil => intro h; rcases h with h | h; · simp at h
           exact h
  | cons x xs ih =>
    intro h
    refine ih _ ?_
    by_cases hx : row ∈ xs
    · exact .inl hx
    · right
      rcases h with h | h
      · have : row = x := by simpa [hx] using h
        subst this
        simp [Scratchpad.zeroRow]
      · refine ⟨fun c hc => h.1 c ?_, fun c hc => h.2 c ?_⟩
        · exact List.mem_of_mem_filter hc
        · exact List.mem_of_mem_filter hc

theorem modChan_chan (s : State) (e c f) : (s.modChan e c f).chan e c = f (s.chan e c) := by
  cases e <;> simp [State.modChan, State.modEngine, State.chan, State.engine]

theorem modChan_modChan (s : State) (e c f g) : (s.modChan e c f).modChan e c g = s.modChan e c (fun x => g (f x)) := by
  cases e <;> simp [State.modChan, State.modEngine, State.modIsle]

theorem onChan_of {s : State} {e : Engine} {c : ChanNo} (h : c ∈ engineChans e) (f : State → State) : onChan e c f s = f s := by
  unfold onChan; rw [if_pos]; simpa using h

theorem promote_of (s : State) (e c) (h : ¬ ((s.chan e c).phase = .idle ∧ (s.chan e c).enable ∧ (s.chan e c).shadowValid ∧ ¬ (s.chan e c).pauseBit)) :
    s.promote e c = s := by
  unfold State.promote; simp only; rw [if_neg h]

theorem modChan_congr (s : State) (e c) {f g : Channel → Channel} (h : f (s.chan e c) = g (s.chan e c)) : s.modChan e c f = s.modChan e c g := by
  cases e
  · simp only [State.modChan, State.modEngine, State.modIsle]
    have h' : f ((s.isles[‹IsleNo›]).dma.chans[c]) = g ((s.isles[‹IsleNo›]).dma.chans[c]) := h
    rw [h']
  · simp only [State.modChan, State.modEngine]
    have h' : f (s.devDma.chans[c]) = g (s.devDma.chans[c]) := h
    rw [h']

theorem find_map_desc (l : List AdaptStage) (d : Nat) (f : AdaptStage → AdaptStage) (hf : ∀ a, (f a).desc = a.desc) :
    (l.map fun a => if a.desc == d then f a else a).find? (·.desc == d) = (l.find? (·.desc == d)).map f := by
  induction l with
  | nil => rfl
  | cons x xs ih =>
    rw [List.map_cons, List.find?_cons, List.find?_cons]
    by_cases h : x.desc == d
    · simp [h, hf]
    · simp only [h, Bool.false_eq_true, if_false]; exact ih

theorem writeAdaptHeaders_slots (s : State) (k d) : (s.writeAdaptHeaders k d).slots = s.slots := by
  unfold State.writeAdaptHeaders; split <;> simp only [State.extWrite_slots]

theorem writeAdaptHeaders_avail (s : State) (k d) : (s.writeAdaptHeaders k d).avail = s.avail := by
  unfold State.writeAdaptHeaders; split <;> simp only [State.extWrite_avail]

theorem kvGet_put_same {α} (d v : α) (k : Nat) (m : List (Nat × α)) : kvGet d k (kvPut k v m) = v := by
  induction m with
  | nil => simp [kvPut, kvGet]
  | cons x xs ih =>
    unfold kvPut
    split
    · unfold kvGet; rw [if_neg (by omega)]; exact ih
    · split <;> simp [kvGet]

theorem kvGet_put_other {α} (d v : α) (k j : Nat) (m : List (Nat × α)) (h : j ≠ k) : kvGet d j (kvPut k v m) = kvGet d j m := by
  induction m with
  | nil => simp [kvPut, kvGet, Ne.symm h]
  | cons x xs ih =>
    unfold kvPut
    split
    · unfold kvGet; split
      · rfl
      · exact ih
    · split
      · rename_i e; simp [kvGet, e, Ne.symm h]
      · simp [kvGet, Ne.symm h]

theorem kvGet_del_same {α} (d : α) (k : Nat) (m : List (Nat × α)) : kvGet d k (kvDel k m) = d := by
  apply kvGet_absent; intro e he; have := List.of_mem_filter he; simpa using this

theorem kvGet_del_other {α} (d : α) (k j : Nat) (m : List (Nat × α)) (h : j ≠ k) : kvGet d j (kvDel k m) = kvGet d j m := by
  unfold kvDel
  induction m with
  | nil => rfl
  | cons x xs ih =>
    rw [List.filter_cons]
    split
    · unfold kvGet; split
      · rfl
      · exact ih
    · rename_i hx
      have hx' : x.1 = k := by simpa using hx
      conv => rhs; unfold kvGet
      rw [if_neg (by omega)]; exact ih

theorem kvGet_set_same {α} [DecidableEq α] (d v : α) (k : Nat) (m : List (Nat × α)) : kvGet d k (kvSet d k v m) = v := by
  unfold kvSet; split
  · rename_i e; rw [kvGet_del_same, e]
  · exact kvGet_put_same ..

theorem kvGet_set_other {α} [DecidableEq α] (d v : α) (k j : Nat) (m : List (Nat × α)) (h : j ≠ k) (d' : α) : kvGet d' j (kvSet d k v m) = kvGet d' j m := by
  unfold kvSet; split
  · exact kvGet_del_other _ _ _ _ h
  · exact kvGet_put_other _ _ _ _ _ h

theorem num_setNum_same (s : State) (i n : Nat) (v : Int) : (s.setNum i n v).num i n = v := by
  unfold State.num State.entry
  simp only [State.setNum, State.setEntry, kvGet_set_same]; rfl

theorem entry_setNum_other (s : State) (i n j m : Nat) (v : Int) (h : odKey j m ≠ odKey i n) : (s.setNum i n v).entry j m = s.entry j m := by
  unfold State.entry
  simp only [State.setNum, State.setEntry]
  exact kvGet_set_other _ _ _ _ _ h _

theorem num_setNum_other (s : State) (i n j m : Nat) (v : Int) (h : odKey j m ≠ odKey i n) : (s.setNum i n v).num j m = s.num j m := by
  unfold State.num; rw [entry_setNum_other _ _ _ _ _ _ h]

-- entries a raised code does not touch: only 0x2600:07 and 0x2600:08

theorem queueEmcy_entry (s : State) (m : Emcy) (i n : Nat) (h : i ≠ 0x2600) (hn : n < 256) : (s.queueEmcy m).1.entry i n = s.entry i n := by
  have step : ∀ (l : List (Fin 2)) (p : State × Nat), p.1.entry i n = s.entry i n →
      (l.foldl (fun (p : State × Nat) port =>
        let c := p.1.can[port]
        if !c.canEmcy then p
        else if c.emcy.length < 32 then (p.1.modCan port fun c => { c with emcy := c.emcy ++ [m] }, p.2)
        else (p.1.bump 0x2600 7, p.2 + 1)) p).1.entry i n = s.entry i n := by
    intro l
    induction l with
    | nil => exact fun p h => h
    | cons x xs ih =>
      intro p hp
      refine ih _ ?_
      dsimp only
      split
      · exact hp
      · split
        · exact hp
        · unfold State.bump State.bumpBy
          rw [entry_setNum_other _ _ _ _ _ _ (by unfold odKey; omega)]
          exact hp
  exact step _ (s, 0) rfl

theorem record_entry (s : State) (r) (i n : Nat) (h : i ≠ 0x2600) (hn : n < 256) : (s.record r).1.entry i n = s.entry i n := by
  unfold State.record
  dsimp only
  split
  · rw [queueEmcy_entry _ _ _ _ h hn, entry_setNum_other _ _ _ _ _ _ (by unfold odKey; omega)]; rfl
  · rw [entry_setNum_other _ _ _ _ _ _ (by unfold odKey; omega)]; rfl

theorem log_entry (s : State) (r) (i n : Nat) (h : i ≠ 0x2600) (hn : n < 256) : (s.log r).entry i n = s.entry i n := by
  have e := record_entry s r i n h hn
  unfold State.log
  split
  · rename_i x; rw [x] at e; exact e
  · rename_i x; rw [x] at e
    split
    · rw [record_entry _ _ _ _ h hn]; exact e
    · exact e

theorem raise_entry (s : State) (c d) (i n : Nat) (h : i ≠ 0x2600) (hn : n < 256) : (s.raise c d).entry i n = s.entry i n := log_entry _ _ _ _ h hn

theorem raise_num (s : State) (c d) (i n : Nat) (h : i ≠ 0x2600) (hn : n < 256) : (s.raise c d).num i n = s.num i n := by
  unfold State.num; rw [raise_entry _ _ _ _ _ h hn]

theorem modTick_num (s : State) (f i n) : (s.modTick f).num i n = s.num i n := rfl

theorem supplied_congr (w u : State) (k : IsleNo) (h : (w.isles[k]).ctx = (u.isles[k]).ctx) (ho : w.od = u.od) : w.supplied k = u.supplied k := by
  unfold State.supplied State.nat State.num State.entry
  rw [h, ho]

theorem modIsle_get (s : State) (k j : IsleNo) (f) : (s.modIsle k f).isles[j] = if j = k then f (s.isles[j]) else s.isles[j] := by
  simp only [State.modIsle, Fin.getElem_fin, Vector.getElem_set]
  by_cases h : j = k
  · subst h; simp
  · rw [if_neg (fun e => h (Fin.ext e.symm)), if_neg h]

theorem activity_each (v : State) (gs : List IsleNo) (hn : gs.Nodup) : ∀ (u : State), u.od = v.od → (∀ k : IsleNo, (u.isles[k]).ctx = (v.isles[k]).ctx) →
   ∀ k : IsleNo, ((u.each gs fun s k => s.modIsle k fun i => { i with activity := if i.activity < s.supplied k then i.activity + 1 else i.activity - 1 }).isles[k]).activity
     = if k ∈ gs then (if (u.isles[k]).activity < v.supplied k then (u.isles[k]).activity + 1 else (u.isles[k]).activity - 1) else (u.isles[k]).activity := by
  unfold State.each
  induction gs with
  | nil => intro u _ _ k; simp
  | cons x xs ih =>
    intro u ho hc k
    have hn' := List.nodup_cons.1 hn
    rw [List.foldl_cons, ih hn'.2]
    · rw [modIsle_get]
      have hs : u.supplied x = v.supplied x := supplied_congr _ _ _ (hc x) ho
      by_cases hk : k = x
      · subst hk
        simp only [hn'.1, if_false, if_true, List.mem_cons, true_or, hs]
      · simp only [hk, if_false, List.mem_cons, false_or]
    · exact ho
    · intro j; rw [modIsle_get]; split
      · exact hc j
      · exact hc j

theorem null_each (ks : List IsleNo) : ∀ (u : State),
   let t := u.each ks fun s k =>
    if s.supplied k < s.isles[k].activity then
      let (d, s) := s.draw
      s.modCnt k fun c => { c with nullCycles := c.nullCycles + BitVec.ofNat 64 (Config.nullCycles d) }
    else s
   t.od = u.od ∧ t.now = u.now ∧ ∀ k : IsleNo, (t.isles[k]).ctx = (u.isles[k]).ctx ∧ (t.isles[k]).activity = (u.isles[k]).activity := by
  unfold State.each
  induction ks with
  | nil => intro u; simp
  | cons x xs ih =>
    intro u
    simp only [List.foldl_cons]
    have h := ih (if u.supplied x < (u.isles[x]).activity then
      (u.draw.2.modCnt x fun c => { c with nullCycles := c.nullCycles + BitVec.ofNat 64 (Config.nullCycles u.draw.1) })
    else u)
    simp only at h
    have e : (if u.supplied x < (u.isles[x]).activity then
      (u.draw.2.modCnt x fun c => { c with nullCycles := c.nullCycles + BitVec.ofNat 64 (Config.nullCycles u.draw.1) })
      else u).od = u.od ∧ (if u.supplied x < (u.isles[x]).activity then
      (u.draw.2.modCnt x fun c => { c with nullCycles := c.nullCycles + BitVec.ofNat 64 (Config.nullCycles u.draw.1) })
      else u).now = u.now ∧ ∀ k : IsleNo, ((if u.supplied x < (u.isles[x]).activity then
      (u.draw.2.modCnt x fun c => { c with nullCycles := c.nullCycles + BitVec.ofNat 64 (Config.nullCycles u.draw.1) })
      else u).isles[k]).ctx = (u.isles[k]).ctx ∧ ((if u.supplied x < (u.isles[x]).activity then
      (u.draw.2.modCnt x fun c => { c with nullCycles := c.nullCycles + BitVec.ofNat 64 (Config.nullCycles u.draw.1) })
      else u).isles[k]).activity = (u.isles[k]).activity := by
      split
      · refine ⟨rfl, rfl, fun k => ?_⟩
        unfold State.modCnt
        rw [modIsle_get]
        split <;> exact ⟨rfl, rfl⟩
      · exact ⟨rfl, rfl, fun k => ⟨rfl, rfl⟩⟩
    exact ⟨h.1.trans e.1, h.2.1.trans e.2.1, fun k => ⟨(h.2.2 k).1.trans (e.2.2 k).1, (h.2.2 k).2.trans (e.2.2 k).2⟩⟩

theorem each_modIsle_now (gs : List IsleNo) (f : State → IsleNo → IsleState → IsleState) : ∀ u : State, (u.each gs fun s k => s.modIsle k (f s k)).now = u.now := by
  unfold State.each
  induction gs with
  | nil => intro u; rfl
  | cons x xs ih => intro u; rw [List.foldl_cons, ih]; rfl

theorem grants_nodup (v : State) : v.grants.Nodup := by
  have hb : (allIsles).Nodup := List.nodup_finRange 16
  unfold State.grants
  simp only
  split
  · exact hb.filter _
  · refine List.Nodup.sublist (List.take_sublist _ _) ?_
    rw [List.nodup_append, List.nodup_append]
    refine ⟨⟨hb.filter _, hb.filter _, ?_⟩, hb.filter _, ?_⟩
    · intro a ha b hb e
      subst e
      simp only [List.mem_filter] at ha hb
      have h2 := hb.2
      rw [ha.2] at h2
      simp at h2
    · intro a ha b hb e
      subst e
      simp only [List.mem_append, List.mem_filter] at ha hb
      rcases ha with ha | ha
      · have h2 := hb.2
        rw [ha.2] at h2
        simp at h2
      · have h1 := ha.2; have h2 := hb.2
        simp at h1 h2
        omega

theorem at_entry (s : State) (t i n) : (s.at_ t).entry i n = s.entry i n := by
  unfold State.entry; rw [State.at_od]

theorem at_slotNat (s : State) (t k n) : (s.at_ t).slotNat k n = s.slotNat k n := by
  unfold State.slotNat State.nat State.num; rw [at_entry]

theorem at_entryDue (s : State) (t k e) : (s.at_ t).entryDue k e = s.entryDue k e := by
  unfold State.entryDue; simp only [at_slotNat]

theorem at_forgetDue (s : State) (t k) : (s.at_ t).forgetDue k = s.forgetDue k := by
  unfold State.forgetDue; simp only [at_slotNat, State.at_slots]

structure SameForget (k : SlotNo) (s u : State) : Prop where
  la : (u.slots[k]).lastAccepted = (s.slots[k]).lastAccepted
  en : ∀ n, n = 0x0D ∨ n = 0x0C → u.entry (slotIndex k) n = s.entry (slotIndex k) n

theorem SameForget.trans {k} {s u v : State} (h : SameForget k s u) (g : SameForget k u v) : SameForget k s v :=
  ⟨g.la.trans h.la, fun n hn => (g.en n hn).trans (h.en n hn)⟩

theorem idx_ne (k : SlotNo) : slotIndex k ≠ 0x2600 := by unfold slotIndex; omega

theorem SameForget.raise (k) (s : State) (c d) : SameForget k s (s.raise c d) :=
  ⟨by simp, fun n hn => raise_entry _ _ _ _ _ (idx_ne k) (by omega)⟩

theorem SameForget.setNum (k) (s : State) (m v) (h : m = 0x1B ∨ m = 0x17) : SameForget k s (s.setNum (slotIndex k) m v) :=
  ⟨by simp, fun n hn => entry_setNum_other _ _ _ _ _ _ (by unfold odKey; omega)⟩

theorem SameForget.modSlot (k) (s : State) (f : Slot → Slot) (h : ∀ x, (f x).lastAccepted = x.lastAccepted) : SameForget k s (s.modSlot k f) :=
  ⟨by simp [h], fun n hn => rfl⟩

theorem SameForget.ringWrite (k) (s : State) (a b) : SameForget k s (s.ringWrite k a b).2 := by
  unfold State.ringWrite
  split
  · exact ⟨rfl, fun _ _ => rfl⟩
  · simp only
    split
    · exact .raise ..
    · refine ⟨by simp only [State.charge_slots, State.extWrite_slots], fun n _ => ?_⟩
      unfold State.entry; simp only [State.charge_od, State.extWrite_od]

theorem SameForget.noteRing (k) (s : State) : SameForget k s (s.noteRing k) := by
  unfold State.noteRing
  extract_lets lv m thr crossed s2
  have h2 : SameForget k s s2 := .modSlot k s _ (fun _ => rfl)
  clear_value s2
  split
  · exact h2.trans (.raise ..)
  · exact h2

theorem SameForget.modEntry (k) (s : State) (i f) : SameForget k s (s.modEntry k i f) := by
  unfold State.modEntry
  have h : SameForget k s ((s.modSlot k fun sl => { sl with entries := modAt sl.entries i f }).noteRing k) :=
    (SameForget.modSlot k s (fun sl => { sl with entries := modAt sl.entries i f }) (fun _ => rfl)).trans (.noteRing ..)
  extract_lets s1
  have h : SameForget k s s1 := h
  clear_value s1
  split
  · split
    · exact h
    · exact h.trans (.ringWrite ..)
  · exact h

theorem SameForget.noteClose (k) (s : State) (n st) : SameForget k s (s.noteClose k n st) := by
  unfold State.noteClose
  extract_lets s1 s2
  have h1 : SameForget k s s1 := .setNum k s 0x1B _ (.inl rfl)
  have h2 : SameForget k s1 s2 := by
    simp only [s2]
    split
    · exact ⟨rfl, fun _ _ => rfl⟩
    · exact .trans (.setNum k s1 0x17 _ (.inr rfl)) (.raise ..)
  have h := h1.trans h2
  clear_value s2
  split
  · exact h.trans (.raise ..)
  · exact h

theorem SameForget.forget {k} {s u : State} (h : SameForget k s u) : u.forgetDue k = s.forgetDue k := by
  unfold State.forgetDue State.slotNat State.nat State.num
  rw [h.la, h.en _ (.inl rfl), h.en _ (.inr rfl)]

theorem closeEntry_forget (s : State) (k i r t) : (s.closeEntry k i r t).forgetDue k = s.forgetDue k := by
  apply SameForget.forget
  unfold State.closeEntry
  split
  · exact ⟨rfl, fun _ _ => rfl⟩
  · split
    · exact ⟨rfl, fun _ _ => rfl⟩
    · extract_lets st s1 s2
      have h1 : SameForget k s s1 := .modEntry k s i _
      have h2 : SameForget k s1 s2 := by
        simp only [s2]
        split
        · exact .raise ..
        · exact ⟨rfl, fun _ _ => rfl⟩
      exact (h1.trans h2).trans (.noteClose ..)

theorem State.Admits.act {s : State} {w : Write} {i sub : Nat} {b : Bytes} {v : OdVal} (h : s.Admits w i sub b v) {act : Act} {n : Nat}
    {t : State} (ha : act w v (s.atWrite w) = (n, t)) :
    live s (s.odRun w i sub b act) = .next (t.answerTo w.req n) := by
  have hp := h.passes
  unfold State.atWrite at hp ha
  simp only [live, h.running, State.odRun, h.arrives, h.unheld, hp, ha]
  rfl

theorem guarded_ok {ok : Write → OdVal → State → Bool} {a : Act} {w : Write} {v : OdVal} {s : State} (h : ok w v s = true) :
    guarded ok a w v s = a w v s := by simp [guarded, h]

theorem guarded_no {ok : Write → OdVal → State → Bool} {a : Act} {w : Write} {v : OdVal} {s : State} (h : ok w v s = false) :
    guarded ok a w v s = (0x06090030, s) := by simp [guarded, h]

theorem live_load (s : State) (img x) : live s x = live (s.loadPlan img) x ∨ s.power.tripped = true := by
  cases h : s.power.tripped
  · left
    have : (s.loadPlan img).power.tripped = false := by unfold State.loadPlan; split <;> exact h
    rw [live_of_running h, live_of_running this]
  · right; rfl

theorem load_trip (s : State) (img) : (s.loadPlan img).power.tripped = s.power.tripped := by
  unfold State.loadPlan; split <;> rfl

def aPlan (k : SlotNo) (sub : Nat) (v : OdVal) (t : State) : Nat := if sub = 0x49 then v.int.toNat else (t.coming (slotIndex k) 0x49).toNat

def aSrc (k : SlotNo) (sub : Nat) (v : OdVal) (t : State) : SlotNo :=
  Fin.ofNat 48 (if sub = 0x4A then v.int.toNat else (t.coming (slotIndex k) 0x4A).toNat)

theorem analysis_eq (k sub w v) (t : State) : analysisAct k sub w v t = (if aPlan k sub v t = 0 then (0, t.storeEntry (slotIndex k) sub v)
  else match t.analysisOf (aPlan k sub v t) with
      | none => t.refusePlan k 0x3E03
      | some img => match t.analysisCheck k (aSrc k sub v t) img.body with
        | some c => t.refusePlan k c
        | none => (0, t.storeEntry (slotIndex k) sub v)) := by
  unfold analysisAct aPlan aSrc; rfl

theorem analysis_none (k sub w v) (t : State) (h : aPlan k sub v t = 0) : analysisAct k sub w v t = (0, t.storeEntry (slotIndex k) sub v) := by
  rw [analysis_eq, if_pos h]

theorem analysis_gone (k sub w v) (t : State) (h : aPlan k sub v t ≠ 0) (h2 : t.analysisOf (aPlan k sub v t) = none) :
    analysisAct k sub w v t = (0x06090030, t.raise 0x3E03 { slot := k }) := by
  rw [analysis_eq, if_neg h, h2]; rfl

theorem analysis_ok (k sub w v) (t : State) (p) (h : aPlan k sub v t ≠ 0) (h2 : t.analysisOf (aPlan k sub v t) = some p)
   (h3 : t.analysisCheck k (aSrc k sub v t) p.body = none) :
    analysisAct k sub w v t = (0, t.storeEntry (slotIndex k) sub v) := by
  rw [analysis_eq, if_neg h, h2]; simp only [h3]

theorem analysis_bad (k sub w v) (t : State) (p c) (h : aPlan k sub v t ≠ 0) (h2 : t.analysisOf (aPlan k sub v t) = some p)
   (h3 : t.analysisCheck k (aSrc k sub v t) p.body = some c) :
    analysisAct k sub w v t = (0x06090030, t.raise c { slot := k }) := by
  rw [analysis_eq, if_neg h, h2]; simp only [h3]; rfl

theorem acquire_resync (t : State) : (t.acquire.modTick fun x => { x with resync := true }) =
  t.modTick fun x => { x with sync := .acquiring, edges := 0, lost := 0, resync := true } := rfl

theorem entry_setEntry_same (s : State) (i n : Nat) (v : OdVal) : (s.setEntry i n v).entry i n = v := by
  unfold State.entry
  simp only [State.setEntry, kvGet_set_same]

theorem entry_setEntry_other (s : State) (i n j m : Nat) (v : OdVal) (h : odKey j m ≠ odKey i n) : (s.setEntry i n v).entry j m = s.entry j m := by
  unfold State.entry
  simp only [State.setEntry]
  exact kvGet_set_other _ _ _ _ _ h _

theorem key_div (i sub : Nat) (h : sub < 256) : odKey i sub / 256 = i ∧ odKey i sub % 256 = sub := by
  unfold odKey; omega

theorem each_set_other (l : List (Nat × OdVal)) (i sub : Nat) (hp : ∀ e ∈ l, e.1 ≠ odKey i sub) :
   ∀ s : State, (s.each l fun s e => s.setEntry (e.1 / 256) (e.1 % 256) e.2).entry i sub = s.entry i sub := by
  induction l with
  | nil => intro s; rfl
  | cons x xs ih =>
    intro s
    rw [State.each, List.foldl_cons]
    refine (ih (fun e he => hp e (by simp [he])) _).trans ?_
    have := hp x (by simp)
    refine entry_setEntry_other _ _ _ _ _ _ ?_
    unfold odKey at *; omega

theorem activate_key (l : List (Nat × OdVal)) (i sub : Nat) (v : OdVal) (hm : (odKey i sub, v) ∈ l) (hp : l.Pairwise (·.1 ≠ ·.1)) (hs : sub < 256) :
   ∀ s : State, (s.each l fun s e => s.setEntry (e.1 / 256) (e.1 % 256) e.2).entry i sub = v := by
  induction l with
  | nil => simp at hm
  | cons x xs ih =>
    intro s
    rw [State.each, List.foldl_cons]
    have hp' := List.pairwise_cons.1 hp
    rcases List.mem_cons.1 hm with rfl | hm
    · refine (each_set_other xs i sub (fun e he => (hp'.1 e he).symm) _).trans ?_
      simp only [(key_div i sub hs).1, (key_div i sub hs).2]
      exact entry_setEntry_same ..
    · exact ih hm hp'.2 _

theorem each_pendE (l : List (Nat × OdVal)) : ∀ s : State, (s.each l fun s e => s.setEntry (e.1 / 256) (e.1 % 256) e.2).od.pendE = s.od.pendE := by
  induction l with
  | nil => intro s; rfl
  | cons x xs ih => intro s; rw [State.each, List.foldl_cons]; exact (ih _).trans rfl

theorem State.ringWrite_tick (s : State) (k a b) : (s.ringWrite k a b).2.tick = s.tick := by
  unfold State.ringWrite
  split
  · rfl
  · simp only; split <;> simp

theorem State.noteRing_tick (s : State) (k) : (s.noteRing k).tick = s.tick := by
  unfold State.noteRing
  extract_lets lv m thr crossed s2
  have h : s2.tick = s.tick := rfl
  clear_value s2
  split
  · exact (State.raise_tick ..).trans h
  · exact h

theorem State.modEntry_tick (s : State) (k i f) : (s.modEntry k i f).tick = s.tick := by
  unfold State.modEntry
  extract_lets s1
  have h : s1.tick = s.tick := (State.noteRing_tick ..).trans rfl
  clear_value s1
  split
  · split
    · exact h
    · exact (State.ringWrite_tick ..).trans h
  · exact h

theorem State.noteClose_tick (s : State) (k n st) : (s.noteClose k n st).tick = s.tick := by
  unfold State.noteClose
  extract_lets s1 s2
  have h1 : s1.tick = s.tick := rfl
  have h2 : s2.tick = s1.tick := by
    simp only [s2]; split
    · rfl
    · exact (State.raise_tick ..).trans rfl
  clear_value s2 s1
  split
  · exact (State.raise_tick ..).trans (h2.trans h1)
  · exact h2.trans h1

theorem State.closeEntry_tick (s : State) (k i r t) : (s.closeEntry k i r t).tick = s.tick := by
  unfold State.closeEntry
  split
  · rfl
  · split
    · rfl
    · extract_lets st s1 s2
      have h1 : s1.tick = s.tick := State.modEntry_tick ..
      have h2 : s2.tick = s1.tick := by
        simp only [s2]; split
        · exact State.raise_tick ..
        · rfl
      exact (State.noteClose_tick ..).trans (h2.trans h1)

theorem State.each_tick {α} (l : List α) (f : State → α → State) (h : ∀ s x, (f s x).tick = s.tick) : ∀ s : State, (s.each l f).tick = s.tick := by
  induction l with
  | nil => intro s; rfl
  | cons x xs ih => intro s; rw [State.each, List.foldl_cons]; exact (ih _).trans (h ..)

theorem State.settleRing_tick (s : State) (k t) : (s.settleRing k t).tick = s.tick := by
  unfold State.settleRing
  split
  · rfl
  · extract_lets s1
    have h : s1.tick = s.tick := State.each_tick _ _ (fun s x => by dsimp only; split; exact State.closeEntry_tick ..; rfl) s
    clear_value s1
    split
    · split
      · exact h
      · exact h
    · exact h

theorem State.closeWindow_next (s : State) : s.closeWindow.tick.next = s.tick.next ∧ s.closeWindow.tick.load = s.tick.load
    ∧ s.closeWindow.slots = s.slots := by
  unfold State.closeWindow
  split
  · simp
  · extract_lets lost s0 s1
    have h : s1.tick.next = s.tick.next ∧ s1.tick.load = s.tick.load ∧ s1.slots = s.slots := by
      simp only [s1]; split
      · simp
      · simp only [s0]; split <;> simp
    clear_value s1
    exact h

theorem State.closePast_next (s : State) (t) : (s.closePast t).tick.next = s.tick.next ∧ (s.closePast t).tick.load = s.tick.load
    ∧ (s.closePast t).slots = s.slots := by
  unfold State.closePast
  split
  · split
    · exact s.closeWindow_next
    · simp
  · simp

theorem State.modSys_entry (s : State) (f i n) : (s.modSys f).entry i n = s.entry i n := rfl

theorem State.modTick_entry (s : State) (f i n) : (s.modTick f).entry i n = s.entry i n := rfl

theorem State.acquire_entry (s : State) (i n) : s.acquire.entry i n = s.entry i n := rfl

theorem State.settleSync_entry (s : State) (i n) (h : i ≠ 0x2100) (hn : n < 256) : s.settleSync.entry i n = s.entry i n := by
  unfold State.settleSync
  extract_lets src s1
  have h1 : s1.entry i n = s.entry i n := entry_setNum_other _ _ _ _ _ _ (by unfold odKey; omega)
  clear_value s1 src
  split
  · exact h1
  · split <;> exact h1

theorem State.settleSync_sys (s : State) : s.settleSync.sys = s.sys := by
  unfold State.settleSync
  extract_lets src s1
  have h1 : s1.sys = s.sys := rfl
  clear_value s1 src
  split
  · exact h1
  · split <;> exact h1

end Sys2Proof.Machine
end

