-- ==== Sys2Proof/WellFormed.lean ====
section
/-! DEFINITION. Which commands a sender can give: the checks on operands that their types do not make. A meaning is total all
the same, and the step checks nothing (DESIGN CHOICE, log entry 1). -/

namespace Sys2Proof

/-- A scratchpad upset names a word of the isle (R257); every bit flips once. -/
def Upset.wellFormed (u : Upset) : Bool := u.word < 786432 && u.bits.dedup.length == u.bits.length

/-- An upset of external memory names a 32-byte atom of at most 32 GiB (R366, R368). -/
def MemUpset.wellFormed (u : MemUpset) : Bool := u.atom < 2 ^ 30

/-- The upsets a command meets. -/
def Upsets.wellFormed (us : Upsets) : Bool := us.sp.all (·.wellFormed) && us.mem.all (·.wellFormed)

/-- An address: 16 bytes, an IPv4 address in its mapped form. -/
def addrOk (b : Bytes) : Bool := b.length == 16

/-- A link address. -/
def macOk (b : Bytes) : Bool := b.length == 6

/-- A neighbour-discovery message carries whole addresses. -/
def NdMessage.wellFormed : NdMessage → Bool
  | .solicit t s m => addrOk t && addrOk s && macOk m
  | .advertise t m => addrOk t && macOk m
  | .other => true

/-- The layers of a tick programme name rows of a scratchpad and a grid of 20-bit tile indices (R257, R297). -/
def LayerPlan.wellFormed (l : LayerPlan) : Bool :=
  1 ≤ l.cols && l.cols ≤ 4096 && 1 ≤ l.rows && l.rows ≤ 4096 && l.isleMask < 2 ^ 16
    && l.weightRows.all fun r => r.1 ≤ r.2 && r.2 < 12288

/-- An isle's engine has channels 0 to 7 (R318). -/
def Engine.hasChannel : Engine → ChanNo → Bool
  | .isle _, c => c < 8
  | .device, _ => true

/-- Whether a command's operands are such as a sender can give. -/
def Instr.wellFormed : Instr → Bool
  | .tickBoundary prog => prog.all fun p => p.layers.all (·.wellFormed)
  | .stripeDatagram _ _ src _ => addrOk src
  | .nop _ _ us => us.wellFormed
  | .claim _ _ us => us.wellFormed
  | .blockEnd _ _ us => us.wellFormed
  | .fence _ _ us => us.wellFormed
  | .wait _ _ us => us.wellFormed
  | .setix _ _ us => us.wellFormed
  | .halt _ _ us => us.wellFormed
  | .setseed _ _ us => us.wellFormed
  | .conv _ _ _ us => us.wellFormed
  | .convBwd _ _ _ us => us.wellFormed
  | .wgrad _ _ _ us => us.wellFormed
  | .skConv _ _ _ us => us.wellFormed
  | .skConvBwd _ _ _ us => us.wellFormed
  | .vecEltAdd _ _ _ us => us.wellFormed
  | .vecEltSub _ _ _ us => us.wellFormed
  | .vecEltMul _ _ _ us => us.wellFormed
  | .vecEltMax _ _ _ us => us.wellFormed
  | .vecEltMin _ _ _ us => us.wellFormed
  | .vecEltRequant _ _ _ us => us.wellFormed
  | .vecEltAbsdiff _ _ _ us => us.wellFormed
  | .vecEltCopy _ _ _ us => us.wellFormed
  | .vecLut8 _ _ _ us => us.wellFormed
  | .vecLut16 _ _ _ us => us.wellFormed
  | .vecPoolMax _ _ _ us => us.wellFormed
  | .vecPoolAvg _ _ _ us => us.wellFormed
  | .vecResampleNearest _ _ _ us => us.wellFormed
  | .vecResampleBilinear _ _ _ us => us.wellFormed
  | .vecRotateForward _ _ _ us => us.wellFormed
  | .vecRotateInverse _ _ _ us => us.wellFormed
  | .vecReduceSum _ _ _ us => us.wellFormed
  | .vecReduceSumsq _ _ _ us => us.wellFormed
  | .vecOptimMoment1 _ _ _ us => us.wellFormed
  | .vecOptimMoment2 _ _ _ us => us.wellFormed
  | .vecOptimMaster _ _ _ us => us.wellFormed
  | .vecBoxdecIntake _ _ _ us => us.wellFormed
  | .vecBoxdecSuppress _ _ _ us => us.wellFormed
  | .vecArgmax _ _ _ us => us.wellFormed
  | .opPush _ _ op => op.length == 64
  | .counterRequeue _ index => index < 2 ^ 20
  | .scrubRow _ us => us.wellFormed
  | .scrubDeadline _ us => us.wellFormed
  | .straitWriteArrival _ _ us => us.wellFormed
  | .dmaShadowWrite e c b => b.length == 64 && e.hasChannel c
  | .dmaEnable e c _ _ => e.hasChannel c
  | .dmaTransferStart _ us => us.wellFormed
  | .dmaArrival e c => e.hasChannel c
  | .dmaPause e c => e.hasChannel c
  | .dmaPaused e c _ => e.hasChannel c
  | .dmaResume e c => e.hasChannel c
  | .dmaAbort e c => e.hasChannel c
  | .dmaReset e c => e.hasChannel c
  | .dmaWaitLimit e c => e.hasChannel c
  | .windowWrite _ _ b _ => b.length == 32
  | .codecWindowWrite _ b => b.length == 32
  | .memPatrol us => us.wellFormed
  | .beacon _ _ src _ => addrOk src
  | .join _ _ src _ => addrOk src
  | .joinAccept _ _ src _ => addrOk src
  | .digest _ _ src _ => addrOk src
  | .data _ _ src _ => addrOk src
  | .ack _ _ src _ => addrOk src
  | .flowReset _ _ src _ => addrOk src
  | .relayRequest _ _ src _ _ => addrOk src
  | .relayResponse _ _ src _ => addrOk src
  | .arpRequest _ mac sender target => macOk mac && addrOk sender && addrOk target
  | .ndMessage _ m => m.wellFormed
  | .icmpEchoRequest _ dst src _ => addrOk dst && addrOk src
  | .multicastQuery _ _ group => addrOk group
  | .stopCommand _ _ src _ _ => addrOk src
  | .releaseCommand _ _ src _ _ => addrOk src
  | .ptpEventMessage _ _ _ peer _ => addrOk peer
  | .activationCoreSwitch _ r _ => r.length ≤ 262144
  | .schedulerCoreSwitch _ r _ => r.length ≤ 262144
  | .weightsReloaded _ _ _ d => d.length == 2048
  | .stageStripeComplete _ _ _ _ _ us => us.wellFormed
  | .arpReply _ mac sender => macOk mac && addrOk sender
  | .staggerSlotOpen .. | .slewGovernorWindow | .tickOutPulse | .tickinEdge .. | .tickinWindowClose | .resyncCommand ..
  | .borrowDeadline .. | .frameDone .. | .camFvRise .. | .camFvFall .. | .inlineLine .. | .inlineClockLoss ..
  | .inlineStuck .. | .inlineLineGap .. | .brokenRearm .. | .reorderGraceExpiry .. | .silenceTimeoutExpiry ..
  | .streamForget .. | .frontStripe .. | .frontImageWrite .. | .defectListWrite .. | .loadDefaults .. | .planWrite ..
  | .analysisPlanWrite .. | .epochApply | .stageStripeStart .. | .forceWarming .. | .isleUnfenced ..
  | .formatterStripe .. | .analysisStart .. | .resultTransmit .. | .tileOpResume .. | .contextWaitLimit ..
  | .contextEnable .. | .contextStop .. | .contextReset .. | .counterConfigWrite .. | .counterOpen .. | .counterArm ..
  | .counterClose .. | .counterReset .. | .counterArmedOpen .. | .spAttrWrite .. | .spFormatComplete ..
  | .atollEnable .. | .atollDisable .. | .remoteLink .. | .linkAnswer .. | .remoteUnlink .. | .straitReadRequest ..
  | .slotCreditReturn .. | .wakeNotice .. | .remoteRetry .. | .dmaTransferComplete .. | .sampleCapture ..
  | .adaptStepStart .. | .adaptStepCommit .. | .adaptResetCommand .. | .managerElection | .beaconTransmit
  | .beaconWindowExpiry | .managerTakeover | .isolated | .memberLost .. | .digestSend | .digestCompare
  | .epochSchedule .. | .epochCancel .. | .streamPlacement | .epochReadinessClose | .rereadMember .. | .ackPeriodic ..
  | .causewayRetransmit .. | .flowResetSend .. | .relayTimeout .. | .ethLinkUp .. | .ethLinkDown ..
  | .ethUnsupportedFrame .. | .pfcFrame .. | .pfcRefresh .. | .pfcWatchdog .. | .stopHoldExpiry .. | .ptpHoldover
  | .odEntryWrite .. | .nmtStart .. | .nmtStop .. | .nmtEnterPreoperational .. | .nmtResetCommunication ..
  | .heartbeatProduce .. | .heartbeatReceive .. | .heartbeatLapse .. | .canBusOff .. | .canErrorPassive ..
  | .usdoForeignClient .. | .supervisorVersionWrite .. | .startService .. | .storeParameters .. | .restoreDefaults ..
  | .semaphoreClaim .. | .semaphoreRelease .. | .semaphoreRenew .. | .leaseExpiry .. | .tokenRateLimitEnd ..
  | .deviceReset .. | .stageFromSd .. | .stagingComplete .. | .sdCardRemoved .. | .activate .. | .activationResume
  | .confirm .. | .autoConfirm | .revert .. | .fenceCommand .. | .isleHang .. | .fenceComplete .. | .unfenceCommand ..
  | .clearRingNotice .. | .emcyTransmit .. | .eventLogPoll .. | .createOwner .. | .keyLoad ..
  | .ownerLockSet .. | .ownerLockClear .. | .killJob .. | .scrubComplete .. | .scrubOverdue .. | .ledgerSample ..
  | .intervalClosed .. | .powerGood .. | .pfwAsserted .. | .pfwDeasserted .. | .thermAsserted .. | .thermDeasserted ..
  | .thermalSample .. | .thermalLimitStep .. | .isleThermal .. | .railMonitorSample .. | .atollNoticeClear ..
  | .canErrorActive .. | .relayLeaseRenewal .. | .jtagInstruction .. => true

end Sys2Proof
end

