-- ==== Sys2Proof/Tests/Slice0.lean ====
section
/-! SUPPORT. The model's own tests: the checks of WellFormed refuse an ill-formed command each, and every statement of the
certificate that has hypotheses is met by a concrete state. -/

open Sys2Proof Sys2Proof.Machine

/-! ### WellFormed: one ill-formed command for each check -/

/-- A scratchpad word beyond the isle (R257) is refused. -/
theorem test_wf_upset_word : Instr.wellFormed (.nop 0 0 ⟨[⟨0, 786432, [0]⟩], [], false⟩) = false := by decide
/-- A bit that flips twice is refused. -/
theorem test_wf_upset_bits : Instr.wellFormed (.scrubRow 0 ⟨[⟨0, 0, [3, 3]⟩], [], false⟩) = false := by decide
/-- An atom beyond 32 GiB is refused (R366). -/
theorem test_wf_upset_atom : Instr.wellFormed (.memPatrol ⟨[], [⟨2 ^ 30, false⟩], false⟩) = false := by decide
/-- A sender address that is not 16 bytes is refused. -/
theorem test_wf_address : Instr.wellFormed (.stripeDatagram 0 0 [10, 0, 0, 1] []) = false := by decide
/-- A link address that is not 6 bytes is refused. -/
theorem test_wf_mac : Instr.wellFormed (.arpReply 0 [1, 2, 3] (zeros 16)) = false := by decide
/-- A solicitation with a short target is refused. -/
theorem test_wf_nd : Instr.wellFormed (.ndMessage 0 (.solicit [] (zeros 16) (zeros 6))) = false := by decide
/-- A layer with an empty grid is refused. -/
theorem test_wf_layer : Instr.wellFormed (.tickBoundary (some ⟨[⟨1, 0, 0, 0, 0, 1, 0, 0, 0, false, 0, none, 0, 0, false, false, 0, 0, []⟩]⟩))
    = false := by decide
/-- A push of anything but 64 bytes is refused (R187). -/
theorem test_wf_push : Instr.wellFormed (.opPush 0 0 (zeros 63)) = false := by decide
/-- An index beyond 20 bits is refused (R304). -/
theorem test_wf_index : Instr.wellFormed (.counterRequeue 0 (2 ^ 20)) = false := by decide
/-- A channel an isle's engine does not have is refused (R318). -/
theorem test_wf_channel : Instr.wellFormed (.dmaReset (.isle 0) 8) = false := by decide
/-- A descriptor that is not 64 bytes is refused (R319). -/
theorem test_wf_shadow : Instr.wellFormed (.dmaShadowWrite .device 0 (zeros 32)) = false := by decide
/-- A window that is not 32 bytes is refused (R335). -/
theorem test_wf_window : Instr.wellFormed (.windowWrite 0 0 (zeros 31) true) = false := by decide
/-- A codec window that is not 32 bytes is refused (R386). -/
theorem test_wf_codec : Instr.wellFormed (.codecWindowWrite 0 (zeros 33)) = false := by decide
/-- Reloaded weights that are not a row of 2,048 bytes are refused (R518). -/
theorem test_wf_weights : Instr.wellFormed (.weightsReloaded 0 0 0 (zeros 32)) = false := by decide
/-- The least well-formed command is accepted. -/
theorem test_wf_ok : Instr.wellFormed (.stripeDatagram 0 0 (zeros 16) []) = true := by decide

/-! ### Witnesses: a state that meets the hypotheses of each statement -/

namespace Sys2Proof.Tests

set_option Elab.async false

/-- An op of a code and a function, its other bytes given by position. -/
def opOf (code func : Nat) (f : Nat → Byte := fun _ => 0) : Bytes :=
  (List.range 64).map fun i => if i = 0 then 0x10 else if i = 1 then byte code else if i = 52 ∧ 0x60 ≤ code then byte func else f i

/-- The device after reset with ops in the queue of context 0 of isle 0, which is ready. -/
def withOps (ops : List Bytes) (f : Context → Context := id) : State :=
  State.reset.modCtx 0 0 fun x => f { x with enable := true, phase := .ready, queue := ops.map (⟨·⟩), opqCap := 16 }

/-- No upset. -/
def calm : Upsets := ⟨[], [], false⟩

/-- Whether the op at the head of context 0 of isle 0 issues as a row's. -/
def issuesAs (s : State) (key : Nat × Nat) (check : Bytes → State → Option Nat) (op : Bytes) : Bool :=
  !s.power.tripped && s.headFor 0 0 key == some ⟨op⟩ && (s.applyUpsets []).headFault 0 0 op check == none
    && (s.passed 0 0 calm).mayRun 0 0 && !((s.issued 0 0 calm).ctx 0 0).sending

/-- What the check of `issuesAs` means. -/
theorem issues_of {s : State} {key : Nat × Nat} {check : Bytes → State → Option Nat} {op : Bytes} (h : issuesAs s key check op = true) :
    s.Issues 0 0 key calm check op := by
  simp only [issuesAs, Bool.and_eq_true, Bool.not_eq_true', beq_iff_eq] at h
  exact ⟨h.1.1.1.1, h.1.1.1.2, rfl, h.1.1.2, h.1.2, h.2⟩

theorem witness_SimpleControlOpsRetire :
    (withOps [opOf 1 0]).Issues 0 0 (1, 0) calm noCheck (opOf 1 0) ∧ (withOps [opOf 6 0]).Issues 0 0 (6, 0) calm noCheck (opOf 6 0)
      ∧ (withOps [opOf 6 0 fun i => if i = 8 then 4 else 0]).Issues 0 0 (6, 0) calm noCheck (opOf 6 0 fun i => if i = 8 then 4 else 0)
      ∧ (withOps [opOf 7 0]).Issues 0 0 (7, 0) calm noCheck (opOf 7 0) ∧ (withOps [opOf 8 0]).Issues 0 0 (8, 0) calm noCheck (opOf 8 0) :=
  ⟨issues_of (by decide +kernel), issues_of (by decide +kernel), issues_of (by decide +kernel), issues_of (by decide +kernel),
    issues_of (by decide +kernel)⟩

/-- A CLAIM of counter 0 whose block is the CLAIM and a BLOCK_END, the counter being open. -/
def claimOp : Bytes := opOf 2 0 fun i => if i = 10 then 2 else 0
def claiming : State :=
  (withOps [claimOp, opOf 3 0]).modCounter 0 fun t => { t with phase := .open_, gridCols := 1, gridRows := 1, isleMask := 0xFFFF }
def fencing : State := withOps [opOf 4 0]
/-- A WAIT on the first word of an atoll of one slot, which is full. -/
def waiting : State :=
  (withOps [opOf 5 0]).modAtoll 0 0 fun a => { a with enable := true, slotWordsM1 := 7, slotCount := 1, readers := 1, full := [0] }

theorem witness_BlockAndWaitOpsComplete_claim :
    claiming.Issues 0 0 (2, 0) calm noCheck claimOp
      ∧ (let t := claiming.issued 0 0 calm
         let x := t.ctx 0 0
         x.block = none ∧ x.phase ≠ .releasing ∧ claimLen claimOp ≤ x.queue.length ∧ blockMalformed x.queue (claimLen claimOp) = false
           ∧ ((t.counters[claimCounter claimOp]).claim 0 0 x.owner).1 = .index 0) :=
  ⟨issues_of (by decide +kernel), by decide +kernel⟩
theorem witness_BlockAndWaitOpsComplete_blockEnd :
    let s := withOps [claimOp, opOf 3 0] fun x => { x with pos := 1, block := some ⟨0, 0, false, false, 2, 0, 0, false, none⟩ }
    s.Issues 0 0 (3, 0) calm noCheck (opOf 3 0)
      ∧ (((s.issued 0 0 calm).ctx 0 0).block.isSome ∧ ((s.issued 0 0 calm).ctx 0 0).stopping = false) :=
  ⟨issues_of (by decide +kernel), by decide +kernel⟩
theorem witness_BlockAndWaitOpsComplete_fence :
    fencing.Issues 0 0 (4, 0) calm (State.fenceCheck 0 0) (opOf 4 0)
      ∧ (let t := fencing.issued 0 0 calm
         let x := t.ctx 0 0
         bitOf (byteAt (opOf 4 0) 8) 1 = false ∧ x.phase ≠ .releasing ∧ x.fenceGoal = none ∧ x.signalled = false ∧ x.unsent = []
           ∧ t.fenceMet 0 0 (opOf 4 0) (t.fenceGoals 0 (byteAt (opOf 4 0) 9)) = true) :=
  ⟨issues_of (by decide +kernel), by decide +kernel⟩
theorem witness_BlockAndWaitOpsComplete_wait :
    let s := { waiting with windows := waiting.windows.set 0 ((waiting.windows[(0 : OwnerNo)]).set 0
      { space := 2, base := 0, limit := 63, read := true, write := true }) }
    s.Issues 0 0 (5, 0) calm (State.waitCheck 0 0) (opOf 5 0)
      ∧ (let t := s.issued 0 0 calm
         (t.ctx 0 0).phase ≠ .releasing ∧ t.slotAt (t.target 0 0 (opOf 5 0) 8) = some (0, 0)
           ∧ ((t.isles[(t.target 0 0 (opOf 5 0) 8).1]).atolls[(0 : AtollNo)]).full.contains 0 = true) :=
  ⟨issues_of (by decide +kernel), by decide +kernel⟩

/-- A post-processing or data op without lines to work on, which has passed its checks. -/
def checkedOps (op : Bytes) : State := withOps [op] fun x => { x with checked := true }

theorem witness_DataOpsPerform :
    let s := checkedOps (opOf 0x60 8)
    s.Issues 0 0 (0x60, 8) calm (fun op t => t.dataCheck 0 0 op eltWork) (opOf 0x60 8)
      ∧ (s.issued 0 0 calm).Proceeds 0 0 (opOf 0x60 8) eltWork :=
  ⟨issues_of (by decide +kernel), ⟨.inr (by decide +kernel), .inr (by decide +kernel)⟩⟩
theorem witness_PostProcessorsPerform_intake :
    let s := checkedOps (opOf 0x67 1)
    s.Issues 0 0 (0x67, 1) calm (fun op t => t.dataCheck 0 0 op intakeWork) (opOf 0x67 1)
      ∧ (s.issued 0 0 calm).Proceeds 0 0 (opOf 0x67 1) intakeWork :=
  ⟨issues_of (by decide +kernel), ⟨.inr (by decide +kernel), .inr (by decide +kernel)⟩⟩
theorem witness_PostProcessorsPerform_suppress :
    let s := checkedOps (opOf 0x67 2)
    s.Issues 0 0 (0x67, 2) calm (fun op t => t.dataCheck 0 0 op (t.suppressOf (s.ctx 0 0).serves).1) (opOf 0x67 2)
      ∧ (s.issued 0 0 calm).Proceeds 0 0 (opOf 0x67 2) ((s.issued 0 0 calm).suppressOf (s.ctx 0 0).serves).1 :=
  ⟨issues_of (by decide +kernel), ⟨.inr (by decide +kernel), .inr (by decide +kernel)⟩⟩
theorem witness_PostProcessorsPerform_argmax :
    let s := checkedOps (opOf 0x68 1)
    s.Issues 0 0 (0x68, 1) calm (fun op t => t.dataCheck 0 0 op argmaxWork) (opOf 0x68 1)
      ∧ (s.issued 0 0 calm).Proceeds 0 0 (opOf 0x68 1) argmaxWork :=
  ⟨issues_of (by decide +kernel), ⟨.inr (by decide +kernel), .inr (by decide +kernel)⟩⟩

/-- The device after reset: the base of what follows. -/
def r0 : State := State.reset
theorem r0_runs : r0.power.tripped = false := rfl

theorem witness_ContextCommandsComplete :
    ((r0.ctx 0 0).enable = false ∧ (r0.ctx 0 0).phase = .idle ∧ (r0.isles[(0 : IsleNo)]).health.phase = .available
        ∧ (0x400040 : BitVec 32).toNat.testBit 6 = true ∧ r0.placementBad 0 0 (bitsOf 0x400040 9 9) (bitsOf 0x400040 18 10) = false)
      ∧ (r0.ctx 0 0).suspended = false ∧ (∀ n : CounterNo, (0, 0) ∉ (r0.counters[n]).claims)
      ∧ (let s := r0.modCtx 0 0 fun x => { x with phase := .running }
         (s.ctx 0 0).phase = .running ∧ ∀ n : CounterNo, (0, 0) ∉ (s.counters[n]).claims)
      ∧ (let s := r0.modCtx 0 0 fun x => { x with opqCap := 16 }
         (zeros 64).length = 64 ∧ (s.ctx 0 0).queue.length < (s.ctx 0 0).opqCap) := by decide +kernel
theorem witness_WaitingContextsResumeOrFault :
    let s := r0.modCtx 0 0 fun x => { x with phase := .waiting }
    (s.ctx 0 0).phase = .waiting ∧ (s.at_ 0).nat 0x2700 1 = 0 ∧ ((s.at_ 0).ctx 0 0).sending = false
      ∧ (s.at_ 0).causeCleared 0 0 = true := by decide +kernel

/-- Counter 0 in a phase. -/
def counterIn (p : CounterPhase) : State := r0.modCounter 0 fun t => { t with phase := p }
theorem witness_TileCountersTakeTheirCommands :
    ((r0.counters[(0 : CounterNo)]).phase = .idle ∧ ((r0.counters[(0 : CounterNo)]).written 0 1).isSome
        ∧ (r0.counters[(0 : CounterNo)]).total ≤ (r0.counters[(0 : CounterNo)]).limit ∧ (r0.counters[(0 : CounterNo)]).claims = [])
      ∧ (let s := (counterIn .armed).modCounter 1 fun t => { t with phase := .exhausted }
         let s := s.modCounter 0 fun t => { t with predecessor := 1 }
         (s.counters[(0 : CounterNo)]).phase = .armed ∧ (s.counters[(1 : CounterNo)]).complete = true)
      ∧ ((counterIn .exhausted).counters[(0 : CounterNo)]).phase = .exhausted
      ∧ (let s := (counterIn .open_).modCounter 0 fun t => { t with requeueOk := true, handed := [⟨3, 0, 0, false⟩] }
         let t := s.counters[(0 : CounterNo)]
         t.phase = .open_ ∧ t.requeueOk = true ∧ (∃ h ∈ t.handed, h.index = 3 ∧ h.reported = false) ∧ 3 ∉ t.requeued
           ∧ t.requeued.length < 64)
      ∧ ((counterIn .open_).counters[(0 : CounterNo)]).phase ≠ .idle ∧ 4096 < bitsOf (4097 : BitVec 32).toNat 0 13
      ∧ (bitsOf (1 : BitVec 32).toNat 3 5 = 0 ∧ bitsOf (1 : BitVec 32).toNat 28 4 = 0 ∧ bitsOf (1 : BitVec 32).toNat 0 3 = 1) := by
  decide +kernel

theorem witness_ScratchpadsAreFormattedAndScrubbed :
    (let v : Nat := 0
     (attrOf v).baseRow + (attrOf v).rows ≤ 12288 ∧ attrReserved 0 v = false
      ∧ attrsOverlap ((r0.isles[(0 : IsleNo)]).sp.attributes.write 0 v).entries = false ∧ r0.isleBusy 0 = false)
    ∧ ((r0.isles[(0 : IsleNo)]).sp.strongFrom (r0.isles[(0 : IsleNo)]).sp.scrubRow).or ((r0.isles[(0 : IsleNo)]).sp.strongFrom 0) = some 0
    ∧ (r0.isles[(0 : IsleNo)]).health.phase ≠ .fenced ∧ ∀ u ∈ (r0.isles[(0 : IsleNo)]).sp.upsets, rowOf u.1 ≠ 0 := by decide +kernel

/-- An atoll of one slot of eight words at word 0, spelled as its registers spell it. -/
def ring4 : BitVec 32 := 0x2001
theorem witness_AtollRegistersTakeWrites :
    ((r0.isles[(0 : IsleNo)]).atolls[(0 : AtollNo)]).enable = false
      ∧ (0x10700000 : BitVec 32).toNat.testBit 28 = true ∧ r0.atollBad 0 0 (atollOf 0x10700000 ring4.toNat) 1 = false
      ∧ r0.atollBad 0 0 (atollOf 0x107BFFFF ring4.toNat) 1 = true ∧ (0x700000 : BitVec 32).toNat.testBit 28 = false
      ∧ ((∀ c : CtxNo, r0.waitsOn 0 c 0 = false) ∧ ((r0.isles[(0 : IsleNo)]).atolls[(0 : AtollNo)]).linkedBy = none)
      ∧ (((r0.modAtoll 0 0 fun a => { a with linkedBy := some (1, 0) }).isles[(0 : IsleNo)]).atolls[(0 : AtollNo)]).linkedBy ≠ none := by
  decide +kernel

/-- Atoll 0 of isle 1, enabled, giving its credits to isle 0; entry 0 of isle 0 asks to be linked to it. -/
def asking : State :=
  (r0.modAtoll 1 0 fun a => { a with enable := true, creditEnable := true, creditIsle := 0 }).modRemote 0 0 fun _ =>
    { isle := 1, enable := true, requested := true }
def linked : State :=
  (asking.modRemote 0 0 fun r => { r with linked := true, requested := false }).modAtoll 1 0 fun a =>
    { a with linkedBy := some (0, 0), owed := 1 }
theorem witness_StraitsLinkAndDeliver_links :
    ((r0.isles[(0 : IsleNo)]).remotes[(0 : Fin 16)]).linked = false
      ∧ (let r := (asking.isles[(0 : IsleNo)]).remotes[(0 : Fin 16)]
         let a := (asking.isles[r.isle]).atolls[r.atoll]
         r.requested = true ∧ a.enable = true ∧ a.creditEnable = true ∧ a.creditIsle = 0)
      ∧ (let s := r0.modRemote 0 0 fun _ => { isle := 1, enable := true, requested := true }
         let r := (s.isles[(0 : IsleNo)]).remotes[(0 : Fin 16)]
         r.requested = true ∧ ((s.isles[r.isle]).atolls[r.atoll]).enable = false)
      ∧ (let r := (linked.isles[(0 : IsleNo)]).remotes[(0 : Fin 16)]
         linked.writesDue 0 r = false ∧ r.linked = true ∧ ((linked.isles[r.isle]).atolls[r.atoll]).linkedBy = some (0, 0))
      ∧ ((linked.isles[(1 : IsleNo)]).atolls[(0 : AtollNo)]).owed ≠ 0 := by decide +kernel

/-- A whole word on its way to word 0 of isle 0 from the DMA engine of isle 1. -/
def inboundWord : WordWrite := { isle := 0, word := 0, op := .plain, bytes := (List.range 32).map fun i => (i, 1) }
def inboundItem : StraitItem := { src := 1, ctx := none, owner := 1, dst := 0, msg := .word inboundWord }
theorem witness_StraitsLinkAndDeliver_words :
    (let s := r0.modIsle 0 fun i => { i with inbound := [inboundItem] }
     (s.isles[(0 : IsleNo)]).inbound.find? (·.src == 1) = some inboundItem ∧ inboundWord.whole = true
       ∧ ∀ m : Fin 16, ((s.isles[(1 : IsleNo)]).remotes[m]).linked = false)
    ∧ (let s := (r0.modAtoll 0 0 fun a => { a with full := [0] }).modIsle 0 fun i => { i with wakes := [⟨1, 2, 0, 0⟩] }
       let s := s.modCtx 1 2 fun x => { x with phase := .waiting, cause := .tag }
       (⟨1, 2, 0, 0⟩ : WakeNote) ∈ (s.isles[(0 : IsleNo)]).wakes ∧ 0 ∈ ((s.isles[(0 : IsleNo)]).atolls[(0 : AtollNo)]).full
         ∧ (s.ctx 1 2).phase = .waiting)
    ∧ (let s := (r0.modIsle 0 fun i => { i with retries := [⟨0, 21⟩] }).modCtx 0 0 fun x => { x with phase := .waiting, cause := .none }
       let v := (s.at_ 21).modIsle 0 fun i => { i with retries := i.retries.filter (·.ctx != 0) }
       (s.isles[(0 : IsleNo)]).retries.find? (·.ctx == 0) = some ⟨0, 21⟩ ∧ (v.ctx 0 0).phase = .waiting
         ∧ v.causeCleared 0 0 = true) := by decide +kernel

/-- Channel 0 of isle 0, with a transfer of one word from word 0 to word 64 of its scratchpad, in a phase. -/
def wordMove : Bytes := [0x10, 5] ++ zeros 14 ++ [64] ++ zeros 7 ++ [32, 0, 0, 0, 1, 0, 1, 0] ++ zeros 32
def chanIn (p : ChanPhase) (f : Channel → Channel := id) : State :=
  let s := { r0 with windows := r0.windows.set 0 ((r0.windows[(0 : OwnerNo)]).set 0
    { space := 2, base := 0, limit := 127, read := true, write := true }) }
  s.modChan (.isle 0) 0 fun x => f { x with enable := true, active := wordMove, phase := p }
theorem witness_ChannelsTakeTheirCommands :
    (0 ∈ engineChans (.isle 0) ∧ wordMove.length = 64 ∧ (r0.chan (.isle 0) 0).shadowValid = false
        ∧ (r0.chan (.isle 0) 0).phase = .idle ∧ (r0.chan (.isle 0) 0).enable = false)
      ∧ (let x := (chanIn .idle).chan (.isle 0) 0
         x.shadowValid = false ∧ x.phase = .idle ∧ x.enable = true ∧ x.pauseBit = false)
      ∧ ((chanIn .running).chan (.isle 0) 0).phase = .running ∧ ((chanIn .queued).chan (.isle 0) 0).phase = .queued
      ∧ ((chanIn .paused).chan (.isle 0) 0).phase = .paused
      ∧ (let s := chanIn .pausing
         let x := s.chan (.isle 0) 0
         let d := transferOf x.active
         x.phase = .pausing ∧ x.aborting = false ∧ d.dstKind ≠ 2 ∧ max x.offset (s.inUnits d 0) < d.total
           ∧ d.total ≤ max x.offset (s.inUnits d 32)) := by decide +kernel
/-- A transfer of two words, one to each of the two slots of an atoll at word 64; and that atoll. -/
def slotMove : Bytes := [0x10, 5, 2] ++ zeros 13 ++ [64] ++ zeros 7 ++ [32, 0, 0, 0, 2, 0, 1, 0, 1, 0, 0, 0, 0, 0, 0, 0, 1] ++ zeros 23
def twoSlots (a : Atoll) : Atoll := { a with enable := true, base := 64, slotCount := 2 }
theorem witness_TransfersStartCompleteAndArrive :
    (let s := chanIn .queued
     let x := s.chan (.isle 0) 0
     let d := transferOf x.active
     let g := s.modEngine (.isle 0) fun g => { g with lastServed := 0 }
     s.nextChan (.isle 0) = some 0 ∧ x.begun = false ∧ d.zeroSize = false ∧ g.transferCheck (.isle 0) x.owner x.active = none
       ∧ ((g.modChan (.isle 0) 0 fun x => { x with phase := .running, begun := true }).readAll (.isle 0) x.owner d x.offset).1 = none)
    ∧ (let s := chanIn .running
       let x := s.chan (.isle 0) 0
       let d := transferOf x.active
       (engineChans (.isle 0)).find? (fun c => (s.chan (.isle 0) c).phase == .running) = some 0 ∧ x.shadowValid = false
         ∧ d.zeroSize = false ∧ d.tagSrc = false ∧ d.srcKind = 1 ∧ d.dstKind ≠ 2 ∧ d.codedDst = false ∧ d.notify = false
         ∧ x.transit = [])
    ∧ (let s := chanIn .idle fun x => { x with transit := [⟨wordMove, 0, 0, 0, []⟩] }
       let t := transferOf wordMove
       (s.chan (.isle 0) 0).transit = [⟨wordMove, 0, 0, 0, []⟩] ∧ s.wordsOut (.isle 0) 0 0 = false
         ∧ t.total ≤ (s.nextSlot (.isle 0) t 0).getD t.total)
    ∧ (let s := (chanIn .idle fun x => { x with transit := [⟨slotMove, 0, 0, 0, []⟩] }).modAtoll 0 0 twoSlots
       let t := transferOf slotMove
       (s.chan (.isle 0) 0).transit = [⟨slotMove, 0, 0, 0, []⟩] ∧ s.wordsOut (.isle 0) 0 0 = false
         ∧ (s.nextSlot (.isle 0) t 0).getD t.total < t.total)
    ∧ (let s := (chanIn .running fun x => { x with active := slotMove }).modAtoll 0 0 twoSlots
       let x := s.chan (.isle 0) 0
       x.transit = [] ∧ x.phase = .running ∧ (transferOf x.active).dstKind ≠ 2
         ∧ s.nextSlot (.isle 0) (transferOf x.active) x.offset = some 32)
    ∧ (let s := (chanIn .waiting fun x => { x with active := wordMove.set 2 1 }).modAtoll 0 0 fun a => { a with enable := true }
       (s.chan (.isle 0) 0).phase = .waiting ∧ s.mayStart (.isle 0) (s.chan (.isle 0) 0) = false) := by decide +kernel

theorem witness_WindowsAndMemoryControllerAreSet :
    r0.windowBad 1 (zeros 32) true = false ∧ r0.grantHeld (zeros 32) = false
      ∧ r0.codecWindowBad 0 ([8] ++ zeros 15 ++ [0xFF, 0x0F] ++ zeros 14) = false
      ∧ r0.mem.upsetOf (r0.mem.patrolAtom / 16 * 15 + r0.mem.patrolAtom % 16) = none := by decide +kernel

/-- A stage plan of one stage, kept in stripes of 16 lines, with one adaptation descriptor for that stage. -/
def planBody : Bytes := [0x10] ++ zeros 11 ++ [1] ++ zeros 51 ++ ([0x10] ++ zeros 10 ++ [3] ++ zeros 32 ++ [2] ++ zeros 19)
def plan1 : PlanImage := ⟨1, false, planBody, [[0x10] ++ zeros 35 ++ [64, 0, 0, 0, 2] ++ zeros 23], [], [], [], [], 0, 0, 0⟩
/-- A frame of 16 by 16 samples of slot 0 under that plan. -/
def frameOf (n : Nat) (f : Frame → Frame := id) : Frame :=
  f { number := n, tick := 0, width := 16, height := 16, plan := 1, stages := [{}], geo := { width := 16, height := 16 } }
/-- Slot 0 with that plan in force and frames in flight. -/
def framed (fs : List Frame) (g : Slot → Slot := id) : State :=
  ({ r0 with plans := [plan1] }.setNum (slotIndex 0) 0x30 1).modSlot 0 fun sl => g { sl with frames := fs }

/-- Slot 0 captures for its adaptable stage, whose half 0 is the read half. -/
def adapting (fs : List Frame) (a : AdaptStage → AdaptStage := id) : State :=
  (((framed fs fun sl => { sl with lastLevel := some 0, adapt := [a { desc := 0, half0 := { valid := true }, resetPending := false }] }).setNum
    (slotIndex 0) 0x60 1).setNum 0x2300 0x40 1).setNum 0x2000 8 1
def frontHeld : Frame → Frame := fun f => { f with frontHeld := [⟨0, 0, 1, 16, 16, zeros 512⟩] }
theorem witness_AdaptationCaptures :
    (let s := adapting [frameOf 0 frontHeld]
     (s.slots[(0 : SlotNo)]).frameOf 0 = some (frameOf 0 frontHeld) ∧ s.slotPlan 0 = some plan1
       ∧ (s.slots[(0 : SlotNo)]).adapt.find? (·.desc == 0) = (s.slots[(0 : SlotNo)]).adapt.head?
       ∧ (levelList plan1.body 0).findIdx? (· == adStage (s.adaptDesc 0 0)) = some 0 ∧ (frameOf 0 frontHeld).level = 0
       ∧ s.slotNat 0 0x60 ≠ 0 ∧ s.adaptDesc 0 0 ≠ []
       ∧ ∀ x ∈ stripesRead (stageDesc plan1.body 0) 16 1 (srBits 0 0 0 % 1), ∃ y ∈ (frameOf 0 frontHeld).produced 0, y.stripe = x)
    ∧ (let p : SamplePair := { frame := 0, stripe := 0, entry := 0, first := true, second := false }
       let s := adapting [frameOf 1 frontHeld] fun a => { a with pairs := [p] }
       (s.slots[(0 : SlotNo)]).frameOf 1 = some (frameOf 1 frontHeld) ∧ s.slotPlan 0 = some plan1 ∧ s.slotNat 0 0x60 ≠ 0
         ∧ [p].find? (fun p => p.frame + 1 == 1 && p.first) = some p ∧ (∀ q ∈ [p], q.frame ≠ 1) ∧ (∀ q ∈ [p], q.frame + 1 = 1 → q.first = true)
         ∧ ∀ x ∈ stripesRead (stageDesc plan1.body 0) 16 1 p.stripe, ∃ y ∈ (frameOf 1 frontHeld).produced 0, y.stripe = x) := by
  decide +kernel
theorem witness_AdaptationCommits :
    (let s := ((adapting []).setNum (slotIndex 0) 0x61 10).setNum (slotIndex 0) 0x62 1
     s.stepTurn = some 0 ∧ s.stepMayStart 0 0 = true)
    ∧ (let st : AdaptStep := ⟨1, 0, 1, [], 0⟩
       let s := adapting [] fun a => { a with running := some st }
       ((s.slots[(0 : SlotNo)]).adapt.map fun a => (a.readHalf, a.running, a.readHeader)) = [(some false, some st, some { valid := true })]
         ∧ s.slotNat 0 0x65 = 0 ∧ s.stepBusy 0 0 = false) := by decide +kernel

theorem witness_TickInIsFollowed :
    let w : EdgeWindow := ⟨1000, 900, 1100, false⟩
    let s := r0.modTick fun x => { x with sync := .acquiring, window := some w }
    let v := s.at_ 1000
    v.tick.sync ≠ .internal ∧ v.tick.pinAt + 3 ≤ v.now ∧ false = (v.nat 0x2100 5 == 1) ∧ v.tick.window = some w ∧ w.found = false
      ∧ w.start < v.now + v.num 0x2100 4 ∧ (v.now : Int) ≤ v.windowEnd w ∧ s.tick.window = some w := by decide +kernel
theorem witness_TickOutStaggerAndSlew :
    (let v := r0.at_ (r0.tick.boundary + 400 * 0)
     (v.isles[(0 : IsleNo)]).slotOpen = false ∧ (v.isles[(0 : IsleNo)]).health.phase = .available ∧ v.nat 0x2700 1 = 0)
    ∧ (r0.at_ (r0.tick.windowAt + 50)).nat 0x2700 1 = 0 := by decide +kernel
theorem witness_FramesEndLateOrDone :
    (∀ u : Bool, let f := frameOf 0 fun f => { f with borrow := some (0, 100), unopened := u }
      ((framed [f]).slots[(0 : SlotNo)]).borrower = some f ∧ f.borrow = some (0, 100) ∧ f.unopened = u)
    ∧ (let s := framed [frameOf 0 fun f => { f with stages := [{ completed := [0] }] }]
       let v := (s.at_ 0).modFrame 0 0 ((s.at_ 0).settleAnalysis 0)
       ∃ f ∈ (v.slots[(0 : SlotNo)]).frames, (v.slots[(0 : SlotNo)]).frameOf 0 = some f ∧ v.frameComplete 0 f = true) := by decide +kernel

/-- The in-line port of slot 0 in a state, with a frame of 16 by 16 samples. -/
def inlineIn (p : InlinePort) (fs : List Frame) : State :=
  (framed fs fun sl => { sl with inl := { p with geo := { width := 16, height := 16 } } }).setNum (slotIndex 0) 1 1
theorem witness_InlineFramesAreReceivedOrBroken :
    (let v := (inlineIn {} []).at_ 10
     v.portOn = true ∧ v.inline.broken = false ∧ v.inline.fv = false)
    ∧ (let v := (inlineIn { fv := true, active := true, nextFrame := 1 } []).at_ 10
       v.inline.broken = false ∧ v.inline.fv = true)
    ∧ (let words : List (BitVec 24) := List.replicate 8 0
       let v := (inlineIn { fv := true, active := true, nextFrame := 1 } [frameOf 0]).at_ 10
       v.inline.broken = false ∧ v.inline.active = true ∧ words ≠ [] ∧ v.inlineStuck words = false ∧ v.inline.pulses < v.inlineTotal
         ∧ (v.lineSamples words).length = v.inline.geo.width ∧ (v.slots[(0 : SlotNo)]).frameOf v.inline.number = some (frameOf 0)
         ∧ (frameOf 0).unopened = false ∧ (frameOf 0).coasted = false
         ∧ v.lineBuffer (frameOf 0) (v.inline.pulses / v.inline.geo.exposures) = true)
    ∧ (let s := inlineIn { fv := true, active := true, nextFrame := 1, pulses := 64 } [frameOf 0]
       s.inline.active = true ∧ s.inlineStuck [0] = true ∧ s.inline.lowSince + s.slotNat 0 0x0E < 2 ^ 40)
    ∧ (inlineIn { broken := true } []).inline.broken = true := by decide +kernel

/-- Slot 1 ingests stream 0 on port 0, its ring of three entries of 64 by 16 samples in memory. -/
def ingesting (g : Slot → Slot := id) : State :=
  ((((((({ r0 with plans := [plan1] }.setNum (ethIndex 0) 9 2).setNum (ethIndex 0) 4 1).setNum (slotIndex 1) 1 1).setNum (slotIndex 1) 0x03
    64).setNum (slotIndex 1) 0x04 16).setNum (slotIndex 1) 0x09 3).setNum (slotIndex 1) 0x0A 0x10000).modSlot 1 fun sl => g { sl with entries := List.replicate 3 {} }
/-- A datagram of 64 packed samples of frame `f`, its sequence `q`, with three bytes of its header given. -/
def stripeOf (f q : Nat) (version : Byte := 0x10) (bytes : Nat := 64) (n : Byte := 64) : Bytes :=
  [version, 0, 0, 0] ++ zeros 3 ++ [byte f] ++ zeros 7 ++ [byte q] ++ [1, 0] ++ [0, 64, 0, 16, 0, 0, 0, 0, 0, n] ++ zeros 12 ++ zeros bytes
theorem witness_StripeDatagramsAreJudgedInOrder :
    (let v := ingesting
     let b := stripeOf 0 0
     v.linkUp 0 = true ∧ b.length ≤ v.udpRoom 0 (zeros 16) ∧ v.nat 0x2700 1 = 0 ∧ v.hasRole 0 0 = true ∧ v.dgSlot b = some 1
       ∧ dgWellFormed b = true ∧ v.sourceOk 1 (zeros 16) = true ∧ v.dgAuthentic 1 b = true ∧ seqFresh none 0 = true
       ∧ (v.slots[(1 : SlotNo)]).frameFits 0 = true ∧ (v.slots[(1 : SlotNo)]).conflicts b = false ∧ dgRunOk b = true
       ∧ ((v.noteSequence 1 b).dgEntry 1 b).1 = some 0)
    ∧ dgWellFormed (stripeOf 0 0 (version := 0x20)) = false
    ∧ (ingesting.setNum (slotIndex 1) 0x0D 1).dgAuthentic 1 (stripeOf 0 0) = false
    ∧ seqFresh (some (seqNote none 5).1) 5 = false
    ∧ ((ingesting fun sl => { sl with newest := some 0 }).slots[(1 : SlotNo)]).frameFits 0 = false
    ∧ (let v := ingesting fun sl => { sl with entries := [{ phase := .filling, packing := 2 }] }
       (v.slots[(1 : SlotNo)]).frameFits 0 = true ∧ (v.slots[(1 : SlotNo)]).conflicts (stripeOf 0 0) = true)
    ∧ dgWellFormed (stripeOf 0 0 (bytes := 63)) = true ∧ dgRunOk (stripeOf 0 0 (bytes := 63)) = false := by decide +kernel
theorem witness_RingTimersTakeEffect :
    (∀ e ∈ [({ phase := .filling, lastFlagAt := some 0 } : RingEntry), { phase := .filling }],
      let s := ingesting fun sl => { sl with entries := [e] }
      (s.slots[(1 : SlotNo)]).filling = [0] ∧ s.forgetDue 1 = none ∧ ((s.entryDue 1 e).1 = 4 ↔ e.lastFlagAt = none))
    ∧ (let s := ingesting fun sl => { sl with lastAccepted := some 0 }
       (s.slots[(1 : SlotNo)]).filling = [] ∧ (s.forgetDue 1).isSome = true) := by decide +kernel
theorem witness_SequencesAreAcceptedOnce : seqFresh none 0 = true ∧ seqFresh (some (seqNote none 0).1) 0 = false := by decide +kernel
theorem witness_StripesAreProcessedInOrder :
    (let s := framed [frameOf 0]
     (s.slots[(0 : SlotNo)]).frameOf 0 = some (frameOf 0) ∧ s.planOf 1 = some plan1 ∧ s.frontMay 0 (frameOf 0) planBody 0 = true
       ∧ s.frontTurn 0 (frameOf 0) = true)
    ∧ (let f := frameOf 0 fun f => { f with frontDone := [0] }
       let s := framed [f]
       (s.slots[(0 : SlotNo)]).frameOf 0 = some f ∧ s.stageMay f (s.bodyOf f) 0 0 = true)
    ∧ (let r : StageRun := { started := [0] }
       let f := frameOf 0 fun f => { f with frontDone := [0], stages := [r] }
       let s := framed [f]
       (s.slots[(0 : SlotNo)]).frameOf 0 = some f ∧ s.planOf f.plan = some plan1 ∧ (levelStages (s.bodyOf f) f.level).length = 1
         ∧ f.stages[0]? = some r ∧ s.nat 0x2700 1 = 0 ∧ 0 ∈ r.started ∧ 0 ∉ r.completed
         ∧ ∀ d ∈ (levelStages (s.bodyOf f) f.level)[0]?, ((s.applyMemUpsets []).readState (stateReads f d.1 (s.bodyOf f) d.2 0)).1 = false)
    ∧ (let img : PlanImage := { plan1 with body := (planBody.set 65 3).set 78 1 }
       let r : StageRun := { started := [0] }
       let f := frameOf 0 fun f =>
         { f with frontDone := [0], stages := [r], halves := [{ desc := 0, read := some false, usable := true, write := true }] }
       let s := { framed [f] with plans := [img] }
       (s.slots[(0 : SlotNo)]).frameOf 0 = some f ∧ s.planOf f.plan = some img ∧ (levelStages (s.bodyOf f) f.level).length = 1
         ∧ ∀ d ∈ (levelStages (s.bodyOf f) f.level)[0]?,
             ((s.applyMemUpsets [⟨128, true⟩]).readState (stateReads f d.1 (s.bodyOf f) d.2 0)).1 = true) := by decide +kernel

/-- What a write is admitted as, where it meets all of `State.Admits`. -/
def admitted (s : State) (w : Write) (i sub : Nat) (b : Bytes) : Option OdVal :=
  if s.power.tripped = false ∧ s.reaches w.req = true ∧ s.held i = false then
    match (s.atWrite w).odAdmit w i sub b with
    | .ok v => some v
    | .refused _ => none
  else none
theorem admits_of {s : State} {w : Write} {i sub : Nat} {b : Bytes} {v : OdVal} (h : admitted s w i sub b = some v) :
    s.Admits w i sub b v := by
  unfold admitted at h
  split at h
  · next g =>
    refine ⟨g.1, g.2.1, g.2.2, ?_⟩
    split at h
    · next e => exact e.trans (congrArg _ (Option.some.inj h))
    · exact absurd h (by simp)
  · exact absurd h (by simp)

/-- CAN port A has agreed on the profile and holds every domain. -/
def admin (s : State := r0) : State :=
  let s := s.modReq .portA fun r => { r with nego := .agreed, leaseEnd := 10 ^ 9 }
  { s with od := { s.od with holders := Vector.replicate 8 (some .portA) } }
def wA : Write := ⟨.portA, true, 0⟩
/-- Whether a write by CAN port A of entry `i`:`sub` is admitted as `v`. -/
def admits (s : State) (i sub : Nat) (b : Bytes) (v : OdVal) : Bool := admitted s wA i sub b == some v
theorem admits_spec {s : State} {i sub : Nat} {b : Bytes} {v : OdVal} (h : admits s i sub b v = true) : s.Admits wA i sub b v :=
  admits_of (by simpa [admits] using h)

theorem witness_SlotEntriesAct_images :
    admits admin 0x3000 0x21 (zeros 64) (.raw (zeros 64)) = true ∧ admits admin 0x3000 0x24 (zeros 4) (.raw (zeros 4)) = true
      ∧ admits admin 0x3000 0x26 [1] (.num 1) = true
      ∧ imageOk ((admin.atWrite wA).shadowWith 0 0x21 (List.replicate 64 0xFF)) = false := by decide +kernel
/-- Two plans are loaded, one of them an analysis plan, and slot 0 has an owner. -/
def planned : State := admin ({ r0 with plans := [plan1, { plan1 with analysis := true }] }.setNum (slotIndex 0) 0xF0 1)
theorem witness_SlotEntriesAct_plans :
    (∀ n ∈ [0, 1, 2], admits planned 0x3000 0x30 (toLe 4 n) (.num n) = true ∧ admits planned 0x3000 0x49 (toLe 4 n) (.num n) = true)
    ∧ (let t := planned.atWrite wA
       t.planOf 1 = some plan1 ∧ t.planOf 2 = none ∧ t.analysisOf 1 = some { plan1 with analysis := true } ∧ t.analysisOf 2 = none)
    ∧ admits (planned.setNum (slotIndex 0) 0x49 1) 0x3000 0x4A [1] (.num 1) = true := by decide +kernel
theorem witness_SlotEntriesAct_commands :
    admits admin 0x3000 0x3B [1] (.num 1) = true ∧ admits admin 0x3000 0x64 [1] (.num 1) = true
      ∧ admits admin 0x2100 0x0C [1] (.num 1) = true
      ∧ admits (admin (r0.modTick fun x => { x with sync := .locked })) 0x2100 0x0C [1] (.num 1) = true := by decide +kernel

theorem witness_OutputsAreWrittenAndSent :
    (let f := frameOf 0 fun f => { f with stages := [{ held := [⟨0, 0, 1, 16, 16, zeros 512⟩] }] }
     let s := (framed [f]).setNum (slotIndex 0) 0x40 1
     (s.slots[(0 : SlotNo)]).frameOf 0 = some f ∧ s.formatMay 0 f 1 0 = true ∧ ((s.takeOut 0 f).map (·.1)) = some 0
       ∧ (let t := s.modSlot 0 fun sl => { sl with outRing := List.replicate 3 { pins := [(1, 0)] } }
          t.formatMay 0 f 1 0 = true ∧ (t.takeOut 0 f).isNone = true))
    ∧ (let f := frameOf 0
       let s (g : Frame) : State := (((framed [f]).setNum (slotIndex 0) 0x49 1).setNum (slotIndex 0) 0x4A 1).modSlot 1 fun sl =>
         { sl with finished := [g] }
       (s f).slotNat 0 0x49 ≠ 0 ∧ f.analysis = .none ∧ (s { f with outcome := some .done, outEntry := some 2 }).sourceOf 0 f = .ready 2
         ∧ (s { f with outcome := some .failed }).sourceOf 0 f = .missing)
    ∧ (let s := framed [] fun sl => { sl with result := { sl.result with jobs := [⟨0, 0, []⟩] } }
       (s.slots[(0 : SlotNo)]).stop.stopped = false ∧ (s.slots[(0 : SlotNo)]).result.jobs = [⟨0, 0, []⟩]) := by decide +kernel

theorem witness_BoundariesOpenTicksAndEpochs :
    (let s := { r0 with sys := { r0.sys with confirmed := some 0 }, od := { r0.od with pendE := [(odKey 0x3000 0x30, .num 1)] } }
     s.sys.confirmed = some s.tick.number ∧ s.tick.epochDone ≠ some s.tick.number ∧ s.od.lateFor ≠ some s.tick.number
       ∧ (odKey 0x3000 0x30, OdVal.num 1) ∈ s.mergeLate.od.pendE ∧ s.mergeLate.od.pendE.Pairwise (·.1 ≠ ·.1))
    ∧ r0.sys.confirmed ≠ some r0.tick.number ∧ ∀ k : SlotNo, (r0.slots[k]).borrower = none := by decide +kernel

/-- The device as node 0 in a role, with its port 0 up for causeway and the system key loaded, with other system state. -/
def networked (role : Nat) (y : SystemState → SystemState := id) (f : State → State := id) : State :=
  let s := ((r0.setNum 0x2900 5 role).setNum (ethIndex 0) 9 2).setNum (ethIndex 0) 4 4
  let s := { s with owners := s.owners.set 0 { s.owners[(0 : OwnerNo)] with causeway0 := some ⟨zeros 32, zeros 4⟩ } }
  f (s.modSys y)
/-- The system key of that device, and the frame of a type, channel and payload that node 1 sends it under that key. -/
def key0 : LoadedKey := ⟨zeros 32, zeros 4⟩
def cwFrame (type chan : Nat) (payload : Bytes) : CwFrame := ⟨type, 0, false, chan, 1, 0, 1, payload⟩
/-- Whether a device takes that frame on port 0, and `p` then holds. -/
def takes (s : State) (f : CwFrame) (p : CwFrame → State → Bool := fun _ _ => true) : Bool :=
  s.mayTake 0 (zeros 16) f key0 && p f (s.took 0 f)
theorem takes_spec {s : State} {f : CwFrame} {p : CwFrame → State → Bool} (h : takes s f p = true) :
    ∃ b u, s.cwTake f.type 0 (zeros 16) b = (some f, u) ∧ p f u = true := by
  simp only [takes, Bool.and_eq_true] at h
  exact ⟨_, _, cwTake_seal h.1, h.2⟩
theorem witness_ManagersAreElectedAndBeaconsCounted_roles :
    (∀ h : Bool, let s := networked 4 fun y => { y with listenUntil := some 0, heard := h }
      s.sys.listenUntil = some 0 ∧ s.role = 4 ∧ s.sys.heard = h ∧ 0 ≤ s.tick.number)
    ∧ (let s := (networked 2 fun y => { y with uncounted := 3 }).modTick fun x => { x with sync := .freeRun }
       s.role = 2 ∧ 3 ≤ s.sys.uncounted ∧ s.tick.sync = .freeRun ∧ s.now = s.tick.boundary ∧ s.sys.confirmed = none
         ∧ s.sys.namedEpoch = none)
    ∧ (let s := networked 3 fun y => { y with uncounted := 8 }
       s.role = 3 ∧ 8 ≤ s.sys.uncounted)
    ∧ (let m : MemberState := { node := 1, joined := true }
       let s := (networked 1 fun y => { y with members := [m] }).modTick fun x => { x with number := 3 }
       s.role = 1 ∧ s.member 1 = some m ∧ m.joined = true ∧ 3 ≤ s.tick.number ∧ m.since + 3 ≤ s.tick.number
         ∧ ∀ i ∈ [1, 2, 3], m.reported (s.tick.number - i) = false) := by decide +kernel
theorem witness_ManagersAreElectedAndBeaconsCounted_beacons :
    (let s := networked 1
     s.role = 1 ∧ s.sys.beaconTick ≠ some s.tick.number ∧ s.now ≤ s.tick.boundary + 20000)
    ∧ takes (networked 1) (cwFrame 3 0 (zeros 20 ++ [0, 0, 0, 1] ++ zeros 24)) (fun f u => u.role == 1 && u.nat 0x2900 7 < beAt f.payload 20 4) = true
    ∧ takes (networked 4 fun y => { y with listenUntil := some 8 }) (cwFrame 3 0 (zeros 48)) (fun _ u => u.role != 1 && u.sys.listenUntil.isSome) = true
    ∧ takes ((networked 3).setNum 0x2900 6 1 |>.at_ 100) (cwFrame 3 0 (zeros 48)) (fun f u => u.role != 1 && u.sys.listenUntil == none
        && u.nat 0x2900 6 == f.src && u.tick.boundary < u.now && u.now ≤ u.tick.boundary + u.period / 2 && !u.sys.counted) = true
    ∧ (let s := networked 2 fun y => { y with heldRaised := true, uncounted := 2 }
       s.role = 2 ∧ s.sys.counted = false ∧ s.sys.expired = false ∧ s.now ≤ s.tick.boundary + s.period / 2 ∧ s.tick.sync ≠ .holdover
         ∧ s.tick.sync ≠ .freeRun ∧ s.sys.heldRaised = true) := by decide +kernel

theorem witness_MembersJoinAndReport_join :
    (∀ v ∈ [(0x10 : Byte), 0x20], takes (networked 1) (cwFrame 5 1 (v :: zeros 19)) (fun f u => (u.sendAck f.src f.chan).role == 1
        && (byteAt f.payload 0 / 16 == 1) == (v == 0x10) && ((u.sendAck f.src f.chan).member f.src).isNone) = true)
    ∧ takes (networked 1 fun y => { y with members := [{ node := 1, joined := true, reports := [reportOf (zeros 112)] }] })
        (cwFrame 5 1 (zeros 20)) (fun f u => (u.sendAck f.src f.chan).role == 1 && ((u.sendAck f.src f.chan).member f.src).any fun m =>
          m.joined && m.reported (u.tick.number - 0)) = true
    ∧ takes (networked 4) (cwFrame 6 1 (1 :: zeros 7)) (fun f u => (u.sendAck f.src f.chan).role == 4) = true := by decide +kernel
theorem witness_MembersJoinAndReport_reports :
    (let s := networked 2
     s.role = 2 ∧ s.sys.digestTick ≠ some s.tick.number ∧ s.now ≤ s.tick.boundary + s.period / 4)
    ∧ takes (networked 1 fun y => { y with members := [{ node := 1, joined := true }] }) (cwFrame 4 0 (zeros 48)) (fun f u =>
        u.role == 1 && ((u.member f.src).any (·.joined)) && !(reportOf f.payload).depleted) = true
    ∧ (let s := networked 1
       s.role = 1 ∧ s.sys.compareTick ≠ some s.tick.number ∧ s.now ≤ s.tick.boundary + s.period / 2 ∧ s.avail.depleted = false) := by
  decide +kernel
theorem witness_EpochsAreScheduledAndConfirmed :
    (admits admin 0x2900 0x0A (toLe 6 16) (.num 16) = true
      ∧ (let t := admin.atWrite wA
         t.role ≤ 1 ∧ t.nat 0x2900 0x0A = 0 ∧ t.tick.number + 16 ≤ 16))
    ∧ admits admin 0x2900 0x0A (toLe 6 15) (.num 15) = true ∧ (15 : Nat) < (admin.atWrite wA).tick.number + 16
    ∧ admits admin 0x2900 0x0A (zeros 6) (.num 0) = true
    ∧ admits admin 0x2900 0x10 [1] (.num 1) = true
    ∧ (let s := r0.setNum 0x2900 0x0A 16
       s.role ≤ 1 ∧ s.tick.number + 2 < s.nat 0x2900 0x0A ∧ s.sys.placedFor ≠ some (s.nat 0x2900 0x0A))
    ∧ (let s := r0.setNum 0x2900 0x0A 2
       s.role = 0 ∧ s.nat 0x2900 0x0A = s.tick.number + 2 ∧ s.sys.confirmed ≠ some (s.nat 0x2900 0x0A) ∧ s.now ≤ s.tick.boundary + 1000
         ∧ s.ready = true)
    ∧ (let s := { r0.setNum 0x2900 0x0A 2 with fw := { r0.fw with activation := some ⟨false, true, .verifying, 0, false⟩ } }
       s.role = 0 ∧ s.ready = false) := by decide +kernel
/-- The device is the downstream part of slot 1's stream from node 1 on channel 2. -/
def downstream : State :=
  networked 3 id fun s => ((s.setNum (slotIndex 1) 0x70 2).setNum (slotIndex 1) 0x71 1).setNum (slotIndex 1) 0x72 2
/-- A frame in the window of the flow to node 1 on channel 2, sent again `n` times. -/
def flowing (n : Nat) : TxFlow := { dest := 1, chan := 2, unacked := [{ seq := 0, bytes := [], sentAt := 0, again := n, fast := false }] }
theorem witness_FlowsMoveAndReset :
    takes downstream (cwFrame 1 2 (zeros 32)) (fun f u => u.flowSlot 2 f.src f.chan == some 1) = true
    ∧ ((downstream.at_ 0).freeBuffer 0).isSome = true
    ∧ takes (networked 3) (cwFrame 2 2 (zeros 24)) = true
    ∧ (let x : RxSpace := { key := 0, src := 1, chan := 2, ack := false }
       let s := networked 3 fun y => { y with spaces := [x] }
       s.rxChannel 1 2 = some x ∧ s.role ≠ 0)
    ∧ (∀ n ∈ [0, 6], ((networked 3 fun y => { y with flows := [flowing n] }).flow 1 2).due.isSome = true)
    ∧ (let s := networked 3 fun y => { y with flows := [{ dest := 1, chan := 2, resetDue := true, resetAt := some 5 }] }
       (s.flow 1 2).resetDue = true ∧ (s.flow 1 2).resetAt = some 5)
    ∧ takes (networked 3) (cwFrame 9 2 []) = true := by decide +kernel
/-- A relayed request of transaction 0 in one part: a USDO read of 0x2600:01. -/
def relayPart : Bytes := [0, 0, 0, 0] ++ toBe 4 (usdoRead 0x2600 1).length ++ usdoRead 0x2600 1
theorem witness_RequestsAreRelayed :
    takes (networked 3) (cwFrame 7 1 relayPart) (fun f u => let t := u.sendAck f.src f.chan
      byteAt f.payload 2 == t.sys.node && (t.joinRequest f.src f.payload).1 == some (usdoRead 0x2600 1)) = true
    ∧ takes (networked 3) (cwFrame 7 1 (relayPart.take 10)) (fun f u => ((u.sendAck f.src f.chan).joinRequest f.src f.payload).1.isNone) = true
    ∧ takes (networked 1 fun y => { y with relays := [{ transaction := 0, member := 1, sentAt := 0, request := usdoRead 0x2600 1 }] })
        (cwFrame 8 1 relayPart) (fun f u => ((u.sendAck f.src f.chan).joinAnswer (beAt f.payload 0 2) f.payload).1.any fun r =>
          r.1.member == f.src) = true
    ∧ (let m : MemberState := { node := 1, joined := true, claim := some 5 }
       let s := networked 1 fun y => { y with members := [m] }
       s.member 1 = some m ∧ m.claim = some 5 ∧ s.role = 1 ∧ m.joined = true) := by decide +kernel

theorem witness_PortsLinkAndAnswer :
    (let t := r0.setNum (ethIndex 0) 1 1
     t.nat (ethIndex 0) 1 ≠ 0 ∧ t.linkUp 0 = false ∧ t.nat 0x2700 1 ≠ 1)
    ∧ (let s := (networked 0).setEntry (ethIndex 0) 7 (.raw [10, 0, 0, 1, 24, 10, 0, 0, 254])
       let c := s.bump (ethIndex 0) 0x20
       s.linkUp 0 = true ∧ s.nat 0x2700 1 = 0 ∧ c.outside 0 (.etherType 0x1234) = true ∧ c.ownAddr 0 (mapped [10, 0, 0, 1]) = true
         ∧ c.nextHop 0 (mapped [10, 0, 0, 2]) = mapped [10, 0, 0, 2]
         ∧ (let a : Bytes := [0xFE, 0x80] ++ zeros 13 ++ [1]
            c.nextHop 0 a = slice a 0 16) ∧ 8 + 44 ≤ s.nat (ethIndex 0) 2) := by decide +kernel
theorem witness_PortsLinkAndAnswer_solicited (s : State) : s.ownAddr 0 (linkLocal 0) = true := by
  simp [State.ownAddr, linkLocal, isV4, slice, zeros]
theorem witness_PausesAndStopFrames :
    (let t := networked 0
     let b : Bytes := [1, 1, 0, 0xFF] ++ List.replicate 16 1
     20 ≤ b.length ∧ beAt b 0 2 = 0x0101 ∧ t.linkUp 0 = true ∧ t.nat 0x2700 1 = 0 ∧ bitOf (beAt b 2 2) (t.nat 0x2A00 5) = true
       ∧ beAt b (4 + 2 * t.nat 0x2A00 5) 2 ≠ 0)
    ∧ (let s := (networked 0).modPort 0 fun x => { x with pausing := true, dataFill := 100000 }
       (s.eth.ports[(0 : EthNo)]).pausing = true ∧ 98304 < (s.eth.ports[(0 : EthNo)]).dataFill ∧ s.linkUp 0 = true)
    ∧ (let s := (networked 0).modPort 0 fun x => { x with heldSince := some 0, heldUntil := 10 ^ 9 }
       (s.eth.ports[(0 : EthNo)]).heldSince = some 0 ∧ 0 + 100000 * s.nat 0x2A00 6 < (s.eth.ports[(0 : EthNo)]).heldUntil
         ∧ s.now < (s.eth.ports[(0 : EthNo)]).heldUntil ∧ (s.eth.ports[(0 : EthNo)]).discarding = false)
    ∧ (let c := ((networked 0).setNum (slotIndex 1) 1 1)
       (c.slots[(1 : SlotNo)]).stop.lastSeq = none ∧ ∀ cmd ∈ [(1 : Byte), 2], c.stopAccepted (zeros 16) 0 ([0x10, cmd] ++ zeros 22) = some 1
         ∧ c.stopAccepted (zeros 16) 1 ([0x10, cmd] ++ zeros 22) = none)
    ∧ (let s := r0.modSlot 0 fun sl => { sl with stop := { stopped := true, holdEnd := some 5 } }
       (s.slots[(0 : SlotNo)]).stop.stopped = true ∧ (s.slots[(0 : SlotNo)]).stop.holdEnd = some 5) := by decide +kernel

/-- A Sync of domain 0 from the sender whose identity is all zeros, in one step or in two. -/
def syncOf (two : Bool) : Bytes := [0, 2, 0, 44, 0, 0, if two then 2 else 0] ++ zeros 37
theorem witness_PtpSteersDeviceTime :
    (∀ two : Bool, let b := syncOf two
      let t := (networked 0).modPtp fun x => { x with master := some (zeros 10) }
      t.nat 0x2A00 7 = 0 ∧ t.linkUp 0 = true ∧ 44 ≤ b.length ∧ fieldAt b 1 0 4 = 2 ∧ byteAt b 4 = byteAt t.ptpSettings 2
        ∧ t.eth.ptp.master = some (ptpSender b) ∧ ptpType b = 0 ∧ bitOf (byteAt b 6) 1 = two)
    ∧ (let s := ((networked 0).modPtp fun x => { x with lastSync := some 5 }).setNum 0x2A00 9 1
       s.eth.ptp.lastSync = some 5 ∧ s.nat 0x2A00 9 = 1) := by decide +kernel
theorem witness_ControlPortsFollowTheirCommands :
    ((r0.can[(0 : CanNo)]).enabled = true ∧ (r0.can[(0 : CanNo)]).status = .active ∧ (r0.can[(0 : CanNo)]).produceAt.isSome = true
        ∧ (1 : Nat) ≠ (r0.can[(0 : CanNo)]).supervisor)
    ∧ (let s := (r0.modCan 0 fun c => { c with heartbeatAt := some 5 }).setNum 0x1016 1 (0x70 * 65536 + 10)
       (s.can[(0 : CanNo)]).heartbeatAt = some 5 ∧ (s.can[(0 : CanNo)]).lapsed = false ∧ s.nat 0x1016 1 % 65536 ≠ 0)
    ∧ ((r0.modCan 0 fun c => { c with status := .busOff }).can[(0 : CanNo)]).status ≠ .passive := by decide +kernel
/-- Power is good. -/
def powered (s : State := r0) : State := s.setNum 0x2700 2 1
theorem witness_VersionsServiceAndSettings :
    admits admin 0x2001 1 [0, 1] (.num 256) = true ∧ minorFor (admin.atWrite wA).protocols (256 / 256) = some 0
    ∧ admits admin 0x2001 1 [0, 9] (.num 2304) = true ∧ minorFor (admin.atWrite wA).protocols (2304 / 256) = none
    ∧ (let s := admin (powered (r0.modMem fun m => { m with trained := true }))
       admits s 0x2000 0x0B [1] (.num 1) = true ∧ (s.atWrite wA).nat 0x2700 2 ≠ 0 ∧ (s.atWrite wA).mem.trained = true
         ∧ (s.atWrite wA).nat 0x2000 8 = 0)
    ∧ admits admin 0x2000 0x0B [1] (.num 1) = true ∧ (admin.atWrite wA).nat 0x2700 2 = 0
    ∧ admits admin 0x1010 1 (toLe 4 0x65766173) (.num 0x65766173) = true
    ∧ admits admin 0x1011 1 (toLe 4 0x64616F6C) (.num 0x64616F6C) = true := by decide +kernel
theorem witness_ClaimsAreGrantedWhole :
    (admits admin 0x2010 1 [3] (.num 3) = true
      ∧ ∀ d : Fin 8, ((admin.atWrite wA).expireBefore 1).od.holders[d] = some .portA)
    ∧ (let s := ({ admin with od := { admin.od with holders := Vector.replicate 8 (some .portB) } }).modReq .portB fun r => { r with leaseEnd := 10 ^ 9 }
       admits s 0x2010 1 [3] (.num 3) = true ∧ ((s.atWrite wA).expireBefore 1).od.holders[(0 : Fin 8)] = some .portB)
    ∧ (let s := admin.modReq .portA fun r => { r with token := 7 }
       (∀ n ∈ [7, 8], admits s 0x2010 3 (toLe 4 n) (.num n) = true ∧ admits s 0x2010 4 (toLe 4 n) (.num n) = true)
         ∧ ((s.atWrite wA).requester .portA).token = 7 ∧ ((s.atWrite wA).requester .portA).limitEnd = none)
    ∧ admin.heldMask .portA ≠ 0
    ∧ ((r0.modReq .portA fun r => { r with limitEnd := some 5 }).requester .portA).limitEnd = some 5 := by decide +kernel
theorem witness_WritesAreCheckedInOrder :
    odRowsOf 0x1234 = [] ∧ (odRowsOf 0x2100 ≠ [] ∧ odFind 0x2100 0xFF = none)
    ∧ (r0.forbidden wA 0x2100 1 = true ∧ (odFind 0x2100 1).isSome = true)
    ∧ ((admin.atWrite wA).forbidden wA 0x2100 1 = false ∧ ((odFind 0x2100 1).map (·.acc)) = some .rwe
        ∧ ((odFind 0x2100 1).map fun r => r.type.lengthOk 3) = some false
        ∧ ((odFind 0x2100 1).bind fun r => r.type.decode (zeros 4)) = some (.num 0)
        ∧ ((odFind 0x2100 1).map fun r => (admin.atWrite wA).entryRule wA r 0x2100 1 (.num 0)) = some false
        ∧ (admin.atWrite wA).holdsFor .portA 0x2100 = true)
    ∧ ({ admin with od := { admin.od with holders := Vector.replicate 8 none } }).holdsFor .portA 0x2100 = false
    ∧ ((odFind 0x2100 2).map (·.acc)) = some .ro
    ∧ admits admin 0x2100 1 (toLe 4 3333333) (.num 3333333) = true
    ∧ (let s := admin (r0.setNum 0x2900 0x0A 2)
       admits s 0x2100 1 (toLe 4 3333333) (.num 3333333) = true ∧ (s.atWrite wA).afterReadiness = true)
    ∧ (admits admin 0x3000 0x41 [1] (.num 1) = true ∧ ((odFind 0x3000 0x41).map (·.acc)) = some .rwf)
    ∧ (admits admin 0x2300 0x40 [1] (.num 1) = true ∧ ((odFind 0x2300 0x40).map (·.acc)) = some .rw) := by decide +kernel
/-- A bundle whose image is one block of zeros. -/
def bundle : Bytes := [0x10, 0, 0x16, 0x48, 0, 0x10, 0, 0] ++ toLe 4 (crc32 (zeros 4096)) ++ zeros 500 ++ zeros 3584 ++ zeros 4096
theorem witness_StagingAndTrials_staging :
    (admits admin 0x2500 3 [1] (.num 1) = true ∧ (admin.atWrite wA).updateRefusal .stage = 0 + 1)
    ∧ (let s := admin (powered r0)
       admits s 0x2500 3 [1] (.num 1) = true ∧ (s.atWrite wA).updateRefusal .stage = 0)
    ∧ (let s := r0.modFw fun x => { x with staging := some [] }
       s.fw.staging = some [] ∧ bundleFailure [] = some 0x9008) := by decide +kernel
/-- A trial runs from slot 1. -/
def trying (s : State := r0) : State := s.modFw fun w => { w with trialSince := some 5, flash := { w.flash with record0 := some { active := true, state1 := .trial } } }
theorem witness_StagingAndTrials_trials :
    (let s := admin (trying (powered r0))
     admits s 0x2500 6 [1] (.num 1) = true ∧ (s.atWrite wA).boot.find .trial = some true)
    ∧ (admits admin 0x2500 6 [1] (.num 1) = true ∧ (admin.atWrite wA).boot.find .trial = none)
    ∧ (let s := trying.setNum 0x2500 8 1
       s.fw.trialSince = some 5 ∧ s.nat 0x2500 8 ≠ 0 ∧ s.boot.find .trial = some true) := by decide +kernel
/-- An activation of slot 1 is at a step. -/
def activating (n : UpdateStep) (suspended : Bool := false) : State :=
  (powered r0).modFw fun x => { x with activation := some ⟨false, true, n, 0, suspended⟩, flash := { x.flash with image1 := zeros 16 } }
/-- A hand-off record without data. -/
def handoffOf (bank : Byte) : Bytes := [0x10, bank] ++ zeros 14
theorem witness_CoresSwitchInOrder :
    (let s := admin ((powered r0).modFw fun w => { w with flash := { w.flash with record0 := some { state1 := .staged } } })
     admits s 0x2500 5 [1] (.num 1) = true ∧ (s.atWrite wA).updateRefusal .activate = 0 ∧ (s.atWrite wA).nat 0x2000 8 ≠ 2)
    ∧ (let s := admin (trying (powered r0))
       admits s 0x2500 7 [1] (.num 1) = true ∧ (s.atWrite wA).updateRefusal .revert = 0)
    ∧ (∀ n ∈ [(1, 1), (5, 6)], let s := activating (.switching n.1)
       ((s.writeHandoff n.1 (handoffOf n.2)).switchBank n.1).takesOver ⟨false, true, .switching n.1, 0, false⟩ n.1 true = true)
    ∧ (let s := activating (.switching 6)
       s.schedulerMay = true
         ∧ ((s.writeHandoff 6 (handoffOf 2)).switchBank 6).takesOver ⟨false, true, .switching 6, 0, false⟩ 6 true = true)
    ∧ (activating (.switching 1) true).nat 0x2700 2 = 1 := by decide +kernel
/-- Isle 3 in a phase of its health. -/
def ailing (p : IslePhase) (s : State := r0) : State := s.modIsle 3 fun i => { i with health := { i.health with phase := p, reloads := [(2, false)] } }
theorem witness_IslesAreFencedAndReturn :
    (∀ p ∈ [IslePhase.available, .fenced], let s := admin (ailing p)
      admits s 0x2300 3 [3] (.num 3) = true ∧ admits s 0x2300 4 [3] (.num 3) = true ∧ ((s.atWrite wA).isles[(3 : IsleNo)]).health.phase = p
        ∧ (s.atWrite wA).someFencing = false)
    ∧ (let s := r0.modCtx 0 0 fun x => { x with phase := .running }
       (s.ctx 0 0).phase = .running ∧ s.nat 0x2700 1 = 0)
    ∧ (∀ n ∈ [1, 2], let s := (ailing .fencing).modTick fun x => { x with number := n }
       (s.isles[(3 : IsleNo)]).health.phase = .fencing ∧ (s.isles[(3 : IsleNo)]).health.fenceBegan = 0 ∧ s.tick.number = n)
    ∧ (let t := ailing .testing
       (t.isles[(3 : IsleNo)]).health.phase = .testing ∧ (t.reloadIsle 3).1 = true ∧ (2, false) ∈ (t.isles[(3 : IsleNo)]).health.reloads)
    ∧ (let img := { plan1 with adapt := [[0x10] ++ zeros 7 ++ [32] ++ zeros 55], sets := [⟨zeros 32, [], [3], 0, 0⟩] }
       let t := (ailing .testing ((adapting []).modMem fun m => { m with upsets := [(132, true)] }))
       ({ t with plans := [img] }.reloadIsle 3).1 = false)
    ∧ (let t := ailing .available
       (t.isles[(3 : IsleNo)]).health.phase ≠ .testing ∧ ((2 : Fin 12288).val, false) ∈ (t.isles[(3 : IsleNo)]).health.reloads) := by decide +kernel
theorem witness_NoticesClearAndEmcysLeave :
    admits admin 0x2600 0x11 [1] (.num 1) = true
    ∧ (let s := r0.modCan 0 fun c => { c with emcy := [⟨0x1000, 0, []⟩] }
       (s.can[(0 : CanNo)]).emcy.length = 1 ∧ (s.can[(0 : CanNo)]).canEmcy = true ∧ (s.can[(0 : CanNo)]).status ≠ .busOff) := by
  decide +kernel

/-- Owner 1 is in a phase, under a key-encryption key of zeros. -/
def owned (p : OwnerPhase) (s : State := r0) : State := s.modOwner 1 fun x => { x with phase := p, kek := some (zeros 32) }
theorem witness_OwnersKeysAndLocks :
    (admits admin 0x2800 2 [1] (.num 1) = true ∧ ((admin.atWrite wA).owners[ownerOf 1]).phase = .absent)
    ∧ ((admin (owned .active)).atWrite wA).owners[ownerOf 1].phase = .active
    ∧ (admits admin 0x2800 4 (zeros 80) (.raw (zeros 80)) = true ∧ (admin.atWrite wA).keyPlain (zeros 80) = none)
    ∧ (admits admin 0x2800 7 (zeros 32) (.raw (zeros 32)) = true ∧ (admin.atWrite wA).lockOk (zeros 32) = false) := by decide +kernel
theorem witness_OwnersKeysAndLocks_accepted :
    let t := (admin (owned .active)).atWrite wA
    t.keyPlain (wrapped 1 (zeros 32) (zeros 48)) = some (zeros 48)
      ∧ (t.lockOk (wrapped 1 (zeros 32) []) = true ∧ byteAt (wrapped 1 (zeros 32) []) 1 = 1)
      ∧ (t.lockOk (wrapped 2 (zeros 32) []) = true ∧ byteAt (wrapped 2 (zeros 32) []) 1 = 2) :=
  ⟨keyPlain_wrapped (by decide +kernel) (by decide +kernel) (by decide +kernel) (by decide) (by decide) (by decide),
    lockOk_wrapped (.inl rfl) (by decide +kernel) (by decide +kernel) (by decide),
    lockOk_wrapped (.inr rfl) (by decide +kernel) (by decide +kernel) (by decide)⟩
theorem witness_KilledOwnersAreScrubbed :
    (let s := admin (owned .active)
     admits s 0x2800 3 [1] (.num 1) = true ∧ ((s.atWrite wA).owners[ownerOf 1]).phase = .active)
    ∧ (let s := (owned .scrubbing).modTick fun x => { x with number := 2 }
       (s.owners[(1 : OwnerNo)]).phase = .scrubbing ∧ (s.owners[(1 : OwnerNo)]).overdue = false
         ∧ (s.owners[(1 : OwnerNo)]).killedAt + 2 ≤ s.tick.number) := by decide +kernel
theorem witness_SamplesAreChargedAndIntervalsClose : r0.ledgerRuns = true ∧ r0.ledger.frozen = false := by decide +kernel
theorem witness_PowerFailsShedAndRecover :
    (∀ n : Fin 3, (r0.setNum 0x2700 2 n).nat 0x2700 2 = n) ∧ ((powered.setNum 0x2700 2 2).raise 0xC001).nat 0x2700 1 ≠ 1 := by
  decide +kernel
theorem witness_TemperatureLimitsAndTrips :
    (∀ n : Fin 2, (r0.setNum 0x2700 3 n).nat 0x2700 3 = n)
    ∧ (∀ x ∈ r0.power.others, ¬ r0.thermTarget < x) ∧ (∀ k : IsleNo, r0.num 0x2700 (0x20 + k.val) ≤ r0.thermTarget)
    ∧ (let s := r0.modIsle 3 fun i => { i with health := { i.health with hotSince := some 5 } }
       (s.isles[(3 : IsleNo)]).health.hotSince = some 5 ∧ (s.isles[(3 : IsleNo)]).health.hotAsked = false) := by decide +kernel
theorem witness_RailsAreWatchedAndJtagLoads :
    (let now := (List.range 8).map (0xFF : BitVec 8).getLsbD
     (∀ i, i < 8 → (countRuns r0.power.railBad (now.map (!·))).getD i 0 < 10 ∧ (countRuns r0.power.railGood now).getD i 0 < 1000)
       ∧ r0.nat 0x2700 0x30 = 0)
    ∧ r0.power.straps.boot ≠ 3
    ∧ (r0.modPower fun p => { p with straps := { p.straps with boot := 3 } }).power.straps.boot = 3 := by decide +kernel

/-- A command is queued on the device after reset. -/
def queued : State := { r0 with pending := [.tickOutPulse] }
theorem witness_StepsRunTheFrontCommand : queued.pending = [.tickOutPulse] ∧ r0.pending = [] := ⟨rfl, rfl⟩
theorem witness_TrippedDevicesWaitForReset :
    (r0.modPower fun p => { p with tripped := true }).power.tripped = true
      ∧ ∀ st trained fails, Instr.tickOutPulse ≠ .deviceReset st trained fails := ⟨rfl, by simp⟩
theorem witness_StepsKeep : (∃ t, step queued = .next t) ∧ queued.Isolated ∧ queued.Canonical := by
  refine ⟨⟨_, rfl⟩, ⟨?_, ?_⟩, ⟨?_, ?_⟩⟩
  · intro o n
    simp [queued, r0, State.reset, Window.Legal]
  · intro o p _ n m
    simp [queued, r0, State.reset, Window.Apart]
  · simp [queued, r0, State.reset, MemState.Canonical, Memory.wf, Stored]
  · intro k
    simp [queued, r0, State.reset, Scratchpad.Canonical, Memory.wf, Stored]
theorem witness_OwnersReadBackWhatTheyWrite : (r0.owners[(0 : OwnerNo)]).memKey ≠ 0 := by decide +kernel
theorem witness_ScratchpadWordsKeepTheirOwner :
    inboundWord.isle = 0 ∧ inboundWord.op = .plain ∧ inboundWord.bytes.length = 32
    ∧ (let s := r0.modIsle 0 fun i => { i with sp := { i.sp with tags := [(5, 1)] } }
       (s.isles[(0 : IsleNo)]).sp.flips 5 = [] ∧ (s.isles[(0 : IsleNo)]).sp.tag 5 = 1) := by decide +kernel
theorem witness_FrameNumbersCompareModulo : (0 : Nat) < 2 ^ 32 ∧ (2 ^ 31 : Nat) < 2 ^ 32 ∧ (2 ^ 31 + (2 ^ 32 - 0)) % 2 ^ 32 = 2 ^ 31 := by
  decide

end Sys2Proof.Tests
end

section
/-! The scope of the model: what a step does with the queue (log entries 1 and 2), the device right after reset, and the comparison of
frame numbers (spec/00_scope.md R11). -/

namespace Sys2Proof.Machine

/-! ### A step and the queue -/

theorem step_of_pending_cons {s : State} {c : Instr} {rest : List Instr} (h : s.pending = c :: rest) :
    step s = exec c { s with pending := rest } := by
  unfold step
  rw [h]

theorem step_of_pending_nil {s : State} (h : s.pending = []) : step s = .next (s.at_ (s.now + 1)) := by
  unfold step
  rw [h]

/-- The clock that moves forward counts the cycles it moves by on the wait counters of every isle. -/
theorem State.at_of_lt {s : State} {t : Nat} (h : s.now < t) :
    s.at_ t = { s with now := t, isles := s.isles.map (·.waited (t - s.now)) } := if_pos h

/-- Settles O49, by the equation of `step` on a queue that holds a command. -/
theorem stepsRunTheFrontCommand : Obligations.StepsRunTheFrontCommand :=
  fun _ _ _ h => step_of_pending_cons h

/-- Settles O50: the idle step moves the clock by one cycle, and a clock that moves is counted by the isles. -/
theorem emptyQueuesIdle : Obligations.EmptyQueuesIdle := by
  intro s hq
  rw [step_of_pending_nil hq, State.at_of_lt (Nat.lt_add_one s.now), Nat.add_sub_cancel_left]

/-! ### The device right after reset -/

theorem Stored.nil {α : Type} (d : α) : Stored d [] := ⟨.nil, by simp⟩

theorem MemState.empty_canonical {m : MemState} (hc : m.cells = []) (hk : m.keys = []) (he : m.eth = []) : m.Canonical := by
  unfold MemState.Canonical
  rw [hc, hk, he]
  exact ⟨Stored.nil 0, Stored.nil 0, Stored.nil 0⟩

theorem State.isolated_of_windows_empty {s : State} (h : ∀ (o : OwnerNo) (n : Fin 64), s.windows[o][n] = {}) : s.Isolated := by
  constructor
  · intro o n
    rw [h o n]
    exact Window.legal_empty _
  · intro o p _ n m
    rw [h o n]
    exact Window.apart_empty _

theorem State.reset_window (o : OwnerNo) (n : Fin 64) : State.reset.windows[o][n] = {} := by simp [State.reset]

theorem State.reset_isle (k : IsleNo) : State.reset.isles[k] = {} := by simp [State.reset]

theorem State.reset_isolated : State.reset.Isolated := State.isolated_of_windows_empty State.reset_window

theorem State.reset_canonical : State.reset.Canonical := by
  constructor
  · exact MemState.empty_canonical rfl rfl rfl
  · intro k
    rw [State.reset_isle k]
    exact Scratchpad.empty_canonical rfl rfl

/-- Settles O52: after reset no owner has a window and every store is empty. -/
theorem resetLeavesWindowsAndStoresSafe : Obligations.ResetLeavesWindowsAndStoresSafe :=
  ⟨State.reset_isolated, State.reset_canonical⟩

/-! ### Frame numbers (R11) -/

theorem laterFrame_iff {a b : Nat} (hb : b < 2 ^ 32) :
    laterFrame a b = true ↔ 1 ≤ (a + (2 ^ 32 - b)) % 2 ^ 32 ∧ (a + (2 ^ 32 - b)) % 2 ^ 32 ≤ 2 ^ 31 - 1 := by
  have hd : a + 2 ^ 32 - b % 2 ^ 32 = a + (2 ^ 32 - b) := by omega
  simp only [laterFrame, hd, Bool.and_eq_true, decide_eq_true_eq]
  omega

theorem not_laterFrame_of_half {a b : Nat} (hb : b < 2 ^ 32) (h : (a + (2 ^ 32 - b)) % 2 ^ 32 = 2 ^ 31) : laterFrame a b = false := by
  rw [Bool.eq_false_iff, ne_eq, laterFrame_iff hb, h]
  decide

/-- Half the range away in one direction is half the range away in the other. -/
theorem frameDistance_half_swap {a b : Nat} (ha : a < 2 ^ 32) (hb : b < 2 ^ 32) (h : (a + (2 ^ 32 - b)) % 2 ^ 32 = 2 ^ 31) :
    (b + (2 ^ 32 - a)) % 2 ^ 32 = 2 ^ 31 := by omega

/-- Settles O60: the comparison is the spec's condition on the distance, and a distance of 2^31 is the same both ways. -/
theorem frameNumbersCompareModulo : Obligations.FrameNumbersCompareModulo := by
  intro a b ha hb
  refine ⟨laterFrame_iff hb, fun h => ⟨?_, ?_⟩, ?_⟩
  · exact not_laterFrame_of_half hb h
  · exact not_laterFrame_of_half ha (frameDistance_half_swap ha hb h)
  · exact (laterFrame_iff (by decide)).mpr (by decide)

end Sys2Proof.Machine
end

section
/-! Which way every command goes: what it keeps of the queue, the draws and the trace, and what it leaves of the clock and the tick
(spec/02_tick.md R38, R41; spec/18_firmware_and_update.md R489). -/

namespace Sys2Proof.Machine

/-- The commands that open a tick or may restart the device (R41, R489): a boundary, a reset, and an activation that is written, relayed,
or held through a pause that the command ends. -/
def movesTick : Instr → Bool
  | .tickBoundary .. | .deviceReset .. | .activate .. | .odEntryWrite .. | .relayRequest .. | .activationCoreSwitch ..
  | .pfwAsserted .. | .railMonitorSample .. => true
  | _ => false

/-- An answer whose next state goes on from `s`; with `cl`, the clock and the tick as well. -/
def Answer.Goes (cl : Bool) (s : State) (a : Answer) : Prop := ∀ t, a = .next t → s.Goes cl t

theorem next_goes {cl : Bool} {s t : State} (h : s.Goes cl t) : Answer.Goes cl s (.next t) := by
  rintro u ⟨⟩
  exact h

/-- After a trip a command changes nothing, so an answer goes on where its work does (R557). -/
theorem live_goes {cl : Bool} {s t : State} (h : s.Goes cl t) : Answer.Goes cl s (live s t) :=
  next_goes (.ite (fun _ => .refl s) fun _ => h)

theorem State.modTick_flows (s : State) (f : TickState → TickState) : s.Flows (s.modTick f) :=
  ⟨rfl, le_refl _, List.prefix_refl _, id, id⟩

/-- A boundary goes on with all but the tick: so does the work before and after it, and between them only the tick changes (R41). -/
theorem State.boundary_goes_but_tick (s : State) (prog : Option Programme) : s.Goes false (s.boundary prog) := by
  obtain ⟨before, after⟩ := State.boundary_goes s prog
  exact before.weaken.trans (.trans ⟨State.modTick_flows _ _, nofun, nofun⟩ after.weaken)

/-- Every command goes on from the state it meets, and only those of `movesTick` touch the tick or the clock's direction. Its work starts
from that state (`now`) or from that state at a later instant (`later`). -/
theorem exec_goes (c : Instr) (s : State) : Answer.Goes (!movesTick c) s (exec c s) := by
  have now {cl} : s.Goes cl s := .refl s
  have later {cl n} : s.Goes cl (s.at_ n) := State.atCycle_goes now
  cases c with
  -- The tick (spec/02_tick.md)
  | tickBoundary prog => exact live_goes (State.pump_goes (State.boundary_goes_but_tick s prog))
  | staggerSlotOpen => exact live_goes (State.openStagger_goes now)
  | slewGovernorWindow => exact live_goes (State.slewWindow_goes now)
  | tickOutPulse => exact live_goes (State.tickOut_goes now)
  | tickinEdge => exact live_goes (State.tickinEdge_goes later)
  | tickinWindowClose =>
    refine live_goes ?_
    split
    · exact State.closeWindow_goes later
    · exact now
  | resyncCommand => exact live_goes (State.odRun_goes now fun _ _ _ h => resyncAct_goes h)
  | borrowDeadline =>
    refine live_goes ?_
    split
    · exact State.pump_goes (State.lateAtDeadline_goes later)
    · exact now
  | frameDone => exact live_goes (State.pump_goes (State.frameDone_goes later))
  -- Raw ingest (03_raw_ingest.md)
  | camFvRise => exact live_goes (State.fvRise_goes later)
  | camFvFall => exact live_goes (State.fvFall_goes later)
  | inlineLine => exact live_goes (State.lineEnd_goes later)
  | inlineClockLoss | inlineStuck | inlineLineGap => exact live_goes (.ite (fun _ => State.breakInline_goes later) fun _ => now)
  | brokenRearm => exact live_goes (.ite (fun _ => State.modInline_goes later) fun _ => now)
  | stripeDatagram => exact live_goes (State.stripeDatagram_goes later)
  | reorderGraceExpiry | silenceTimeoutExpiry | streamForget => exact live_goes (State.runTimer_goes now)
  -- The fixed front (04_fixed_front.md)
  | frontStripe => exact live_goes (State.frontStripe_goes later)
  | frontImageWrite | defectListWrite => exact live_goes (State.odRun_goes now fun _ _ _ h => frontAct_goes h)
  | loadDefaults => exact live_goes (State.odRun_goes now fun _ _ _ h => loadDefaultsAct_goes h)
  -- Stages (05_neural_stages.md)
  | planWrite => exact live_goes (State.odRun_goes (State.loadPlan_goes now) fun _ _ _ h => planAct_goes h)
  | analysisPlanWrite => exact live_goes (State.odRun_goes (State.loadPlan_goes now) fun _ _ _ h => analysisAct_goes h)
  | epochApply => exact live_goes (State.epochIfDue_goes now)
  | stageStripeStart => exact live_goes (State.startStripe_goes later)
  | stageStripeComplete => exact live_goes (State.completeStripe_goes (State.applyMemUpsets_goes later))
  | forceWarming => exact live_goes (State.odRun_goes now fun _ _ _ h => forceWarmingAct_goes h)
  -- Outputs and analysis (06_outputs_and_analysis.md)
  | formatterStripe => exact live_goes (State.formatStripe_goes later)
  | analysisStart => exact live_goes (State.startAnalysis_goes later)
  | resultTransmit => exact live_goes (State.transmitResult_goes later)
  -- Tile ops: the op at the head of a context's queue (07_isle.md, 09_operators.md)
  | nop => exact live_goes (State.opNop_goes now)
  | claim => exact live_goes (State.opClaim_goes now)
  | blockEnd => exact live_goes (State.opBlockEnd_goes now)
  | fence => exact live_goes (State.opFence_goes now)
  | wait => exact live_goes (State.opWait_goes now)
  | setix => exact live_goes (State.opSetix_goes now)
  | halt => exact live_goes (State.opHalt_goes now)
  | setseed => exact live_goes (State.opSetseed_goes now)
  | conv | convBwd | wgrad | skConv | skConvBwd | vecEltAdd | vecEltSub | vecEltMul | vecEltMax | vecEltMin | vecEltRequant
  | vecEltAbsdiff | vecEltCopy | vecLut8 | vecLut16 | vecPoolMax | vecPoolAvg | vecResampleNearest | vecResampleBilinear
  | vecRotateForward | vecRotateInverse | vecReduceSum | vecReduceSumsq | vecOptimMoment1 | vecOptimMoment2 | vecOptimMaster =>
    exact live_goes (State.workRow_goes now)
  | vecBoxdecIntake => exact live_goes (State.opIntake_goes now)
  | vecBoxdecSuppress => exact live_goes (State.opSuppress_goes now)
  | vecArgmax => exact live_goes (State.opArgmax_goes now)
  -- Contexts (07_isle.md)
  | tileOpResume => exact live_goes (State.resumeCtx_goes now)
  | contextWaitLimit => exact live_goes (State.waitLimit_goes now)
  | contextEnable => exact live_goes (State.ctrlWrite_goes now)
  | contextStop => exact live_goes (State.stopCtx_goes now)
  | contextReset => exact live_goes (State.modCtx_goes now)
  | opPush => exact live_goes (.ite (fun _ => State.pushOp_goes now) fun _ => now)
  -- Tile counters (11_tiling_and_streaming.md)
  | counterConfigWrite => exact live_goes (State.counterWrite_goes now)
  | counterOpen => exact live_goes (State.counterOpen_goes now)
  | counterArm => exact live_goes (State.counterArm_goes now)
  | counterClose => exact live_goes (State.counterClose_goes now)
  | counterReset => exact live_goes (State.counterReset_goes now)
  | counterRequeue => exact live_goes (State.counterRequeue_goes now)
  | counterArmedOpen => exact live_goes (.ite (fun _ => State.openCounter_goes now) fun _ => now)
  -- Scratchpads, atolls, straits (10_scratchpad.md)
  | spAttrWrite => exact live_goes (State.attrWrite_goes now)
  | spFormatComplete => exact live_goes (State.formatDone_goes now)
  | scrubRow => exact live_goes (State.scrub_goes now)
  | scrubDeadline => exact live_goes (State.scrub_goes later)
  | atollEnable => exact live_goes (State.atollEnable_goes now)
  | atollDisable => exact live_goes (State.atollDisable_goes now)
  | remoteLink => exact live_goes (State.linkRequest_goes now)
  | linkAnswer => exact live_goes (State.linkAnswer_goes now)
  | remoteUnlink => exact live_goes (State.unlink_goes now)
  | straitWriteArrival => exact live_goes (State.arrive_goes now)
  | straitReadRequest => exact live_goes (State.remoteReads_goes now)
  | slotCreditReturn => exact live_goes (State.creditReturn_goes now)
  | wakeNotice => exact live_goes (State.wakeNotice_goes now)
  | remoteRetry => exact live_goes (State.retry_goes now)
  -- Movers (12_movers_and_regions.md)
  | dmaShadowWrite => exact live_goes (onChan_goes now fun _ h => State.shadowWrite_goes h)
  | dmaEnable => exact live_goes (onChan_goes now fun _ h => State.chanCtrl_goes h)
  | dmaTransferStart => exact live_goes (State.startTransfer_goes now)
  | dmaTransferComplete => exact live_goes (State.completeTransfer_goes now)
  | dmaArrival => exact live_goes (onChan_goes now fun _ h => State.arriveTransfer_goes h)
  | dmaPause => exact live_goes (onChan_goes now fun _ h => State.pauseChan_goes h)
  | dmaPaused => exact live_goes (onChan_goes now fun _ h => State.chanPaused_goes h)
  | dmaResume => exact live_goes (onChan_goes now fun _ h => State.resumeChan_goes h)
  | dmaAbort => exact live_goes (onChan_goes now fun _ h => State.abortChan_goes h)
  | dmaReset => exact live_goes (onChan_goes now fun _ h => State.modChan_goes h)
  | dmaWaitLimit => exact live_goes (onChan_goes now fun _ h => State.chanWaitLimit_goes h)
  | windowWrite => exact live_goes (State.windowWrite_goes now)
  -- External memory (14_memory_codec_encryption.md)
  | codecWindowWrite => exact live_goes (State.codecWindowWrite_goes now)
  | memPatrol => exact live_goes (State.patrol_goes now)
  -- Adaptation (13_adaptation.md)
  | sampleCapture => exact live_goes (State.capture_goes now)
  | adaptStepStart => exact live_goes (State.stepStart_goes now)
  | adaptStepCommit => exact live_goes (State.stepCommit_goes now)
  | adaptResetCommand => exact live_goes (State.odRun_goes now fun _ _ _ h => adaptResetAct_goes h)
  -- The system (15_system.md)
  | managerElection => exact live_goes (State.election_goes now)
  | beaconTransmit => exact live_goes (State.sendBeacons_goes now)
  | beacon => exact live_goes (State.beaconCame_goes later)
  | beaconWindowExpiry => exact live_goes (State.beaconMissed_goes now)
  | managerTakeover => exact live_goes (State.takeover_goes now)
  | isolated => exact live_goes (State.isolate_goes now)
  | memberLost => exact live_goes (State.dropMember_goes now)
  | join => exact live_goes (State.joinCame_goes later)
  | joinAccept => exact live_goes (State.joinAnswered_goes later)
  | digestSend => exact live_goes (State.sendDigest_goes now)
  | digest => exact live_goes (State.digestCame_goes later)
  | digestCompare => exact live_goes (State.compareDigests_goes now)
  | epochSchedule | epochCancel => exact live_goes (State.odRun_goes now fun _ _ _ h => epochAct_goes h)
  | streamPlacement => exact live_goes (State.place_goes now)
  | epochReadinessClose => exact live_goes (State.closeReadiness_goes now)
  | rereadMember => exact live_goes (State.odRun_goes now fun _ _ _ h => rereadAct_goes h)
  | data => exact live_goes (State.pump_goes (State.dataCame_goes later))
  | ack => exact live_goes (State.ackCame_goes later)
  | ackPeriodic => exact live_goes (State.ackAgain_goes now)
  | causewayRetransmit => exact live_goes (State.pump_goes (State.retransmit_goes now))
  | flowResetSend => exact live_goes (State.sendFlowReset_goes now)
  | flowReset => exact live_goes (State.pump_goes (State.flowResetCame_goes later))
  | relayRequest => exact live_goes (State.pump_goes (State.requestCame_goes later))
  | relayResponse => exact live_goes (State.answerCame_goes later)
  | relayTimeout => exact live_goes (State.relayLate_goes now)
  -- Ethernet (16_ethernet.md)
  | ethLinkUp => exact live_goes (State.linkComesUp_goes later)
  | ethLinkDown => exact live_goes (State.linkGoesDown_goes later)
  | ethUnsupportedFrame => exact live_goes (State.unsupported_goes now)
  | arpRequest => exact live_goes (State.arpAsked_goes now)
  | ndMessage => exact live_goes (State.ndCame_goes now)
  | icmpEchoRequest => exact live_goes (State.echoAsked_goes now)
  | multicastQuery => exact live_goes (State.queryCame_goes now)
  | pfcFrame => exact live_goes (State.pfcCame_goes later)
  | pfcRefresh => exact live_goes (State.refreshPfc_goes now)
  | pfcWatchdog => exact live_goes (State.pfcWatchdog_goes now)
  | stopCommand => exact live_goes (State.stopCame_goes later)
  | releaseCommand => exact live_goes (State.releaseCame_goes later)
  | stopHoldExpiry => exact live_goes (State.holdEnds_goes now)
  | ptpEventMessage => exact live_goes (State.ptpCame_goes later)
  | ptpHoldover => exact live_goes (State.ptpHoldover_goes now)
  -- Object dictionary and control ports (17_object_dictionary.md)
  | odEntryWrite => exact live_goes (State.odWrite_goes now)
  | nmtStart | nmtStop | nmtEnterPreoperational => exact live_goes (State.nmt_goes later fun _ h => State.setNmt_goes h)
  | nmtResetCommunication => exact live_goes (State.nmt_goes later fun _ h => State.resetCommunication_goes h)
  | heartbeatProduce => exact live_goes (State.produceHeartbeat_goes now)
  | heartbeatReceive => exact live_goes (State.heardHeartbeat_goes later)
  | heartbeatLapse => exact live_goes (State.heartbeatLapses_goes now)
  | canBusOff | canErrorPassive => exact live_goes (State.setCan_goes later)
  | usdoForeignClient => exact live_goes (State.foreign_goes later)
  | supervisorVersionWrite => exact live_goes (State.odRun_goes now fun _ _ _ h => versionAct_goes h)
  | startService => exact live_goes (State.odRun_goes now fun _ _ _ h => startAct_goes h)
  | storeParameters => exact live_goes (State.odRun_goes now fun _ _ _ h => storeAllAct_goes h)
  | restoreDefaults => exact live_goes (State.odRun_goes now fun _ _ _ h => restoreAct_goes h)
  | semaphoreClaim =>
    refine live_goes ?_
    split
    · exact State.odRun_goes now fun _ _ _ h => claimAct_goes h
    · exact State.odRun_goes now fun _ _ _ h => claimAct_goes h
    · exact State.claimTie_goes now
  | semaphoreRelease => exact live_goes (State.odRun_goes now fun _ _ _ h => releaseAct_goes h)
  | semaphoreRenew => exact live_goes (State.odRun_goes now fun _ _ _ h => renewAct_goes h)
  | leaseExpiry => exact live_goes (State.leaseEnds_goes now)
  | tokenRateLimitEnd => exact live_goes (State.limitEnds_goes now)
  -- Reset, firmware and update (18_firmware_and_update.md)
  | deviceReset => exact next_goes (State.restart_goes now)
  | stageFromSd => exact live_goes (State.odRun_goes now fun _ _ _ h => stageAct_goes h)
  | stagingComplete => exact live_goes (State.endStaging_goes later)
  | sdCardRemoved => exact live_goes (State.cardRemoved_goes later)
  | activate => exact live_goes (State.odRun_goes now fun _ _ _ h => activateAct_goes h)
  | activationCoreSwitch => exact live_goes (State.pump_goes (State.answerHeld_goes (State.coreSwitch_goes later)))
  | schedulerCoreSwitch => exact live_goes (State.schedulerSwitch_goes later)
  | activationResume => exact live_goes (State.resumeActivation_goes now)
  | confirm => exact live_goes (State.odRun_goes now fun _ _ _ h => confirmAct_goes h)
  | autoConfirm => exact live_goes (State.autoConfirm_goes now)
  | revert => exact live_goes (State.odRun_goes now fun _ _ _ h => revertAct_goes h)
  -- Faults, fencing and events (19_faults_and_availability.md)
  | fenceCommand => exact live_goes (State.odRun_goes now fun _ _ _ h => fenceAct_goes h)
  | isleHang => exact live_goes (State.hang_goes now)
  | fenceComplete => exact live_goes (State.completeFence_goes now)
  | unfenceCommand => exact live_goes (State.odRun_goes now fun _ _ _ h => unfenceAct_goes h)
  | isleUnfenced => exact live_goes (State.endUnfence_goes later)
  | weightsReloaded => exact live_goes (State.reloadRow_goes later)
  | clearRingNotice => exact live_goes (State.odRun_goes now fun _ _ _ h => clearNoticeAct_goes h)
  | emcyTransmit => exact live_goes (State.sendEmcy_goes now)
  | eventLogPoll => exact live_goes (State.pollEvents_goes now)
  -- Owners and the ledger (20_owners_and_ledger.md)
  | createOwner => exact live_goes (State.odRun_goes now fun _ _ _ h => createAct_goes h)
  | keyLoad => exact live_goes (State.odRun_goes now fun _ _ _ h => keyLoadAct_goes h)
  | ownerLockSet | ownerLockClear => exact live_goes (State.odRun_goes now fun _ _ _ h => lockAct_goes h)
  | killJob => exact live_goes (State.pump_goes (State.odRun_goes now fun _ _ _ h => killAct_goes h))
  | scrubComplete => exact live_goes (State.completeScrub_goes later)
  | scrubOverdue => exact live_goes (State.overdueScrub_goes now)
  | ledgerSample => exact live_goes (State.energySample_goes later)
  | intervalClosed => exact live_goes (State.intervalEnds_goes now)
  -- Power, thermal limits (21_power_thermal_pins.md)
  | powerGood => exact live_goes (State.powerGood_goes later)
  | pfwAsserted => exact live_goes (State.pump_goes (State.answerHeld_goes (State.pfwAsserted_goes later)))
  | pfwDeasserted => exact live_goes (State.pfwDeasserted_goes later)
  | thermAsserted => exact live_goes (State.thermAsserted_goes later)
  | thermDeasserted => exact live_goes (State.thermDeasserted_goes later)
  | thermalSample => exact live_goes (State.sampleTemps_goes later)
  | thermalLimitStep => exact live_goes (State.limitStep_goes later)
  | isleThermal => exact live_goes (State.isleThermal_goes now)
  | railMonitorSample => exact live_goes (State.pump_goes (State.answerHeld_goes (State.sampleRails_goes later)))
  -- Further rows of the table
  | atollNoticeClear => exact live_goes (State.noticeClear_goes now)
  | canErrorActive => exact live_goes (State.setCan_goes later)
  | arpReply => exact live_goes (State.arpAnswered_goes now)
  | relayLeaseRenewal => exact live_goes (State.renewClaim_goes now)
  | jtagInstruction => exact live_goes (State.jtagLoad_goes now)

/-- Settles O55: a step runs its command on the rest of the queue, and every command goes on from there. -/
theorem stepsOnlyMoveForward : Obligations.StepsOnlyMoveForward := by
  intro s t h
  cases hq : s.pending with
  | nil =>
    rw [step_of_pending_nil hq] at h
    cases h
    obtain ⟨queue, draws, trace, -, -⟩ := (State.atCycle_goes (cl := true) (.refl s) : s.Goes true (s.at_ (s.now + 1))).flows
    exact ⟨queue.trans hq, draws, trace⟩
  | cons c rest =>
    rw [step_of_pending_cons hq] at h
    obtain ⟨queue, draws, trace, -, -⟩ := (exec_goes c _ t h).flows
    exact ⟨queue, draws, trace⟩

/-- Settles O56: of the commands only those of `movesTick` may fail to keep the tick, and the hypotheses leave none of them. -/
theorem onlyBoundariesMoveTheTick : Obligations.OnlyBoundariesMoveTheTick := by
  intro c s t h hBoundary hReset hActivate hWrite hRelay hSwitch hPfw hRail
  have keeps : (!movesTick c) = true := by
    unfold movesTick
    split
    · exact absurd rfl (hBoundary _)
    · exact absurd rfl (hReset _ _ _)
    · exact absurd rfl (hActivate _ _)
    · exact absurd rfl (hWrite _ _ _ _ _)
    · exact absurd rfl (hRelay _ _ _ _ _)
    · exact absurd rfl (hSwitch _ _ _)
    · exact absurd rfl (hPfw _ _)
    · exact absurd rfl (hRail _ _ _)
    · rfl
  have goes := exec_goes c s t h
  obtain ⟨number, boundary⟩ := goes.tick keeps
  exact ⟨number, boundary, goes.time keeps⟩

end Sys2Proof.Machine
end

section
/-! The tick's pins, stagger and slew, and the end of frames (spec/02_tick.md R43 to R45, R51 to R55). -/

namespace Sys2Proof.Machine

/-! ### TICK_IN (R51, R52) -/

theorem State.modTick_nat (s : State) (f : TickState → TickState) (i n : Nat) : (s.modTick f).nat i n = s.nat i n := rfl

/-- The window in force takes an edge up to its end. -/
theorem State.closePast_of_le {s : State} {w : EdgeWindow} {t : Int} (hw : s.tick.window = some w) (h : t ≤ s.windowEnd w) :
    s.closePast t = s := by
  simp only [State.closePast, hw, if_neg (not_lt.mpr h)]

/-- An edge of the selected direction between two long levels, in a window that has found none, is the edge of that window. -/
theorem State.tickinEdge_counts {s : State} {w : EdgeWindow} {after : Nat} {falling : Bool} (hsrc : s.tick.sync ≠ .internal)
    (hbefore : s.tick.pinAt + 3 ≤ s.now) (hafter : 3 ≤ after) (hdir : falling = (s.nat 0x2100 5 == 1)) (hw : s.tick.window = some w)
    (hfound : w.found = false) (hstart : w.start < s.now + s.num 0x2100 4) (hend : (s.now : Int) ≤ s.windowEnd w) :
    s.tickinEdge after falling = (s.modTick fun t => { t with pinAt := s.now }).edgeAt w s.now := by
  have hlevels : ¬ (s.now - s.tick.pinAt < 3 ∨ after < 3) := by omega
  have hopen : (s.modTick fun t => { t with pinAt := s.now }).closePast s.now = s.modTick fun t => { t with pinAt := s.now } :=
    State.closePast_of_le (w := w) hw hend
  simp only [State.tickinEdge, State.modTick_tick, State.modTick_now, State.modTick_nat, modTick_num, hopen, hw, hsrc, hlevels, ← hdir,
    bne_self_eq_false, hfound, not_le.mpr hstart, if_false, Bool.false_eq_true]

/-- What an edge in its window leaves: the window has its edge, the counts and the sync state move, and the phase error is shown. -/
theorem State.edgeAt_spec (s : State) (w : EdgeWindow) (t : Int) :
    (s.edgeAt w t).tick.window = some { w with found := true } ∧ (s.edgeAt w t).tick.edges = s.tick.edges + 1
      ∧ (s.edgeAt w t).tick.missing = 0 ∧ (s.edgeAt w t).num 0x2100 8 = t + s.num 0x2100 4 - w.boundary
      ∧ (s.edgeAt w t).tick.sync =
          if s.tick.sync = .holdover ∨ (s.tick.sync = .acquiring ∨ s.tick.sync = .freeRun) ∧ 3 ≤ s.tick.edges then .locked
          else s.tick.sync := by
  unfold State.edgeAt
  extract_lets e n was locks found shown
  have hlocks : locks = true ↔
      s.tick.sync = .holdover ∨ (s.tick.sync = .acquiring ∨ s.tick.sync = .freeRun) ∧ 3 ≤ s.tick.edges := by
    simp [locks, was, n]
  have hshown : shown.tick = found.tick := by
    simp only [shown, State.setNum_tick]
    split
    · exact State.raise_tick ..
    · rfl
  have hsync : found.tick.sync =
      if s.tick.sync = .holdover ∨ (s.tick.sync = .acquiring ∨ s.tick.sync = .freeRun) ∧ 3 ≤ s.tick.edges then .locked
      else s.tick.sync := by
    simp only [← hlocks]
    rfl
  split <;>
    exact ⟨congrArg (·.window) hshown, congrArg (·.edges) hshown, congrArg (·.missing) hshown, num_setNum_same ..,
      (congrArg (·.sync) hshown).trans hsync⟩

/-- A window that closes without an edge is a missing pulse. -/
theorem State.closeWindow_misses {s : State} {w : EdgeWindow} (hw : s.tick.window = some w) (hfound : w.found = false) :
    s.closeWindow.tick.missing = min 255 (s.tick.missing + 1) ∧ s.closeWindow.tick.edges = 0
      ∧ s.closeWindow.tick.lost = s.tick.lost + 1
      ∧ s.closeWindow.tick.sync =
          if s.tick.lost = 7 ∧ (s.tick.sync = .acquiring ∨ s.tick.sync = .holdover ∨ s.tick.sync = .locked) then .freeRun
          else if s.tick.sync = .locked then .holdover else s.tick.sync := by
  simp only [State.closeWindow, hw, hfound, Bool.false_eq_true, if_false]
  by_cases hlost : s.tick.lost = 7
  · cases hsync : s.tick.sync <;> simp [hlost, hsync, bumpSat8]
  · simp [hlost, bumpSat8]

/-- Settles O15: an edge that counts is the edge of its window, and a window that closes without one is a missing pulse. -/
theorem tickInIsFollowed : Obligations.TickInIsFollowed := by
  constructor
  · intro s at_ after falling w hrun v hsrc hbefore hafter hdir hw hfound hstart hend
    obtain ⟨hwin, hedges, hmiss, herr, hsync⟩ := (v.modTick fun t => { t with pinAt := v.now }).edgeAt_spec w v.now
    refine ⟨_, live_of_running hrun, ?_⟩
    rw [State.tickinEdge_counts hsrc hbefore hafter hdir hw hfound hstart hend]
    refine ⟨hwin, hedges, hmiss, herr, ?_⟩
    rw [hsync]
    simp only [State.modTick_tick]
    refine ⟨fun h n => ?_, fun h n => ?_, fun h => ?_, fun h => ?_⟩
    · simp [h, not_le.mpr n]
    · simp [h, n]
    · simp [h]
    · simp [h]
  · intro s w hrun hw hfound
    have hw' : (s.at_ (s.windowEnd w).toNat).tick.window = some w := by rw [State.at_tick, hw]
    obtain ⟨hmiss, hedges, hlost, hsync⟩ := State.closeWindow_misses hw' hfound
    simp only [State.at_tick] at hmiss hedges hlost hsync
    refine ⟨_, live_of_running hrun, ?_⟩
    simp only [hw]
    refine ⟨hmiss, hedges, hlost, fun h n => ?_, fun h n => ?_, fun h n => ?_⟩
    · simp [hsync, h, n]
    · rcases h with h | h <;> simp [hsync, h, n]
    · rcases h with h | h <;> simp [hsync, h, n]

/-! ### TICK_OUT (R53) -/

/-- The pin is high while the clock is in the pulse, on a device that drives it. -/
theorem State.tickOutPin_iff {s : State} {rise fall : Nat} (h : s.tick.pulse = some (rise, fall)) :
    s.tickOutPin = true ↔ s.nat 0x2100 0x0B ≠ 0 ∧ rise ≤ s.now ∧ s.now < fall := by
  simp [State.tickOutPin, h]

/-! ### Stagger and slew (R43 to R45) -/

/-- A closed slot of an isle in service opens, on a device that does not shed (R43). -/
theorem State.openStagger_of_closed {s v : State} {k : IsleNo} (hv : s.at_ (s.tick.boundary + 400 * k.val) = v)
    (hclosed : (v.isles[k]).slotOpen = false) (hphase : (v.isles[k]).health.phase = .available) (hshed : v.nat 0x2700 1 = 0) :
    s.openStagger k = v.modIsle k fun i => { i with slotOpen := true, slotOpenAt := v.now } := by
  have hserves : ¬ ((v.isles[k]).slotOpen = true ∨ (v.isles[k]).health.phase = .fenced ∨ (v.isles[k]).health.phase = .testing
      ∨ v.nat 0x2700 1 ≠ 0) := by
    rw [hclosed, hphase, hshed]
    decide
  unfold State.openStagger
  rw [hv]
  exact if_neg hserves

theorem State.grants_length_le {s : State} (h : s.nat 0x2700 1 = 0) : s.grants.length ≤ 4 := by
  simp only [State.grants, h, ne_eq, not_true_eq_false, if_false]
  exact List.length_take_le ..

/-- A window of the governor moves the granted isles by one eighth each, the others not at all. -/
theorem State.slewWindow_spec (s : State) :
    let v := s.at_ (s.tick.windowAt + 50)
    s.slewWindow.tick.windowAt = v.now ∧ s.slewWindow.tick.granted = v.grants.length
      ∧ ∀ k : IsleNo, (s.slewWindow.isles[k]).activity = if k ∈ v.grants then
          (if (v.isles[k]).activity < v.supplied k then (v.isles[k]).activity + 1 else (v.isles[k]).activity - 1)
        else (v.isles[k]).activity := by
  intro v
  obtain ⟨hod, hnow, hisles⟩ := null_each allIsles v
  refine ⟨?_, rfl, fun k => ?_⟩
  · exact (each_modIsle_now v.grants _ _).trans hnow
  · refine (activity_each v v.grants (grants_nodup v) _ hod (fun j => (hisles j).1) k).trans ?_
    rw [(hisles k).2]

/-- Settles O16: the pulse, the stagger slot and the governor's window, each by the equation of its command. -/
theorem tickOutStaggerAndSlew : Obligations.TickOutStaggerAndSlew := by
  intro s hrun
  refine ⟨?_, ?_, ?_⟩
  · intro q rise
    refine ⟨_, live_of_running hrun, rfl, State.at_now .., ?_⟩
    exact State.tickOutPin_iff rfl
  · intro k v hclosed hphase hshed
    exact (live_of_running hrun).trans (congrArg _ (State.openStagger_of_closed rfl hclosed hphase hshed))
  · intro v
    obtain ⟨hat, hgranted, hactivity⟩ := s.slewWindow_spec
    refine ⟨_, live_of_running hrun, hat, hgranted, fun h => ?_, hactivity⟩
    exact hgranted.trans_le (State.grants_length_le h)

/-! ### The end of a frame (R54, R55) -/

theorem State.lateAtDeadline_of_borrower {s : State} {k : SlotNo} {f : Frame} (h : (s.slots[k]).borrower = some f) :
    s.lateAtDeadline k =
      if f.unopened then s else (s.raise 0x1002 { slot := k, detail := f.number }).finishFrame k f.number .late 0 := by
  simp only [State.lateAtDeadline, h]

theorem State.frameDone_of_complete {s v : State} {k : SlotNo} {n : Nat} {f : Frame} (hv : s.modFrame k n (s.settleAnalysis k) = v)
    (hf : (v.slots[k]).frameOf n = some f) (hcomplete : v.frameComplete k f = true) :
    s.frameDone k n = v.finishFrame k n .done 0 := by
  simp only [State.frameDone, hv, hf, hcomplete, if_true]

/-- Settles O17: a deadline ends the borrowing frame late unless no line of it has come, and a complete frame ends done. -/
theorem framesEndLateOrDone : Obligations.FramesEndLateOrDone := by
  intro s k hrun
  constructor
  · intro f b deadline hf hborrow
    have hf' : ((s.at_ deadline).slots[k]).borrower = some f := by rw [State.at_slots, hf]
    have hexec : exec (.borrowDeadline k) s = .next ((s.at_ deadline).lateAtDeadline k).pump := by
      refine (live_of_running hrun).trans ?_
      simp only [hf, hborrow, Option.getD_some]
    rw [hexec, State.lateAtDeadline_of_borrower hf']
    exact ⟨fun h => by rw [h]; rfl, fun h => by rw [h]; rfl⟩
  · intro n at_ f v hf hcomplete
    rw [← State.frameDone_of_complete rfl hf hcomplete]
    exact live_of_running hrun

end Sys2Proof.Machine
end

section
/-! Raw ingest: sequences, ring timers, the checks of a stripe datagram, and the in-line port (spec/03_raw_ingest.md R69 to R87). -/

namespace Sys2Proof.Machine

/-! ### Sequences (R78 check 4, R79) -/

/-- A sequence fails check 4 when it is not above the newest and lies below the window or has been seen in it. -/
theorem seqFresh_eq_false_iff {r : SeqRecord} {q : Nat} :
    seqFresh (some r) q = false ↔ q ≤ r.top ∧ (63 < r.top - q ∨ r.seen.getLsbD (r.top - q) = true) := by
  simp only [seqFresh, Bool.or_eq_false_iff, Bool.and_eq_false_iff, decide_eq_false_iff_not, not_lt, not_le, Bool.not_eq_false']

theorem seqNote_of_above {r : SeqRecord} {q : Nat} (h : r.top < q) :
    (seqNote (some r) q).1 =
      ⟨q, (if 64 ≤ q - r.top then 0 else r.seen <<< (q - r.top)) ||| 1, r.floor + (q - r.top)⟩ := by
  simp only [seqNote, if_pos h]

theorem seqNote_of_not_above {r : SeqRecord} {q : Nat} (h : ¬ r.top < q) :
    (seqNote (some r) q).1 = { r with seen := r.seen ||| (1 <<< (r.top - q)) } := by
  simp only [seqNote, if_neg h]

/-- A bit that is set moves up with the window while it stays in it. -/
theorem getLsbD_movedUp {seen : BitVec 64} {d j : Nat} (hj : d + j < 64) (h : seen.getLsbD j = true) :
    ((if 64 ≤ d then 0 else seen <<< d) ||| 1).getLsbD (d + j) = true := by
  have hd : ¬ 64 ≤ d := by omega
  have hmoved : (seen <<< d).getLsbD (d + j) = true := by simp [hj, h]
  rw [if_neg hd, BitVec.getLsbD_or, hmoved, Bool.true_or]

/-- The bit of a sequence in the window is its own. -/
theorem getLsbD_ownBit {i : Nat} (h : i < 64) : ((1 <<< i : Nat) : BitVec 64).getLsbD i = true := by
  rw [BitVec.natCast_eq_ofNat, BitVec.getLsbD_ofNat, Nat.one_shiftLeft, Nat.testBit_two_pow_self, Bool.and_true, decide_eq_true h]

/-- A sequence that has passed fails from then on. -/
theorem seqFresh_seqNote_self (r : Option SeqRecord) (q : Nat) : seqFresh (some (seqNote r q).1) q = false := by
  rw [seqFresh_eq_false_iff]
  cases r with
  | none => exact ⟨le_rfl, .inr (by simp [seqNote])⟩
  | some r =>
    by_cases habove : r.top < q
    · rw [seqNote_of_above habove]
      exact ⟨le_rfl, .inr (by simp)⟩
    · rw [seqNote_of_not_above habove]
      refine ⟨not_lt.mp habove, ?_⟩
      by_cases hwindow : 63 < r.top - q
      · exact .inl hwindow
      · exact .inr (by simp only [BitVec.getLsbD_or, getLsbD_ownBit (by omega : r.top - q < 64), Bool.or_true])

/-- A sequence that fails keeps failing once another has passed. -/
theorem seqFresh_seqNote_of_stale {r : SeqRecord} {q q' : Nat} (h : seqFresh (some r) q' = false) :
    seqFresh (some (seqNote (some r) q).1) q' = false := by
  rw [seqFresh_eq_false_iff] at h ⊢
  obtain ⟨hle, hseen⟩ := h
  by_cases habove : r.top < q
  · rw [seqNote_of_above habove]
    have hdist : q - q' = (q - r.top) + (r.top - q') := by omega
    refine ⟨hle.trans habove.le, ?_⟩
    by_cases hwindow : 63 < q - q'
    · exact .inl hwindow
    · have hbit : r.seen.getLsbD (r.top - q') = true := hseen.resolve_left (by omega)
      exact .inr (hdist ▸ getLsbD_movedUp (by omega) hbit)
  · rw [seqNote_of_not_above habove]
    exact ⟨hle, hseen.imp_right fun hbit => by rw [BitVec.getLsbD_or, hbit, Bool.true_or]⟩

/-- Settles O21: the record's own bit, and the bits it had, stay set while they lie in the window. -/
theorem sequencesAreAcceptedOnce : Obligations.SequencesAreAcceptedOnce := by
  intro r q
  refine ⟨seqFresh_seqNote_self r q, fun q' h => ?_⟩
  cases r with
  | none => cases h
  | some r => exact seqFresh_seqNote_of_stale h

/-! ### Timers of the ring (R82, R87) -/

/-- One filling entry has one timer, and it runs for the reason that comes first. -/
theorem State.timerOf_of_filling {s : State} {k : SlotNo} {i reason due : Nat} (hfilling : (s.slots[k]).filling = [i])
    (hdue : s.entryDue k ((s.slots[k]).entries.getD i {}) = (reason, due)) :
    s.timerOf k (reason == 4) = some due := by
  simp only [State.timerOf, hfilling, hdue, List.map_cons, List.map_nil, beq_self_eq_true, List.filter_cons_of_pos, List.filter_nil,
    List.min?_singleton]

/-- The only filling entry closes at the cycle its timer runs out, on a slot that has no stream to forget. -/
theorem State.runTimer_closes {s : State} {k : SlotNo} {i reason due : Nat} (hk : k ≠ 0) (hfilling : (s.slots[k]).filling = [i])
    (hdue : s.entryDue k ((s.slots[k]).entries.getD i {}) = (reason, due)) (hforget : s.forgetDue k = none) :
    s.runTimer k (s.timerOf k (reason == 4)) = (s.at_ due).closeEntry k i reason due := by
  have hkeeps : ((s.at_ due).closeEntry k i reason due).forgetDue k = none := by
    rw [closeEntry_forget, at_forgetDue, hforget]
  rw [State.timerOf_of_filling hfilling hdue]
  simp only [State.runTimer, State.settleRing, if_neg hk, State.at_slots, hfilling, State.each, List.foldl_cons, List.foldl_nil,
    at_entryDue, hdue, le_max_left, if_true, hkeeps]

/-- A slot without a filling entry forgets its stream when its silence has lasted long enough. -/
theorem State.runTimer_forgets {s : State} {k : SlotNo} {due : Nat} (hk : k ≠ 0) (hfilling : (s.slots[k]).filling = [])
    (hforget : s.forgetDue k = some due) : s.runTimer k (some due) = (s.at_ due).forgetStream k := by
  simp only [State.runTimer, State.settleRing, if_neg hk, State.at_slots, hfilling, State.each, List.foldl_nil, at_forgetDue, hforget,
    le_max_left, if_true]

/-- Settles O20: each command runs the slot's first timer of its kind. -/
theorem ringTimersTakeEffect : Obligations.RingTimersTakeEffect := by
  intro s k hrun hk
  refine ⟨fun i reason due hfilling hdue hforget => ?_, fun due hfilling hforget => ?_⟩
  · have hcloses := State.runTimer_closes hk hfilling hdue hforget
    refine ⟨fun hreason => ?_, fun hreason => ?_⟩
    · rw [beq_eq_false_iff_ne.mpr hreason] at hcloses
      exact (live_of_running hrun).trans (congrArg _ hcloses)
    · rw [beq_iff_eq.mpr hreason] at hcloses
      exact (live_of_running hrun).trans (congrArg _ hcloses)
  · refine (live_of_running hrun).trans ?_
    rw [hforget, State.runTimer_forgets hk hfilling hforget]
    rfl

/-! ### The checks of a stripe datagram (R78) -/

/-- A datagram that reaches its port and names a slot is judged by it, after the slot's timers. -/
theorem State.stripeDatagram_of_slot {s w : State} {p : EthNo} {a b : Bytes} {k : SlotNo} (hw : s.bump (ethIndex p) 0x20 = w)
    (hlink : s.linkUp p = true) (hroom : b.length ≤ w.udpRoom p a) (hshed : w.nat 0x2700 1 = 0) (hrole : w.hasRole p 0 = true)
    (hslot : w.dgSlot b = some k) : s.stripeDatagram p a b = (w.settleRing k w.now).judgeDatagram k a b := by
  subst hw
  simp [State.stripeDatagram, hlink, hroom, hshed, hrole, hslot]

section
variable {s : State} {k : SlotNo} {src b : Bytes}

/-- A malformed header (check 1) and a source the slot does not permit (R437) count alike. -/
theorem State.judgeDatagram_of_bad_header_or_source (h : (dgWellFormed b && s.sourceOk k src) = false) :
    s.judgeDatagram k src b = s.bump (slotIndex k) 0x11 := by
  rcases Bool.and_eq_false_iff.mp h with hform | hfrom
  · simp [State.judgeDatagram, hform]
  · simp [State.judgeDatagram, hfrom]

variable (hsource : (dgWellFormed b && s.sourceOk k src) = true)
include hsource

theorem State.judgeDatagram_of_unauthentic (hauth : s.dgAuthentic k b = false) :
    s.judgeDatagram k src b = ((s.bump (slotIndex k) 0x12).markDropped k b 9).raiseOnce 0x200A k { slot := k } := by
  simp only [State.judgeDatagram, Bool.and_eq_true_iff.mp hsource, hauth,
    Bool.not_true, Bool.not_false, Bool.false_eq_true, if_true, if_false]

variable (hauth : s.dgAuthentic k b = true)
include hauth

theorem State.judgeDatagram_of_stale (hfresh : seqFresh (if s.dgNewKey k b then none else (s.slots[k]).seq) (dgSeq b) = false) :
    s.judgeDatagram k src b = s.bump (slotIndex k) 0x13 := by
  simp only [State.judgeDatagram, Bool.and_eq_true_iff.mp hsource, hauth, hfresh,
    Bool.not_true, Bool.not_false, Bool.false_eq_true, if_true, if_false]

variable (hfresh : seqFresh (if s.dgNewKey k b then none else (s.slots[k]).seq) (dgSeq b) = true)
include hfresh

theorem State.judgeDatagram_of_unfit (hfits : (s.slots[k]).frameFits (dgFrame b) = false) :
    s.judgeDatagram k src b = s.bump (slotIndex k) 0x14 := by
  simp only [State.judgeDatagram, Bool.and_eq_true_iff.mp hsource, hauth, hfresh, hfits,
    Bool.not_true, Bool.not_false, Bool.false_eq_true, if_true, if_false]

variable (hfits : (s.slots[k]).frameFits (dgFrame b) = true)
include hfits

theorem State.judgeDatagram_of_conflict (hconflict : (s.slots[k]).conflicts b = true) :
    s.judgeDatagram k src b = (s.bump (slotIndex k) 0x15).markDropped k b 8 := by
  simp only [State.judgeDatagram, Bool.and_eq_true_iff.mp hsource, hauth, hfresh, hfits, hconflict,
    Bool.not_true, Bool.false_eq_true, if_true, if_false]

variable (hconflict : (s.slots[k]).conflicts b = false)
include hconflict

theorem State.judgeDatagram_of_bad_run (hrunOk : dgRunOk b = false) : s.judgeDatagram k src b = s.bump (slotIndex k) 0x11 := by
  simp only [State.judgeDatagram, Bool.and_eq_true_iff.mp hsource, hauth, hfresh, hfits, hconflict, hrunOk,
    Bool.not_true, Bool.not_false, Bool.false_eq_true, if_true, if_false]

theorem State.judgeDatagram_of_passed {e : Nat} {u : State} (hrunOk : dgRunOk b = true)
    (hentry : (s.noteSequence k b).dgEntry k b = (some e, u)) : s.judgeDatagram k src b = u.acceptDatagram k e b := by
  simp only [State.judgeDatagram, Bool.and_eq_true_iff.mp hsource, hauth, hfresh, hfits, hconflict, hrunOk, hentry,
    Bool.not_true, Bool.false_eq_true, if_false]

end

/-- Settles O19: the datagram reaches its slot, whose checks stand in order. -/
theorem stripeDatagramsAreJudgedInOrder : Obligations.StripeDatagramsAreJudgedInOrder := by
  intro s at_ p src b k hrun a w v hlink hroom hshed hrole hslot i sl fresh ok12
  have hjudged : exec (.stripeDatagram at_ p src b) s = .next (v.judgeDatagram k a b) :=
    (live_of_running hrun).trans (congrArg _ (State.stripeDatagram_of_slot rfl hlink hroom hshed hrole hslot))
  rw [hjudged]
  exact ⟨fun _ _ hsource hauth hfresh hfits hconflict hrunOk hentry =>
      congrArg _ (State.judgeDatagram_of_passed hsource hauth hfresh hfits hconflict hrunOk hentry),
    fun hsource => congrArg _ (State.judgeDatagram_of_bad_header_or_source hsource),
    fun hsource hauth => congrArg _ (State.judgeDatagram_of_unauthentic hsource hauth),
    fun hsource hauth hfresh => congrArg _ (State.judgeDatagram_of_stale hsource hauth hfresh),
    fun hsource hauth hfresh hfits => congrArg _ (State.judgeDatagram_of_unfit hsource hauth hfresh hfits),
    fun hsource hauth hfresh hfits hconflict => congrArg _ (State.judgeDatagram_of_conflict hsource hauth hfresh hfits hconflict),
    fun hsource hauth hfresh hfits hconflict hrunOk =>
      congrArg _ (State.judgeDatagram_of_bad_run hsource hauth hfresh hfits hconflict hrunOk)⟩

/-! ### The in-line port (R69, R70, R72, R73) -/

theorem State.modInline_slot (s : State) (f : InlinePort → InlinePort) :
    (s.modInline f).slots[(0 : SlotNo)] = { s.slots[(0 : SlotNo)] with inl := f s.inline } := by
  simp [State.modInline, State.inline]

theorem State.modInline_inline (s : State) (f : InlinePort → InlinePort) : (s.modInline f).inline = f s.inline := by
  rw [State.inline, State.modInline_slot]

/-- Whether a line finds a buffer does not depend on the port. -/
theorem State.modInline_lineBuffer (s : State) (f : InlinePort → InlinePort) (g : Frame) (y : Nat) :
    (s.modInline f).lineBuffer g y = s.lineBuffer g y := by
  have hplan : (s.modInline f).planOf g.plan = s.planOf g.plan := rfl
  simp only [State.lineBuffer, State.modInline_slot, hplan]

/-- A frame of which a line has come is open already. -/
theorem State.openInline_of_opened {s : State} {f : Frame} (hf : (s.slots[(0 : SlotNo)]).frameOf s.inline.number = some f)
    (hopen : f.unopened = false) : s.openInline = s := by
  simp only [State.openInline, hf, hopen, Bool.not_false, if_true]

/-- A line that finds a buffer joins the frame being received. -/
theorem State.giveLine_of_buffer {s : State} {f : Frame} {e y : Nat} {px : List Nat}
    (hf : (s.slots[(0 : SlotNo)]).frameOf s.inline.number = some f) (hcoast : f.coasted = false) (hbuf : s.lineBuffer f y = true) :
    s.giveLine e y px = s.modFrame 0 s.inline.number fun f =>
      { f with inlineLines := f.inlineLines ++ [⟨e, y, 0, (List.range px.length).zip px⟩] } := by
  simp only [State.giveLine, hf, hcoast, hbuf, Bool.false_eq_true, if_true, if_false]

/-- The lines a frame has depend on its geometry alone. -/
theorem State.inlineTotal_congr {s u : State} (h : u.inline.geo = s.inline.geo) : u.inlineTotal = s.inlineTotal := by
  rw [State.inlineTotal, h, State.inlineTotal]

/-- The samples of a line depend on the geometry alone. -/
theorem State.lineSamples_congr {s u : State} (h : u.inline.geo = s.inline.geo) (words : List (BitVec 24)) :
    u.lineSamples words = s.lineSamples words := by
  rw [State.lineSamples, h, State.lineSamples]

/-- The port after a line has ended. -/
def State.lineCounted (s : State) : State := s.modInline fun p => { p with pulses := p.pulses + 1, lowSince := s.now }

theorem State.lineCounted_inline (s : State) :
    s.lineCounted.inline = { s.inline with pulses := s.inline.pulses + 1, lowSince := s.now } :=
  State.modInline_inline ..

/-- A line of the stored width is given to the front whole. -/
theorem State.inlineLine_of_width {s : State} {words : List (BitVec 24)} (hopened : s.openInline = s)
    (htotal : s.inline.pulses < s.inlineTotal) (hwidth : (s.lineSamples words).length = s.inline.geo.width) :
    s.inlineLine words = s.lineCounted.giveLine (s.inline.pulses % s.inline.geo.exposures)
      (s.inline.pulses / s.inline.geo.exposures) (s.lineSamples words) := by
  have hgeo : s.lineCounted.inline.geo = s.inline.geo := by rw [State.lineCounted_inline]
  have hstep : (s.modInline fun p => { p with pulses := s.inline.pulses + 1, lowSince := s.now }) = s.lineCounted := rfl
  have hinside : ¬ s.inlineTotal ≤ s.inline.pulses := not_le.mpr htotal
  have hwhole : (s.lineSamples words).take s.inline.geo.width = s.lineSamples words := List.take_of_length_le hwidth.le
  simp only [State.inlineLine, hopened, hstep, State.inlineTotal_congr hgeo, State.lineSamples_congr hgeo, hgeo, hinside, hwidth,
    hwhole, lt_self_iff_false, if_false]

/-- A line that ends in a frame, neither short nor stuck, is received. -/
theorem State.lineEnd_of_active {s : State} {words : List (BitVec 24)} (hbroken : s.inline.broken = false)
    (hactive : s.inline.active = true) (hwords : words ≠ []) (hstuck : s.inlineStuck words = false) :
    s.lineEnd words false = s.inlineLine words := by
  simp only [State.lineEnd, hbroken, hactive, hwords, hstuck, Bool.false_eq_true, Bool.not_true, decide_false, Bool.or_self, if_false]

/-- A line of the stored width that finds a buffer joins the open frame. -/
theorem State.inlineLine_joins {s : State} {words : List (BitVec 24)} {f : Frame} (htotal : s.inline.pulses < s.inlineTotal)
    (hwidth : (s.lineSamples words).length = s.inline.geo.width) (hf : (s.slots[(0 : SlotNo)]).frameOf s.inline.number = some f)
    (hopen : f.unopened = false) (hcoast : f.coasted = false)
    (hbuf : s.lineBuffer f (s.inline.pulses / s.inline.geo.exposures) = true) :
    s.inlineLine words = s.lineCounted.modFrame 0 s.inline.number fun f =>
      { f with inlineLines := f.inlineLines ++ [⟨s.inline.pulses % s.inline.geo.exposures, s.inline.pulses / s.inline.geo.exposures, 0,
        (List.range (s.lineSamples words).length).zip (s.lineSamples words)⟩] } := by
  have hnumber : s.lineCounted.inline.number = s.inline.number := by rw [State.lineCounted_inline]; rfl
  have hframe : (s.lineCounted.slots[(0 : SlotNo)]).frameOf s.lineCounted.inline.number = some f := by
    rw [hnumber, State.lineCounted, State.modInline_slot]
    exact hf
  have hbuffer : s.lineCounted.lineBuffer f (s.inline.pulses / s.inline.geo.exposures) = true :=
    (State.modInline_lineBuffer ..).trans hbuf
  rw [State.inlineLine_of_width (State.openInline_of_opened hf hopen) htotal hwidth, State.giveLine_of_buffer hframe hcoast hbuffer,
    hnumber]

/-- CAM_FV rises after a long enough interval, on a port that receives. -/
theorem State.fvRise_begins {s : State} (hon : s.portOn = true) (hbroken : s.inline.broken = false) (hlow : s.inline.fv = false) :
    s.fvRise false = (s.modInline fun p =>
      { p with
        fv := true
        active := true
        nextFrame := (p.nextFrame + 1) % 2 ^ 32
        pulses := 0
        syncErrorNext := false
        lowSince := s.now
        status := setBitIf 0 10 p.syncErrorNext
        geo := s.geometry 0 }).beginInline s.inline.nextFrame := by
  simp only [State.fvRise, hon, hbroken, hlow, Bool.not_true, Bool.or_self, Bool.false_eq_true, if_false]
  rfl

/-- CAM_FV falls with no line high, after a long enough interval. -/
theorem State.fvFall_ends {s : State} (hbroken : s.inline.broken = false) (hhigh : s.inline.fv = true) :
    s.fvFall [] false = s.closeInline.modInline fun p => { p with fv := false } := by
  simp only [State.fvFall, hbroken, hhigh, Bool.not_true, Bool.or_self, Bool.false_eq_true, if_false, if_true, ne_eq, not_true_eq_false,
    or_self]

/-- Settles O18: the camera's edges and lines by the port's equations, the breaks and the return by their commands' guards. -/
theorem inlineFramesAreReceivedOrBroken : Obligations.InlineFramesAreReceivedOrBroken := by
  constructor
  · intro s at_ hrun v p
    refine ⟨fun hon hbroken hlow => ?_, fun hbroken hhigh => ?_, ?_⟩
    · exact (live_of_running hrun).trans (congrArg _ (State.fvRise_begins hon hbroken hlow))
    · exact (live_of_running hrun).trans (congrArg _ (State.fvFall_ends hbroken hhigh))
    · intro words f hbroken hactive hwords hstuck htotal hwidth hf hopen hcoast hbuf
      refine (live_of_running hrun).trans (congrArg _ ?_)
      rw [State.lineEnd_of_active hbroken hactive hwords hstuck]
      exact State.inlineLine_joins htotal hwidth hf hopen hcoast hbuf
  · intro s at_ words hrun
    refine ⟨fun hactive => ?_, fun hactive hstuck => ?_, fun hactive hgap => ?_, fun hbroken => ?_⟩
    · exact (live_of_running hrun).trans (congrArg _ (if_pos hactive))
    · exact (live_of_running hrun).trans (congrArg _ (if_pos (Bool.and_eq_true_iff.mpr ⟨hactive, hstuck⟩)))
    · exact (live_of_running hrun).trans (congrArg _ (if_pos (Bool.and_eq_true_iff.mpr ⟨hactive, decide_eq_true hgap⟩)))
    · exact (live_of_running hrun).trans (congrArg _ (if_pos hbroken))

end Sys2Proof.Machine
end

section
/-! The fixed front and the stage chain: the turn of a stage's stripes, and the entries of a slot that act when they are written
(spec/02_tick.md R52, R54, R59; spec/04_fixed_front.md R118, R119; spec/05_neural_stages.md R124, R130, R142, R148;
spec/06_outputs_and_analysis.md R159; spec/13_adaptation.md R346). -/

namespace Sys2Proof.Machine

/-! ### A frame of the new tick behind a borrowing frame (R54) -/

/-- While a borrowing frame can start a stripe, no other frame starts one: the borrower's work stands at the head of the programme. -/
theorem State.startStripe_of_headWaits {s : State} {k : SlotNo} {n j i : Nat} {f : Frame} (hf : (s.slots[k]).frameOf n = some f)
    (hborrow : f.borrow = none) (hhead : s.headWaits = true) : s.startStripe k n j i = s := by
  simp only [State.startStripe, hf, hborrow, hhead, Option.isSome_none, Bool.not_true, Bool.or_self, Bool.and_false, Bool.false_eq_true,
    if_false]

/-- A plan of stripe height 16 whose level 0 is one stage (chain byte 12) with two stripe buffers (byte 44 of its descriptor). -/
def oneStagePlan : PlanImage :=
  { id := 1, analysis := false, body := ((zeros 128).set 12 1).set 108 2, adapt := [], sets := [], streamed := [], hash := [], load := [],
    latency := 0, longestOp := 0, longestLayer := 0 }

/-- Frame `n` of 16 by 16 samples under that plan, its one stripe made by the front and not started by the stage. -/
def frontedFrame (n : Nat) (borrow : Option (Nat × Nat)) : Frame :=
  { number := n, tick := 0, width := 16, height := 16, borrow := borrow, frontDone := [0], stages := [{}], plan := 1 }

/-- The device after reset with such a frame in two slots: that of slot 1 borrows, that of slot 2 belongs to the new tick. -/
def borrowedAhead : State :=
  ({ State.reset with plans := [oneStagePlan] }.modSlot 1 fun sl => { sl with frames := [frontedFrame 0 (some (0, 100))] }).modSlot 2
    fun sl => { sl with frames := [frontedFrame 0 none] }

theorem borrowedAhead_headWaits : borrowedAhead.headWaits = true := by decide +kernel

theorem borrowedAhead_stageMay :
    borrowedAhead.stageMay (frontedFrame 0 none) (borrowedAhead.bodyOf (frontedFrame 0 none)) 0 0 = true := by decide +kernel

/-- Refutes O22: a stripe that its producer and a free buffer allow waits while a borrowing frame can start one (R54), which the clause on
STAGE_STRIPE_START leaves out. In `borrowedAhead` the new frame of slot 2 may start stripe 0 of its stage, and the command starts nothing. -/
theorem not_stripesAreProcessedInOrder : ¬ Obligations.StripesAreProcessedInOrder := by
  rintro ⟨-, hstages⟩
  have hat : borrowedAhead.at_ 0 = borrowedAhead := State.at_of_le _ 0 (Nat.zero_le _)
  have hf : (borrowedAhead.slots[(2 : SlotNo)]).frameOf 0 = some (frontedFrame 0 none) := by decide +kernel
  have hstarts := (hstages borrowedAhead 0 2 0 0 0 (frontedFrame 0 none) rfl (by rw [hat]; exact hf)).1
    (by rw [hat]; exact borrowedAhead_stageMay)
  have hwaits : exec (.stageStripeStart 0 2 0 0 0) borrowedAhead = .next borrowedAhead := by
    refine (live_of_running rfl).trans (congrArg _ ?_)
    rw [hat]
    exact State.startStripe_of_headWaits hf rfl borrowedAhead_headWaits
  rw [hat, hwaits, Host.Outcome.next.injEq] at hstarts
  have hstarted := congrArg (fun s : State => (s.slots[(2 : SlotNo)]).frames.map fun f => f.stages.map (·.started)) hstarts
  exact absurd hstarted (by decide +kernel)

/-! ### Writes of the parameter image (R118, R119) -/

section
variable {s : State} {k : SlotNo} {sub : Nat} {w : Write} {v : OdVal}

theorem frontAct_of_legal (h : imageOk (s.shadowWith k sub v.bytes) = true) :
    frontAct k sub w v s =
      (0, s.modSlot k fun sl => { sl with frontShadow := some (imageTrim (s.shadowWith k sub v.bytes)) }) := guarded_ok h

theorem frontAct_of_illegal (h : imageOk (s.shadowWith k sub v.bytes) = false) : frontAct k sub w v s = (0x06090030, s) := guarded_no h

end

theorem loadDefaultsAct_eq (k : SlotNo) (w : Write) (v : OdVal) (s : State) :
    loadDefaultsAct k w v s = (0, s.modSlot k fun sl => { sl with frontShadow := some (imageOf (s.entry 0x2200 1).bytes) }) := rfl

/-! ### Writes of plan entries (R124, R148, R159) -/

section
variable {s : State} {k : SlotNo} {w : Write} {v : OdVal}

theorem planAct_of_zero (h : v.int = 0) : planAct k w v s = (0, s.storeEntry (slotIndex k) 0x30 v) := if_pos h

theorem planAct_of_unloaded (h : v.int ≠ 0) (hp : s.planOf v.int.toNat = none) : planAct k w v s = s.refusePlan k 0x3E03 := by
  simp only [planAct, if_neg h, hp]

variable {p : PlanImage} (h : v.int ≠ 0) (hp : s.planOf v.int.toNat = some p)
include h hp

theorem planAct_of_sound (hc : (s.planCheck k p.body).or (s.adaptCheck k p) = none) :
    planAct k w v s = (0, s.storeEntry (slotIndex k) 0x30 v) := by
  simp only [planAct, if_neg h, hp, hc]

theorem planAct_of_faulty {c : Nat} (hc : (s.planCheck k p.body).or (s.adaptCheck k p) = some c) :
    planAct k w v s = s.refusePlan k c := by
  simp only [planAct, if_neg h, hp, hc]

end

/-- The plan that a write of the analysis plan, or of its source slot, leaves the slot with. -/
theorem aPlan_of_source (k : SlotNo) (v : OdVal) (s : State) (source : Bool) :
    aPlan k (if source then 0x4A else 0x49) v s = if source then (s.coming (slotIndex k) 0x49).toNat else v.int.toNat := by
  cases source <;> rfl

/-- The source slot that such a write leaves it with. -/
theorem aSrc_of_source (k : SlotNo) (v : OdVal) (s : State) (source : Bool) :
    aSrc k (if source then 0x4A else 0x49) v s =
      Fin.ofNat 48 (if source then v.int.toNat else (s.coming (slotIndex k) 0x4A).toNat) := by
  cases source <;> rfl

/-- A write that brings a plan image with it acts on the device that has loaded the image. -/
theorem State.Admits.act_loaded {s : State} {img : Option PlanImage} {w : Write} {i sub : Nat} {b : Bytes} {v : OdVal}
    (h : (s.loadPlan img).Admits w i sub b v) {act : Act} {n : Nat} {t : State} (ha : act w v ((s.loadPlan img).atWrite w) = (n, t)) :
    live s ((s.loadPlan img).odRun w i sub b act) = .next (t.answerTo w.req n) := by
  have hrun : s.power.tripped = false := (load_trip s img).symm.trans h.running
  have hacts := h.act ha
  rw [live_of_running h.running] at hacts
  exact (live_of_running hrun).trans hacts

/-! ### Commands of a slot and of the tick (R52, R59, R142, R346) -/

theorem forceWarmingAct_eq (k : SlotNo) (w : Write) (v : OdVal) (s : State) : forceWarmingAct k w v s = (0, s.addReason k 8) := rfl

theorem adaptResetAct_eq (k : SlotNo) (w : Write) (v : OdVal) (s : State) :
    adaptResetAct k w v s = (0, (s.each (s.slots[k]).adapt fun x a => x.abandonStep k a.desc 4).modSlot k fun sl =>
      { sl with adapt := sl.adapt.map fun a => { a with resetPending := true } }) := rfl

theorem resyncAct_of_internal {s : State} {w : Write} {v : OdVal} (h : s.tick.sync = .internal) :
    resyncAct w v s = (0, s.modTick fun x => { x with resync := true }) := by
  simp only [resyncAct, always, if_pos h]

theorem resyncAct_of_external {s : State} {w : Write} {v : OdVal} (h : s.tick.sync ≠ .internal) :
    resyncAct w v s = (0, s.modTick fun x => { x with sync := .acquiring, edges := 0, lost := 0, resync := true }) := by
  simp only [resyncAct, always, if_neg h, acquire_resync]

/-- Settles O23: each write is admitted and runs the act of its entry, whose branch the value and the checks choose. -/
theorem slotEntriesAct : Obligations.SlotEntriesAct := by
  refine ⟨?_, ?_, ?_⟩
  · intro s w k b v t shadow
    refine ⟨?_, fun had => ⟨fun hok => ?_, fun hno => ?_⟩, fun had => ?_⟩
    · intro block sub had
      exact ⟨fun hok => had.act (frontAct_of_legal hok), fun hno => had.act (frontAct_of_illegal hno)⟩
    · exact had.act (frontAct_of_legal hok)
    · exact had.act (frontAct_of_illegal hno)
    · exact had.act (loadDefaultsAct_eq k w v t)
  · intro s w k b img v l t stored refused
    constructor
    · intro had
      refine ⟨fun hzero => ?_, fun p hv hp => ?_, fun hv hp => ?_⟩
      · exact had.act_loaded (planAct_of_zero hzero)
      · cases hc : (t.planCheck k p.body).or (t.adaptCheck k p) with
        | none => exact had.act_loaded (planAct_of_sound hv hp hc)
        | some c => exact had.act_loaded (planAct_of_faulty hv hp hc)
      · exact had.act_loaded (planAct_of_unloaded hv hp)
    · intro source sub plan src had
      have hplan : aPlan k sub v t = plan := aPlan_of_source k v t source
      have hsrc : aSrc k sub v t = src := aSrc_of_source k v t source
      rw [← hplan, ← hsrc]
      refine ⟨fun hzero => ?_, fun p hset hp => ?_, fun hset hp => ?_⟩
      · exact had.act_loaded (analysis_none k sub w v t hzero)
      · cases hc : t.analysisCheck k (aSrc k sub v t) p.body with
        | none => exact had.act_loaded (analysis_ok k sub w v t p hset hp hc)
        | some c => exact had.act_loaded (analysis_bad k sub w v t p c hset hp hc)
      · exact had.act_loaded (analysis_gone k sub w v t hset hp)
  · intro s w k b v t
    refine ⟨fun had => ?_, fun had => ?_, fun had => ⟨fun hint => ?_, fun hext => ?_⟩⟩
    · exact had.act (forceWarmingAct_eq k w v t)
    · exact had.act (adaptResetAct_eq k w v t)
    · exact had.act (resyncAct_of_internal (s := t) hint)
    · exact had.act (resyncAct_of_external (s := t) hext)

end Sys2Proof.Machine
end

section
/-! The post-processors at the end of a data op, and what leaves a frame: formatters, analysis and result datagrams
(spec/06_outputs_and_analysis.md R150, R157, R160 to R167, R171 to R174; spec/07_isle.md R180, R181, R183). -/

namespace Sys2Proof.Machine

/-! ### A data op that proceeds (R180, R181, R183) -/

/-- A data op that nothing holds performs; what follows its end is left out where it is suspended at a position, or has faulted. -/
theorem State.dataOp_of_proceeds {s : State} {k : IsleNo} {c : CtxNo} {op : Bytes} {w : OpContext → OpWork} (h : s.Proceeds k c op w)
    (run : Option Nat) (after : OpContext → State → State) :
    s.dataOp k c op run w after =
      let oc := s.opContext k c op
      let t := s.performOp k c oc (w oc) (opAccesses oc (w oc)) run
      if run.isSome ∨ (t.ctx k c).phase = .faulted then t else after oc t := by
  have hgo : (if (s.ctx k c).phase = .releasing then Hold.go else
      s.opHold k (s.inRerun (s.ctx k c).serves) (opAccesses (s.opContext k c op) (w (s.opContext k c op)))) = .go := by
    rcases h.free with hreleasing | hfree
    · exact if_pos hreleasing
    · rw [hfree, ite_self]
  have hread : (!(s.ctx k c).fetched &&
      (opAccesses (s.opContext k c op) (w (s.opContext k c op))).any fun a => a.far && a.rd) = false := by
    rcases h.near with hfetched | hnear
    · rw [hfetched, Bool.not_true, Bool.false_and]
    · rw [hnear, Bool.and_false]
  simp only [State.dataOp, hgo, hread, ne_eq, not_true_eq_false, Bool.false_eq_true, if_false]

/-- A command whose row is a data op's, with `after` at the op's end: up to position `n` it performs, to its end it performs and, unless
it has faulted, goes on with `after`. -/
theorem exec_performs {s : State} {k : IsleNo} {c : CtxNo} {key : Nat × Nat} {us : Upsets} {check : Bytes → State → Option Nat}
    {op : Bytes} (cmd : Option Nat → Instr) (w : State → OpContext → OpWork) (after : State → OpContext → State → State)
    (h : s.Issues k c key us check op) (hp : (s.issued k c us).Proceeds k c op (w (s.issued k c us)))
    (hcmd : ∀ run, exec (cmd run) s =
      live s (s.opRow k c key us check fun op v => v.dataOp k c op run (w v) (after v))) :
    let i := s.issued k c us
    let oc := i.opContext k c op
    let done (run : Option Nat) : State := i.performOp k c oc (w i oc) (opAccesses oc (w i oc)) run
    (∀ n, exec (cmd (some n)) s = .next (done (some n)))
    ∧ exec (cmd none) s = .next (if ((done none).ctx k c).phase = .faulted then done none else after i oc (done none)) := by
  refine ⟨fun n => ?_, ?_⟩ <;> rw [hcmd, live_of_running h.running, opRow_issues h, State.dataOp_of_proceeds hp]
  · exact congrArg _ (if_pos (.inl rfl))
  · simp only [Option.isSome_none, Bool.false_eq_true, false_or]

/-! ### The post-processors (R161 to R167) -/

/-- What an ARGMAX of context `x` leaves in the frame it serves: the pixels of its tile are counted among those of the map (R167). -/
def State.countMap (t : State) (x : Context) (oc : OpContext) : State :=
  match t.analysed x.serves with
  | none => t
  | some (sl, n, _) => t.modFrame sl n fun f =>
    f.mapped x.serves (x.block.map fun b => (b.counter.val, b.index, x.pos)) (oc.tile.rows.length * oc.tile.cols.length)

/-- Settles O4: each post-processor is the row of a data op, with its own effect on the frame it serves after the op's end. -/
theorem postProcessorsPerform : Obligations.PostProcessorsPerform := by
  intro s k c us op i x oc done
  refine ⟨fun h hp => ?_, fun h hp => ?_, fun h hp => ?_⟩
  · exact exec_performs (fun run => .vecBoxdecIntake k c run us) (fun _ => intakeWork)
      (fun _ oc t => t.takeRecords x.serves oc (intakeWork oc).x) h hp fun _ => rfl
  · exact exec_performs (fun run => .vecBoxdecSuppress k c run us) (fun v => (v.suppressOf x.serves).1)
      (fun v _ t => t.setDetections x.serves (v.suppressOf x.serves).2) h hp fun _ => rfl
  · exact exec_performs (fun run => .vecArgmax k c run us) (fun _ => argmaxWork) (fun _ oc t => t.countMap x oc) h hp fun _ => rfl

/-! ### Formatters (R150, R157, R171) -/

section
variable {s : State} {k : SlotNo} {n kind i : Nat} {f : Frame} (hf : (s.slots[k]).frameOf n = some f)
  (hmay : s.formatMay k f kind i = true)
include hf hmay

theorem State.formatStripe_of_pinned (hout : s.takeOut k f = none) :
    s.formatStripe k n kind i = (s.raise 0x3D01 { slot := k, detail := n }).finishFrame k n .failed 0x3D01 := by
  simp only [State.formatStripe, hf, hmay, hout, Bool.not_true, Bool.false_eq_true, if_false]

/-- With an output entry taken, the stripe of the tap is written into it, line by line, and charged; the tap's stripe may then go. -/
theorem State.formatStripe_of_entry {e : Nat} {u : State} (hout : s.takeOut k f = some (e, u)) :
    s.formatStripe k n kind i =
      let h := stripeHeight (u.bodyOf f)
      let tap : TapStripe :=
        { alpha := f.knobs.alpha, w := f.width, h := f.height, lines := stripeLines h f i
          px := tapPixel h ((((u.tapOf k f kind).bind fun j => f.stages[j]?).map (·.held)).getD []) }
      let put := u.each (u.formatted k kind tap) fun x sec => x.each sec.2 fun y l =>
        (y.ringWrite k (y.outBase k e + y.sectionAt k f sec.1 + l.1 * (x.sectionShape k f.width f.height sec.1).1) l.2).2
      let done := put.modFrame k n fun g => { g with formatted := g.formatted ++ [(kind, i)] }
      (done.chargeSamples (done.slotOwner k) (f.width * tap.lines.length)).release k n := by
  simp only [State.formatStripe, hf, hmay, hout, Bool.not_true, Bool.false_eq_true, if_false]

end

/-! ### The start of analysis (R160) -/

section
variable {s : State} {k : SlotNo} {n : Nat} {f : Frame} (hf : (s.slots[k]).frameOf n = some f) (hplan : s.slotNat k 0x49 ≠ 0)
  (hnew : f.analysis = .none) (hshed : s.nat 0x2700 1 = 0)
include hf hplan hnew hshed

theorem State.startAnalysis_of_ready {e : Nat} (hsource : s.sourceOf k f = .ready e) :
    s.startAnalysis k n =
      (s.modSlot (Fin.ofNat 48 (s.slotNat k 0x4A)) fun sl =>
        { sl with outRing := modAt sl.outRing e fun x => { x with pins := (k.val, n) :: x.pins } }).modFrame k n fun g =>
          { g with analysis := .running } := by
  simp only [State.startAnalysis, hf, hplan, hnew, hshed, hsource, ne_eq, not_true_eq_false, or_self, if_false]

theorem State.startAnalysis_of_missing (hsource : s.sourceOf k f = .missing) :
    s.startAnalysis k n = (s.modFrame k n fun g => { g with analysis := .skipped, status := setBit g.status 23 }).raise 0x3D06
      { slot := k, detail := n } := by
  simp only [State.startAnalysis, hf, hplan, hnew, hshed, hsource, ne_eq, not_true_eq_false, or_self, if_false]

end

/-! ### Result datagrams (R172 to R174) -/

/-- A stop that still holds is left as it is (R448). -/
theorem State.settleStop_of_held {s : State} {k : SlotNo} (h : (s.slots[k]).stop.stopped = true → s.resultStopped k = true) :
    s.settleStop k = s := by
  cases hstop : (s.slots[k]).stop.stopped
  · simp only [State.settleStop, hstop, Bool.false_and, Bool.false_eq_true, if_false]
  · simp only [State.settleStop, h hstop, Bool.not_true, Bool.and_false, Bool.false_eq_true, if_false]

theorem State.transmitResult_of_job {s : State} {k : SlotNo} {j : ResultJob} {rest : List ResultJob} (hsettled : s.settleStop k = s)
    (hjobs : (s.slots[k]).result.jobs = j :: rest) :
    s.transmitResult k =
      let u := s.modSlot k fun sl => { sl with result := { sl.result with jobs := rest } }
      u.each (u.resultParts k j (max 64 (((u.resultEgress k).map (u.resultLimit k)).getD 8896))) fun x r => x.sendResult k j r := by
  simp only [State.transmitResult, hsettled, hjobs]

/-- Settles O24: a stripe that may be formatted, an analysis that may start, and the oldest waiting job take the branch of their command. -/
theorem outputsAreWrittenAndSent : Obligations.OutputsAreWrittenAndSent := by
  intro s at_ k n hrun t
  refine ⟨fun kind i f hf hmay => ?_, fun f hf hplan hnew hshed => ?_, fun j rest hheld hjobs => ?_⟩
  · have hexec : exec (.formatterStripe at_ k n kind i) s = .next (t.formatStripe k n.toNat (kind.val + 1) i) := live_of_running hrun
    rw [hexec]
    exact ⟨fun hout => congrArg _ (State.formatStripe_of_pinned hf hmay hout),
      fun e u hout => congrArg _ (State.formatStripe_of_entry hf hmay hout)⟩
  · have hexec : exec (.analysisStart at_ k n) s = .next (t.startAnalysis k n.toNat) := live_of_running hrun
    rw [hexec]
    exact ⟨fun e hsource => congrArg _ (State.startAnalysis_of_ready hf hplan hnew hshed hsource),
      fun hsource => congrArg _ (State.startAnalysis_of_missing hf hplan hnew hshed hsource)⟩
  · have hexec : exec (.resultTransmit at_ k) s = .next (t.transmitResult k) := live_of_running hrun
    rw [hexec]
    exact congrArg _ (State.transmitResult_of_job (State.settleStop_of_held hheld) hjobs)

end Sys2Proof.Machine
end

section
/-! Tile ops that issue, and contexts that wait: control ops, data ops, resumption and the wait limit (spec/07_isle.md R180 to R188, R193,
R203 to R205, R226; spec/11_tiling_and_streaming.md R300, R302). -/

namespace Sys2Proof.Machine

/-! ### Contexts under the state's operations -/

@[simp] theorem State.modCtx_ctx (s : State) (k : IsleNo) (c : CtxNo) (f : Context → Context) :
    (s.modCtx k c f).ctx k c = f (s.ctx k c) := by
  simp [State.ctx]

/-- A change of a context depends only on what it makes of the context that stands there. -/
theorem State.modCtx_congr {s : State} {k : IsleNo} {c : CtxNo} {f g : Context → Context} (h : f (s.ctx k c) = g (s.ctx k c)) :
    s.modCtx k c f = s.modCtx k c g :=
  congrArg (fun x => s.modIsle k fun i => { i with ctx := i.ctx.set c x }) h

/-- What is on its way to an isle is no part of a context. -/
@[simp] theorem State.modCtx_inbound (s : State) (k : IsleNo) (c : CtxNo) (f : Context → Context) (d : IsleNo) :
    ((s.modCtx k c f).isles[d]).inbound = (s.isles[d]).inbound := by
  rw [State.modCtx, modIsle_get]
  split <;> rfl

/-- No context is part of a DMA engine. -/
@[simp] theorem State.modCtx_chan (s : State) (k : IsleNo) (c : CtxNo) (f : Context → Context) (d : IsleNo) (n : ChanNo) :
    (s.modCtx k c f).chan (.isle d) n = s.chan (.isle d) n := by
  have hdma : ((s.modCtx k c f).isles[d]).dma = (s.isles[d]).dma := by
    rw [State.modCtx, modIsle_get]
    split <;> rfl
  simp only [State.chan, State.engine, hdma]

/-- The clock that moves on leaves every context as it is. -/
@[simp] theorem State.at_ctx (s : State) (t : Nat) (k : IsleNo) (c : CtxNo) : (s.at_ t).ctx k c = s.ctx k c := by
  unfold State.at_
  split
  · simp [State.ctx, IsleState.waited]
  · rfl

/-! ### Control ops that need only their context (R203, R226) -/

/-- The command of a row whose op issues runs the row's body on the state in which the op has its units. -/
theorem exec_issues {s : State} {k : IsleNo} {c : CtxNo} {key : Nat × Nat} {us : Upsets} {check : Bytes → State → Option Nat} {op : Bytes}
    {body : Bytes → State → State} (cmd : Instr) (h : s.Issues k c key us check op)
    (hcmd : exec cmd s = live s (s.opRow k c key us check body)) : exec cmd s = .next (body op (s.issued k c us)) := by
  rw [hcmd, live_of_running h.running, opRow_issues h]

/-- An index register that is added to counts modulo 2^20. -/
theorem Context.setIx_add (x : Context) (i : Fin 4) (v : Nat) :
    x.setIx i (x.ix[i].toNat + v) = { x with ix := x.ix.set i (x.ix[i] + BitVec.ofNat 20 v) } := by
  rw [Context.setIx, BitVec.ofNat_add, BitVec.ofNat_toNat, BitVec.setWidth_eq]

/-- Settles O1: each op is a row whose body changes its own context alone; the two forms of SETIX are the branches of its mode bit. -/
theorem simpleControlOpsRetire : Obligations.SimpleControlOpsRetire := by
  intro s k c us op t i
  refine ⟨fun h => ?nop, fun h hset => ?set, fun h hadd => ?add, fun h => ?halt, fun h => ?setseed⟩
  case nop => rw [exec_issues (.nop k c us) h rfl]
  case set =>
    rw [exec_issues (.setix k c us) h rfl]
    simp only [hset, Bool.false_eq_true, if_false, Context.setIx, t, i]
  case add =>
    rw [exec_issues (.setix k c us) h rfl]
    simp only [hadd, if_true, Context.setIx_add, t, i]
  case halt => rw [exec_issues (.halt k c us) h rfl]
  case setseed => rw [exec_issues (.setseed k c us) h rfl]

/-! ### Blocks of ops (R188, R300, R302) -/

section
variable {s : State} {k : IsleNo} {c : CtxNo} {op : Bytes}

/-- A claim that its counter answers with an index opens the block of that index. -/
theorem State.sendClaim_of_index {i : Nat} {u : TileCounter} (hphase : (s.ctx k c).phase ≠ .releasing)
    (hclaim : (s.counters[claimCounter op]).claim k c (s.ctx k c).owner = (.index i, u)) :
    s.sendClaim k c op =
      (s.modCounter (claimCounter op) fun _ => u).modCtx k c (·.claimed op s.counters[claimCounter op] (some i)) := by
  simp only [State.sendClaim, hphase, hclaim, if_false]

/-- A context that is not to stop goes on, at the end of its block, from the CLAIM at the head of its queue. -/
theorem State.endBlock_of_unstopped {b : TileBlock} (hstop : (s.ctx k c).stopping = false) :
    ((s.modCounter b.counter (·.report b.index k c)).modCtx k c fun x =>
        if x.stopping then x.emptied else Context.rest { x with block := none, pos := 0 }) =
      (s.modCounter b.counter (·.report b.index k c)).modCtx k c fun x => Context.rest { x with block := none, pos := 0 } :=
  State.modCtx_congr (if_neg (Bool.eq_false_iff.mp hstop))

/-! ### FENCE and WAIT (R204, R205) -/

/-- What a fence waits for is the isle's transfers and what its context has sent. -/
theorem State.fenceMet_modCtx {f : Context → Context} (hunsent : (f (s.ctx k c)).unsent = (s.ctx k c).unsent) (goals : List (Nat × Nat)) :
    (s.modCtx k c f).fenceMet k c op goals = s.fenceMet k c op goals := by
  simp only [State.fenceMet, State.outstanding, State.modCtx_ctx, State.modCtx_inbound, State.modCtx_chan, hunsent]

/-- A fence without a signal, whose context has nothing left to send, retires. -/
theorem State.endFence_of_unsignalled (hplain : bitOf (byteAt op 8) 1 = false) (hsignalled : (s.ctx k c).signalled = false)
    (hunsent : (s.ctx k c).unsent = []) : s.endFence k c op = s.modCtx k c (·.retired) := by
  simp only [State.endFence, hplain, hsignalled, hunsent, List.length_nil, State.sendWords, Bool.false_eq_true, false_and, Bool.false_and,
    if_false]

/-- A fence still retires when its context has just noted the transfers it waits for. -/
theorem State.endFence_of_goals (goals : List (Nat × Nat)) (hplain : bitOf (byteAt op 8) 1 = false)
    (hsignalled : (s.ctx k c).signalled = false) (hunsent : (s.ctx k c).unsent = []) :
    (s.modCtx k c fun x => { x with fenceGoal := some goals }).endFence k c op =
      (s.modCtx k c fun x => { x with fenceGoal := some goals }).modCtx k c (·.retired) :=
  State.endFence_of_unsignalled hplain (by rw [State.modCtx_ctx, hsignalled]) (by rw [State.modCtx_ctx, hunsent])

theorem State.tagFull_of_slot {t : IsleNo × Nat} {m : AtollNo} {j : Nat} (h : s.slotAt t = some (m, j)) :
    s.tagFull t = ((s.isles[t.1]).atolls[m]).full.contains j := by
  simp only [State.tagFull, h]

end

/-- Settles O2: the hypotheses of each clause choose the branch of the op's body that completes it. -/
theorem blockAndWaitOpsComplete : Obligations.BlockAndWaitOpsComplete := by
  intro s k c us op t x n
  refine ⟨fun i u h hblock hphase hlen hformed hclaim => ?claim, fun b h hblock hstop => ?blockEnd,
    fun h hplain hphase hgoal hsignalled hunsent hmet => ?fence, fun m j h hphase hslot hfull => ?wait⟩
  case claim =>
    have hsend : t.sendClaim k c op = _ := State.sendClaim_of_index hphase hclaim
    rw [exec_issues (.claim k c us) h rfl, ← hsend]
    simp only [x, t] at hblock hlen hformed
    simp only [t, hblock, hformed, Nat.not_lt.mpr hlen, Option.isSome_none, Bool.false_eq_true, false_and, and_false, if_false]
  case blockEnd =>
    simp only [x, t] at hblock
    rw [exec_issues (.blockEnd k c us) h rfl]
    simp only [hblock]
    rw [State.endBlock_of_unstopped hstop]
  case fence =>
    have hend := State.endFence_of_goals (t.fenceGoals k (byteAt op 9)) hplain hsignalled hunsent
    rw [exec_issues (.fence k c us) h rfl, ← hend]
    simp only [x, t] at hphase hgoal hsignalled hmet
    simp only [t, hphase, hgoal, hsignalled, State.fenceMet_modCtx, hmet, Option.getD_none, Bool.false_or, if_true, if_false]
  case wait =>
    simp only [x, t] at hphase
    rw [exec_issues (.wait k c us) h rfl]
    simp only [hphase, State.tagFull_of_slot hslot, hfull, hslot, if_false, if_true, t]

/-! ### Data ops (R180, R181, R193) -/

/-- Settles O3: each command of the list is the row of its key and its work, with nothing after the op's end. -/
theorem dataOpsPerform : Obligations.DataOpsPerform := by
  intro row hrow s k c run us op h hp
  have hcmd : ∀ run, exec (row.1 k c run us) s = live s (s.workRow k c run us row.2.1 row.2.2) := by
    clear h hp
    fin_cases hrow <;> exact fun _ => rfl
  obtain ⟨hpart, hwhole⟩ := exec_performs (fun run => row.1 k c run us) (fun _ => row.2.2) (fun _ _ t => t) h hp hcmd
  cases run with
  | none => exact hwhole.trans (congrArg _ (ite_self _))
  | some n => exact hpart n

/-! ### Contexts that wait (R182 to R184) -/

section
variable {s : State} {k : IsleNo} {c : CtxNo}

theorem State.waitLimit_of_waiting (h : (s.ctx k c).phase = .waiting) :
    s.waitLimit k c = (s.at_ ((s.ctx k c).waitSince + (s.isles[k]).waitLimit + 1)).faultCtx k c 0x310B := if_pos h

/-- A context whose cause has cleared, with nothing left of an op to send, wakes, and takes its units where it may. -/
theorem State.resumeCtx_of_cleared {t : Nat} (hwaits : (s.ctx k c).phase = .waiting) (hshed : (s.at_ t).nat 0x2700 1 = 0)
    (hsending : ((s.at_ t).ctx k c).sending = false) (hcleared : (s.at_ t).causeCleared k c = true) :
    s.resumeCtx k c t =
      if ((s.at_ t).wake k c).mayRun k c then ((s.at_ t).wake k c).takeUnits k c else (s.at_ t).wake k c := by
  have hphase : ((s.at_ t).ctx k c).phase = .waiting := (congrArg _ (s.at_ctx t k c)).trans hwaits
  simp only [State.resumeCtx, hshed, hphase, hcleared, hsending, ne_eq, not_true_eq_false, and_self, Bool.false_eq_true, if_true, if_false]

end

/-- Settles O6: a cleared cause takes the waking branch of the resumption, and a context that still waits the fault of its limit. -/
theorem waitingContextsResumeOrFault : Obligations.WaitingContextsResumeOrFault := by
  intro s k c hrun hwaits
  refine ⟨fun t hshed hsending hcleared => ?_, ?_⟩
  · exact (live_of_running hrun).trans (congrArg _ (State.resumeCtx_of_cleared hwaits hshed hsending hcleared))
  · exact (live_of_running hrun).trans (congrArg _ (State.waitLimit_of_waiting hwaits))

end Sys2Proof.Machine
end

section
/-! Scratchpads and straits: the canonical form of every store, the banks of a row, attributes, formatting and scrubbing, and what links and
carries between isles (spec/10_scratchpad.md R257 to R263, R271 to R275, R288 to R293). -/

namespace Sys2Proof.Machine

/-! ### Stores keep their canonical form (R271, R374) -/

/-- A step goes on, in all that `Flows` names, from the device with its first command taken off the queue. -/
theorem step_flows {s t : State} (h : step s = .next t) : State.Flows { s with pending := s.pending.tail } t := by
  cases hq : s.pending with
  | nil =>
    rw [step_of_pending_nil hq] at h
    cases h
    obtain ⟨queue, draws, trace, windows, stores⟩ := (State.atCycle_goes (cl := true) (.refl s) : s.Goes true (s.at_ (s.now + 1))).flows
    exact ⟨queue.trans hq, draws, trace, windows, stores⟩
  | cons c rest =>
    rw [step_of_pending_cons hq] at h
    exact (exec_goes c _ t h).flows

/-- Settles O54: the queue holds no store, and from there on a step keeps every store canonical. -/
theorem stepsKeepStoresCanonical : Obligations.StepsKeepStoresCanonical := fun _ _ h hc => (step_flows h).stores hc

/-! ### Banks (R258, R263) -/

/-- The part of a word's bank that its row alone decides; its place in the row is combined with it. -/
def rowHash (mode row : Nat) : Nat :=
  let f1 := bitsOf row 0 6
  let f2 := bitsOf row 6 6
  let f3 := bitsOf row 12 2
  match mode with
  | 0 => 0
  | 1 => f1
  | 2 => f1 ^^^ f2 ^^^ f3
  | _ => f1 ^^^ rotl3 f2 ^^^ (f3 * 16)

theorem bitsOf_rowOf (word lo n : Nat) : bitsOf (rowOf word) lo n = bitsOf word (lo + 6) n := by
  simp only [bitsOf, rowOf, Nat.div_div_eq_div_mul, Nat.pow_add, Nat.mul_comm 64, Nat.reducePow]

theorem bankOf_eq_xor_rowHash (mode word : Nat) : bankOf mode word = word % 64 ^^^ rowHash mode (rowOf word) := by
  have hplace : bitsOf word 0 6 = word % 64 := by simp [bitsOf]
  unfold bankOf rowHash
  simp only [bitsOf_rowOf, hplace]
  split <;> simp [Nat.xor_assoc]

theorem rotl3_lt {v : Nat} (h : v < 64) : rotl3 v < 64 := by
  unfold rotl3
  omega

theorem rowHash_lt (mode row : Nat) : rowHash mode row < 64 := by
  have h1 : bitsOf row 0 6 < 2 ^ 6 := Nat.mod_lt _ (by decide)
  have h2 : bitsOf row 6 6 < 2 ^ 6 := Nat.mod_lt _ (by decide)
  have h3 : bitsOf row 12 2 < 2 ^ 2 := Nat.mod_lt _ (by decide)
  unfold rowHash
  dsimp only
  split
  · decide
  · exact h1
  · exact Nat.xor_lt_two_pow (Nat.xor_lt_two_pow h1 h2) (by omega)
  · exact Nat.xor_lt_two_pow (Nat.xor_lt_two_pow h1 (rotl3_lt h2)) (by omega)

/-- Settles O57: a word's bank is its place in the row, exclusive-ored with a value that only the row and the mode decide. -/
theorem banksAreOneToOne : Obligations.BanksAreOneToOne := by
  intro mode a b _ _
  rw [bankOf_eq_xor_rowHash, bankOf_eq_xor_rowHash]
  refine ⟨Nat.xor_lt_two_pow (n := 6) (Nat.mod_lt a (by decide)) (rowHash_lt mode _), fun hrow hbank => ?_⟩
  rw [hrow] at hbank
  have hplace : a % 64 = b % 64 := Nat.xor_left_injective hbank
  unfold rowOf at hrow
  omega

/-! ### Attributes and the format pass (R261, R262) -/

section
variable {s : State} {k : IsleNo}

theorem State.attrWrite_of_legal {e : Fin 33} {v : BitVec 64}
    (hrows : e.val < 32 → (attrOf v.toNat).baseRow + (attrOf v.toNat).rows ≤ spRows) (hreserved : attrReserved e v.toNat = false)
    (hapart : attrsOverlap ((s.isles[k]).sp.attributes.write e v.toNat).entries = false) (hidle : s.isleBusy k = false) :
    s.attrWrite k e v =
      let old := (s.isles[k]).sp.attributes
      let new := old.write e v.toNat
      let rows := (List.range spRows).filter fun r => old.at_ r != new.at_ r
      s.modSp k fun p =>
        { p with
          attrs := Vector.ofFn fun i => new.entries.getD i.val {}
          defaultHash := new.hash
          defaultStrong := new.strong
          formatBusy := p.formatBusy || rows != []
          toFormat := (p.toFormat ++ rows).dedup } := by
  have hfits : (decide (e.val < 32) && decide (spRows < (attrOf v.toNat).baseRow + (attrOf v.toNat).rows)) = false := by
    simpa using hrows
  simp only [State.attrWrite, hfits, hreserved, hapart, hidle, Bool.or_false, Bool.false_eq_true, if_false]

theorem State.modSp_sp (s : State) (k : IsleNo) (f : Scratchpad → Scratchpad) : ((s.modSp k f).isles[k]).sp = f (s.isles[k]).sp := by
  rw [State.modSp, modIsle_get, if_pos rfl]

theorem State.formatDone_sp (s : State) (k : IsleNo) :
    ((s.formatDone k).isles[k]).sp =
      { (s.isles[k]).sp.toFormat.foldl Scratchpad.zeroRow (s.isles[k]).sp with formatBusy := false, toFormat := [] } :=
  s.modSp_sp k _

/-- A word of a row that has been written to zero reads zero, under owner tag 0. -/
theorem Scratchpad.zeroRows_word (p : Scratchpad) {rows : List Nat} {word : Nat} (h : rowOf word ∈ rows) :
    cellsRead (rows.foldl Scratchpad.zeroRow p).cells (32 * word) 32 = zeros 32
      ∧ kvGet 0 word (rows.foldl Scratchpad.zeroRow p).tags = 0 := by
  obtain ⟨hcells, htags⟩ := zeroRows_gone rows p (rowOf word) (.inl h)
  refine ⟨cellsRead_absent _ _ _ fun c hc => ?_, kvGet_absent _ _ _ fun t ht hword => ?_⟩
  · have hrow := hcells c hc
    unfold rowOf at hrow
    omega
  · exact htags t ht (congrArg rowOf hword)

end

/-- Settles O8: a legal write takes the entry, the end of the format pass has written every waiting row to zero, and a scrub step of a row
without flips only moves on. -/
theorem scratchpadsAreFormattedAndScrubbed : Obligations.ScratchpadsAreFormattedAndScrubbed := by
  constructor
  · intro s k hrun
    refine ⟨fun e v hrows hreserved hapart hidle => ?_, _, live_of_running hrun, ?_⟩
    · exact (live_of_running hrun).trans (congrArg _ (State.attrWrite_of_legal hrows hreserved hapart hidle))
    · rw [State.formatDone_sp]
      refine ⟨rfl, rfl, ?_⟩
      rintro _ hrow word rfl
      exact Scratchpad.zeroRows_word _ hrow
  · intro s k r hrun clean scrubbed due
    have hscrub (v : State) (hclean : clean v) : v.scrub k ⟨[], [], false⟩ = scrubbed v := by
      obtain ⟨hnext, hserves, hsound⟩ := hclean
      exact scrub_clean v k r hnext hserves hsound
    exact ⟨fun h => (live_of_running hrun).trans (congrArg _ (hscrub s h)),
      fun h => (live_of_running hrun).trans (congrArg _ (hscrub due h))⟩

/-! ### One part of an isle under a change of another -/

/-- A part `p` of the isles that a change of one isle does not touch is the same in every isle. -/
theorem State.modIsle_keeps {α : Type} (p : IsleState → α) {f : IsleState → IsleState} (s : State) (k j : IsleNo)
    (h : ∀ i, p (f i) = p i := by intro; rfl) : p (s.modIsle k f).isles[j] = p s.isles[j] := by
  rw [modIsle_get]
  split
  · exact h _
  · rfl

section
variable (s : State) (k j : IsleNo)

theorem State.modRemote_same (m : Fin 16) (f : RemoteEntry → RemoteEntry) :
    (((s.modRemote k m f).isles[k]).remotes[m]) = f (s.isles[k]).remotes[m] := by
  rw [State.modRemote, modIsle_get, if_pos rfl]
  simp

/-- A change of a remote entry depends only on what it makes of the entry that stands there. -/
theorem State.modRemote_congr {s : State} {k : IsleNo} {m : Fin 16} {f g : RemoteEntry → RemoteEntry}
    (h : f (s.isles[k]).remotes[m] = g (s.isles[k]).remotes[m]) : s.modRemote k m f = s.modRemote k m g :=
  congrArg (fun x => s.modIsle k fun i => { i with remotes := i.remotes.set m x }) h

theorem State.modRemote_atolls (m : Fin 16) (f : RemoteEntry → RemoteEntry) :
    ((s.modRemote k m f).isles[j]).atolls = (s.isles[j]).atolls := s.modIsle_keeps (·.atolls) k j

theorem State.modRemote_inbound (m : Fin 16) (f : RemoteEntry → RemoteEntry) :
    ((s.modRemote k m f).isles[j]).inbound = (s.isles[j]).inbound := s.modIsle_keeps (·.inbound) k j

theorem State.modRemote_ctx (m : Fin 16) (f : RemoteEntry → RemoteEntry) (c : CtxNo) : (s.modRemote k m f).ctx j c = s.ctx j c :=
  s.modIsle_keeps (·.ctx[c]) k j

theorem State.modCtx_wakes (c : CtxNo) (f : Context → Context) :
    ((s.modCtx k c f).isles[j]).wakes = (s.isles[j]).wakes := s.modIsle_keeps (·.wakes) k j

theorem State.modAtoll_remotes (n : AtollNo) (f : Atoll → Atoll) :
    ((s.modAtoll k n f).isles[j]).remotes = (s.isles[j]).remotes := s.modIsle_keeps (·.remotes) k j

theorem State.modSp_remotes (f : Scratchpad → Scratchpad) :
    ((s.modSp k f).isles[j]).remotes = (s.isles[j]).remotes := s.modIsle_keeps (·.remotes) k j

theorem State.modCnt_remotes (f : IsleCounters → IsleCounters) :
    ((s.modCnt k f).isles[j]).remotes = (s.isles[j]).remotes := s.modIsle_keeps (·.remotes) k j

theorem State.fallback_remotes (word n : Nat) : ((s.fallback k word n).isles[j]).remotes = (s.isles[j]).remotes := by
  unfold State.fallback
  dsimp only
  split
  · rw [State.modAtoll_remotes, State.modCnt_remotes]
  · rw [State.modCnt_remotes]

theorem State.outerAccess_remotes (word : Nat) (sure : Bool) :
    ((s.outerAccess k word sure).isles[j]).remotes = (s.isles[j]).remotes := by
  unfold State.outerAccess
  split
  · exact s.fallback_remotes k j word 1
  · exact s.draw.2.fallback_remotes k j word _

theorem State.comeIn_remotes (word : Nat) (whole : Bool) : ((s.comeIn k word whole).isles[j]).remotes = (s.isles[j]).remotes := by
  unfold State.comeIn
  split
  · rw [State.outerAccess_remotes, State.modSp_remotes]
  · rw [State.outerAccess_remotes]

end

/-! ### Remote entries (R291) -/

section
variable {s : State} {k : IsleNo} {m : Fin 16}

theorem State.linkRequest_of_unlinked {d : IsleNo} {n : AtollNo} (h : ((s.isles[k]).remotes[m]).linked = false) :
    s.linkRequest k m d n = s.modRemote k m fun _ => { isle := d, atoll := n, enable := true, requested := true } :=
  State.modRemote_congr (by simp only [h, Bool.false_eq_true, if_false])

/-- What the writes of an entry are due to depends on where it points and which ring it holds, not on whether it is enabled. -/
theorem State.writesDue_disabled (r : RemoteEntry) (f : RemoteEntry → RemoteEntry) :
    (s.modRemote k m f).writesDue k { r with enable := false, requested := false, next := none } = s.writesDue k r := by
  simp only [State.writesDue, RemoteEntry.holds, State.modRemote_inbound, State.modRemote_ctx]

/-- A disabled entry whose writes are acknowledged, and that has no next link to ask for, unlinks both ends. -/
theorem State.settleUnlink_of_acknowledged {r : RemoteEntry} (hr : (s.isles[k]).remotes[m] = r) (hoff : r.enable = false)
    (hnext : r.next = none) (hdue : s.writesDue k r = false) (hlinked : r.linked = true)
    (hby : ((s.isles[r.isle]).atolls[r.atoll]).linkedBy = some (k, m.val)) :
    s.settleUnlink k m = (s.modAtoll r.isle r.atoll fun a => { a with linkedBy := none, owed := 0 }).modRemote k m fun r =>
      { isle := r.isle, atoll := r.atoll } := by
  simp only [State.settleUnlink, hr, hoff, hdue, hlinked, hby, and_self, Bool.or_self, Bool.false_eq_true, if_false, if_true]
  refine State.modRemote_congr ?_
  simp only [State.modAtoll_remotes, hr, hnext]

theorem State.unlink_of_acknowledged {r : RemoteEntry} (hr : (s.isles[k]).remotes[m] = r) (hdue : s.writesDue k r = false)
    (hlinked : r.linked = true) (hby : ((s.isles[r.isle]).atolls[r.atoll]).linkedBy = some (k, m.val)) :
    s.unlink k m =
      ((s.modRemote k m fun r => { r with enable := false, requested := false, next := none }).modAtoll r.isle r.atoll fun a =>
        { a with linkedBy := none, owed := 0 }).modRemote k m fun r => { isle := r.isle, atoll := r.atoll } :=
  State.settleUnlink_of_acknowledged (r := { r with enable := false, requested := false, next := none })
    (by rw [State.modRemote_same, hr]) rfl rfl ((State.writesDue_disabled r _).trans hdue) hlinked (by rw [State.modRemote_atolls, hby])

theorem State.linkAnswer_of_requested (h : ((s.isles[k]).remotes[m]).requested = true) :
    s.linkAnswer k m =
      let r := (s.isles[k]).remotes[m]
      let a := (s.isles[r.isle]).atolls[r.atoll]
      if a.enable = true ∧ a.creditEnable = true ∧ a.creditIsle = k then
        (s.modAtoll r.isle r.atoll fun a => { a with linkedBy := some (k, m), owed := 0 }).modRemote k m fun r =>
          { r with
            linked := true
            requested := false
            credits := a.emptyRun
            base := a.base
            slotWordsM1 := a.slotWordsM1
            slotCount := a.slotCount
            nextSlot := a.tail }
      else s.modRemote k m fun r => { r with requested := false } := by
  simp only [State.linkAnswer, h, Bool.not_true, Bool.false_eq_true, if_false, Bool.and_eq_true, beq_iff_eq, and_assoc]

end

/-! ### Traffic (R288 to R293) -/

section
variable {s : State} {k : IsleNo}

theorem State.writeWord_whole {w : WordWrite} {o : OwnerNo} (h : w.whole = true) :
    s.writeWord w o = (none, s.modSp w.isle fun p => p.put w.word (w.combine []) o) := if_pos h

/-- A whole word from a source with no linked entry is written at its bank; no context waits for it and no entry settles. -/
theorem State.arrive_of_word {src : IsleNo} {i : StraitItem} {w : WordWrite} (hfind : (s.isles[k]).inbound.find? (·.src == src) = some i)
    (hmsg : i.msg = .word w) (hwhole : w.whole = true) (hctx : i.ctx = none)
    (hunlinked : ∀ m : Fin 16, ((s.isles[src]).remotes[m]).linked = false) :
    s.arrive k src ⟨[], [], false⟩ =
      (((s.modIsle k fun d => { d with inbound := dropFirst (·.src == src) d.inbound }).comeIn k w.word true).modCnt k fun n =>
        { n with remoteIn := n.remoteIn + 1 }).modSp w.isle fun p => p.put w.word (w.combine []) i.owner := by
  simp only [State.arrive, hfind, applyUpsets_nil, State.deliver, hmsg, State.writeWord_whole hwhole, hctx, hwhole]
  refine State.each_id _ _ _ fun m _ => if_neg ?_
  rw [State.modSp_remotes, State.modCnt_remotes, State.comeIn_remotes,
    State.modIsle_keeps (·.remotes), hunlinked m]
  exact Bool.false_ne_true

theorem State.remoteReads_of_go {c : CtxNo} {x : Context} {far : List Access} (hx : s.ctx k c = x)
    (hall : ((s.headAccesses k c).filter fun a => a.far && a.rd) = far) (hrun : x.phase = .running) (hfetched : x.fetched = false)
    (hfar : far ≠ []) (hgo : s.opHold k false far = .go) :
    s.remoteReads k c =
      (s.each far fun s a =>
        let n := BitVec.ofNat 64 a.addrs.length
        let s := s.each a.addrs fun s w => s.comeIn a.isle w true
        ((s.modCnt a.isle fun m => { m with remoteOut := m.remoteOut + n }).modCnt k fun m =>
          { m with remoteIn := m.remoteIn + n }).charge x.owner 0 (32 * a.addrs.length)).modCtx k c fun x =>
            { x with fetched := true } := by
  have hdue : ¬ (x.phase ≠ .running ∨ x.fetched = true ∨ far = []) := by simp [hrun, hfetched, hfar]
  simp only [State.remoteReads, hx, hall, if_neg hdue, hgo, ne_eq, not_true_eq_false, if_false]

theorem State.creditReturn_of_owed {n : AtollNo} {j : IsleNo} {m : Fin 16} (hby : ((s.isles[k]).atolls[n]).linkedBy = some (j, m.val))
    (howed : ((s.isles[k]).atolls[n]).owed ≠ 0) :
    s.creditReturn k n =
      (s.modAtoll k n fun a => { a with owed := a.owed - 1 }).modRemote j m fun r => { r with credits := r.credits + 1 } := by
  simp only [State.creditReturn, hby, howed, if_false, Fin.ofNat_val_eq_self]

theorem length_dropFirst {α : Type} {p : α → Bool} {l : List α} (h : l.any p = true) : (dropFirst p l).length + 1 = l.length := by
  induction l with
  | nil => cases h
  | cons x xs ih =>
    unfold dropFirst
    split
    · rfl
    · rename_i hx
      rw [List.any_cons, Bool.eq_false_iff.mpr hx, Bool.false_or] at h
      rw [List.length_cons, ih h, List.length_cons]

/-- A wake notice whose slot has filled readies the context that waits on it, and one note less is kept. -/
theorem State.wakeNotice_of_full {src : IsleNo} {c : CtxNo} {w : WakeNote} (hw : w ∈ (s.isles[k]).wakes) (hsrc : w.src = src)
    (hctx : w.ctx = c) (hfull : w.slot ∈ ((s.isles[k]).atolls[Fin.ofNat 64 w.atoll]).full) (hwaits : (s.ctx src c).phase = .waiting) :
    ((s.wakeNotice k src c).ctx src c).phase = .ready ∧ ((s.wakeNotice k src c).ctx src c).cause = .none
      ∧ ((s.wakeNotice k src c).isles[k]).wakes.length + 1 = (s.isles[k]).wakes.length := by
  have hmine : ((s.isles[k]).wakes.any fun w => w.src == src && w.ctx == c
      && ((s.isles[k]).atolls[Fin.ofNat 64 w.atoll]).full.contains w.slot) = true :=
    List.any_eq_true.mpr ⟨w, hw, by simpa [hsrc, hctx] using hfull⟩
  have hstill (f : List WakeNote → List WakeNote) : (s.modIsle k fun i => { i with wakes := f i.wakes }).ctx src c = s.ctx src c :=
    s.modIsle_keeps (·.ctx[c]) k src
  simp only [State.wakeNotice, hmine, if_true, hstill, hwaits, State.wake, State.modCtx_ctx, true_and]
  rw [State.modCtx_wakes, modIsle_get, if_pos rfl]
  exact length_dropFirst hmine

theorem State.retry_of_cleared {c : CtxNo} {r : RetryNote} (hfind : (s.isles[k]).retries.find? (·.ctx == c) = some r) {v : State}
    (hv : ((s.at_ r.due).modIsle k fun i => { i with retries := i.retries.filter (·.ctx != c) }) = v)
    (hwaits : (v.ctx k c).phase = .waiting) (hcleared : v.causeCleared k c = true) : s.retry k c = v.wake k c := by
  simp only [State.retry, hfind, hv, hwaits, hcleared, ne_eq, not_true_eq_false, if_false, if_true]

end

/-- Settles O10: in each clause the hypotheses choose the branch of the command that links, unlinks, carries or wakes. -/
theorem straitsLinkAndDeliver : Obligations.StraitsLinkAndDeliver := by
  constructor
  · intro s k m hrun r a
    refine ⟨fun d n hunlinked => ?link, fun hasks hrefuses => ?refuse, fun hasks henable hcredits hisle => ?accept,
      fun hdue hlinked hby => ?unlink⟩
    case link => exact (live_of_running hrun).trans (congrArg _ (State.linkRequest_of_unlinked hunlinked))
    case refuse => exact (live_of_running hrun).trans (congrArg _ ((State.linkAnswer_of_requested hasks).trans (if_neg hrefuses)))
    case accept =>
      exact (live_of_running hrun).trans
        (congrArg _ ((State.linkAnswer_of_requested hasks).trans (if_pos ⟨henable, hcredits, hisle⟩)))
    case unlink => exact (live_of_running hrun).trans (congrArg _ (State.unlink_of_acknowledged rfl hdue hlinked hby))
  · intro s k hrun
    refine ⟨fun src i w hfind hmsg hwhole hisle hctx hunlinked => ?word, fun c hphase hfetched hfar hgo => ?reads,
      fun n j m hby howed => ?credit, fun src c w hw hsrc hctx hfull hwaits => ?wake, fun c r hfind hwaits hcleared => ?retry⟩
    case word =>
      subst hisle
      exact (live_of_running hrun).trans (congrArg _ (State.arrive_of_word hfind hmsg hwhole hctx hunlinked))
    case reads => exact (live_of_running hrun).trans (congrArg _ (State.remoteReads_of_go rfl rfl hphase hfetched hfar hgo))
    case credit => exact (live_of_running hrun).trans (congrArg _ (State.creditReturn_of_owed hby howed))
    case wake => exact ⟨_, live_of_running hrun, State.wakeNotice_of_full hw hsrc hctx hfull hwaits⟩
    case retry => exact (live_of_running hrun).trans (congrArg _ (State.retry_of_cleared hfind rfl hwaits hcleared))

end Sys2Proof.Machine
end

section
/-! Tile counters: what configuration writes and commands make of a counter, and what the unit refuses
(spec/11_tiling_and_streaming.md R297 to R304). -/

namespace Sys2Proof.Machine

/-! ### One counter (R298, R299, R304) -/

section
variable {t : TileCounter}

/-- The counter that command open makes of one whose grid is within its limit. -/
def TileCounter.started (t : TileCounter) : TileCounter :=
  { t with phase := if t.total = 0 then .exhausted else .open_, next := 0, done := 0, handed := [], requeued := [] }

theorem TileCounter.opened_of_fits (h : t.total ≤ t.limit) : t.opened = (t.started, false) := by
  rw [TileCounter.opened, if_neg (Nat.not_lt.mpr h)]
  by_cases hempty : t.total = 0
  · have hlast : 0 = t.gridCols * t.gridRows := hempty.symm
    simp only [TileCounter.settle, TileCounter.started, TileCounter.total, ← hlast, and_self, if_true]
  · have hmore : t.gridCols * t.gridRows ≠ 0 := hempty
    simp only [TileCounter.settle, TileCounter.started, TileCounter.total, hmore, hmore.symm, false_and, and_false, if_false]

theorem TileCounter.close_of_listed (h : t.phase = .armed ∨ t.phase = .open_ ∨ t.phase = .exhausted) :
    t.close = { t with phase := .closed, requeued := [] } := if_pos h

/-- An index handed out and without its done report is taken back while fewer than 64 are held. -/
theorem TileCounter.requeue_of_handed {i : Nat} (hphase : t.phase = .open_ ∨ t.phase = .exhausted) (hok : t.requeueOk = true)
    (hhanded : ∃ h ∈ t.handed, h.index = i ∧ h.reported = false) (hnew : i ∉ t.requeued) (hroom : t.requeued.length < 64) :
    t.requeue i = some { t with requeued := insertAsc i t.requeued, phase := .open_ } := by
  have hheld : (t.handed.any fun h => h.index == i && !h.reported) = true := by simpa using hhanded
  exact if_pos ⟨hphase, hok, hheld, by simpa using hnew, hroom⟩

theorem TileCounter.requeue_of_unlisted {i : Nat} (h : ¬ (t.phase = .open_ ∨ t.phase = .exhausted)) : t.requeue i = none :=
  if_neg fun hall => h hall.1

/-- A write of the grid's word that names a size or an order outside its range, or sets a reserved bit. -/
theorem TileCounter.written_grid_of_bad {v : Nat}
    (h : 4096 < bitsOf v 0 13 ∨ 4096 < bitsOf v 13 13 ∨ 3 < bitsOf v 26 3 ∨ bitsOf v 29 3 ≠ 0) : t.written 0 v = none :=
  if_pos h

theorem TileCounter.written_command (v : Nat) : t.written 7 v = none := rfl

end

/-! ### The counter unit (R298, R299, R304) -/

/-- What a command comes to while the device runs. -/
theorem live_eq_next {s t u : State} (hrun : s.power.tripped = false) (h : t = u) : live s t = .next u :=
  (live_of_running hrun).trans (congrArg _ h)

section
variable {s : State} {n : CounterNo}

/-- A change of a counter depends only on what it makes of the counter that stands there. -/
theorem State.modCounter_congr {f g : TileCounter → TileCounter} (h : f s.counters[n] = g s.counters[n]) :
    s.modCounter n f = s.modCounter n g :=
  congrArg (fun t => { s with counters := s.counters.set n t }) h

/-- A counter on which no claim waits changes and answers none. -/
theorem State.answerClaims_modCounter {f : TileCounter → TileCounter} (h : (f s.counters[n]).claims = []) :
    (s.modCounter n f).answerClaims n = s.modCounter n f :=
  answerClaims_none _ n (by simpa using h)

theorem State.openCounter_of_fits (hfits : (s.counters[n]).total ≤ (s.counters[n]).limit) (hclaims : (s.counters[n]).claims = []) :
    s.openCounter n = s.modCounter n (·.started) := by
  have hanswers := State.answerClaims_modCounter (s := s) (n := n) (f := fun _ => (s.counters[n]).started) hclaims
  simp only [State.openCounter, TileCounter.opened_of_fits hfits, hanswers, Bool.false_eq_true, if_false]
  exact State.modCounter_congr rfl

theorem State.closeCounter_of_listed
    (hphase : (s.counters[n]).phase = .armed ∨ (s.counters[n]).phase = .open_ ∨ (s.counters[n]).phase = .exhausted)
    (hclaims : (s.counters[n]).claims = []) :
    s.closeCounter n = s.modCounter n fun t => { t with phase := .closed, requeued := [] } := by
  have hclose := TileCounter.close_of_listed hphase
  rw [State.closeCounter, State.answerClaims_modCounter (by rw [hclose]; exact hclaims)]
  exact State.modCounter_congr hclose

theorem State.counterCommand_of_listed {ok : TileCounter → Bool} {f : State → State} (h : ok s.counters[n] = true) :
    s.counterCommand n ok f = f s := if_pos h

theorem State.counterCommand_of_unlisted {ok : TileCounter → Bool} {f : State → State} (h : ok s.counters[n] = false) :
    s.counterCommand n ok f = s.raise 0x3202 := if_neg (Bool.eq_false_iff.mp h)

theorem State.counterRequeue_of_some {i : Nat} {u : TileCounter} (h : (s.counters[n]).requeue i = some u) :
    s.counterRequeue n i = s.modCounter n fun _ => u := by
  simp only [State.counterRequeue, h]

theorem State.counterRequeue_of_none {i : Nat} (h : (s.counters[n]).requeue i = none) : s.counterRequeue n i = s.raise 0x3202 := by
  simp only [State.counterRequeue, h, State.refuseCounter]

theorem State.counterWrite_command (v : BitVec 32) : s.counterWrite n 7 v = s.commandWrite n v.toNat := if_pos rfl

/-- A write of a field that R298 refuses, whatever the counter's state. -/
theorem State.counterWrite_of_none {off : Fin 8} {v : BitVec 32} (hoff : off ≠ 7) (h : (s.counters[n]).written off v.toNat = none) :
    s.counterWrite n off v = s.raise 0x3202 := by
  simp only [State.counterWrite, if_neg hoff, h, State.refuseCounter]

theorem State.counterWrite_of_idle {off : Fin 8} {v : BitVec 32} {u : TileCounter} (hidle : (s.counters[n]).phase = .idle)
    (h : (s.counters[n]).written off v.toNat = some u) :
    s.counterWrite n off v = s.modCounter n fun _ => { u with isleMask := u.isleMask &&& s.availableMask } := by
  have hoff : off ≠ 7 := by
    rintro rfl
    rw [TileCounter.written_command] at h
    cases h
  simp only [State.counterWrite, if_neg hoff, h, hidle, true_or, if_true]

/-- Outside idle only the word of isle_mask takes a write. -/
theorem State.counterWrite_of_busy {off : Fin 8} {v : BitVec 32} (hmask : off ≠ 2) (hoff : off ≠ 7)
    (hbusy : (s.counters[n]).phase ≠ .idle) : s.counterWrite n off v = s.raise 0x3202 := by
  cases hw : (s.counters[n]).written off v.toNat with
  | none => exact State.counterWrite_of_none hoff hw
  | some u => simp only [State.counterWrite, if_neg hoff, hw, hbusy, hmask, false_and, or_self, if_false, State.refuseCounter]

/-- A write of the command word that sets no reserved bit is the command its code names. -/
theorem State.commandWrite_of_clear {v : Nat} (hclear : ¬ (bitsOf v 3 5 ≠ 0 ∨ bitsOf v 28 4 ≠ 0)) :
    (bitsOf v 0 3 = 1 → s.commandWrite n v = s.counterOpen n)
      ∧ (bitsOf v 0 3 = 2 → s.commandWrite n v = s.counterArm n)
      ∧ (bitsOf v 0 3 = 3 → s.commandWrite n v = s.counterClose n)
      ∧ (bitsOf v 0 3 = 4 → s.commandWrite n v = s.counterReset n)
      ∧ (bitsOf v 0 3 = 5 → s.commandWrite n v = s.counterRequeue n (bitsOf v 8 20)) := by
  simp only [State.commandWrite, if_neg hclear]
  refine ⟨fun hcode => ?_, fun hcode => ?_, fun hcode => ?_, fun hcode => ?_, fun hcode => ?_⟩ <;> simp only [hcode]

theorem State.commandWrite_of_reserved {v : Nat}
    (h : (bitsOf v 3 5 ≠ 0 ∨ bitsOf v 28 4 ≠ 0) ∨ bitsOf v 0 3 = 0 ∨ 5 < bitsOf v 0 3) : s.commandWrite n v = s.raise 0x3202 := by
  by_cases hbits : bitsOf v 3 5 ≠ 0 ∨ bitsOf v 28 4 ≠ 0
  · exact if_pos hbits
  · have hcode := h.resolve_left hbits
    rw [State.commandWrite, if_neg hbits]
    split
    case h_6 => rfl
    all_goals omega

end

/-- Settles O7: a counter's state and what it holds choose the branch of each command, and the command word goes by its code. -/
theorem tileCountersTakeTheirCommands : Obligations.TileCountersTakeTheirCommands := by
  refine ⟨fun s n hrun => ?taken, fun s n hrun => ?refused, fun s n v hrun => ?commandWord⟩
  case taken =>
    refine ⟨fun off v u hidle hw => ?config, fun hidle hfits hclaims => ?open_, fun hidle => ?arm,
      fun harmed hdone hfits hclaims => ?armedOpen, fun hphase hclaims => ?close, fun hphase => ?reset,
      fun i hphase hok hhanded hnew hroom => ?requeue⟩
    case config => exact live_eq_next hrun (State.counterWrite_of_idle hidle hw)
    case open_ =>
      have hlisted : s.counterOpen n = s.openCounter n := State.counterCommand_of_listed (beq_iff_eq.mpr hidle)
      exact live_eq_next hrun (hlisted.trans (State.openCounter_of_fits hfits hclaims))
    case arm => exact live_eq_next hrun (State.counterCommand_of_listed (beq_iff_eq.mpr hidle))
    case armedOpen => exact live_eq_next hrun ((if_pos ⟨harmed, hdone⟩).trans (State.openCounter_of_fits hfits hclaims))
    case close =>
      have hlisted : s.counterClose n = s.closeCounter n := State.counterCommand_of_listed (by simpa [or_assoc] using hphase)
      exact live_eq_next hrun (hlisted.trans (State.closeCounter_of_listed hphase hclaims))
    case reset => exact live_eq_next hrun (State.counterCommand_of_listed (by simpa using hphase))
    case requeue =>
      have htaken := TileCounter.requeue_of_handed hphase hok hhanded hnew hroom
      exact live_eq_next hrun ((State.counterRequeue_of_some htaken).trans (State.modCounter_congr rfl))
  case refused =>
    refine ⟨fun hbusy => ⟨?open_, ?arm⟩, fun hphase => ?close, fun hphase => ?reset, fun i hphase => ?requeue, fun v hbad => ?grid,
      fun off v hmask hoff hbusy => ?config, State.raise_counters _ _ _⟩
    case open_ => exact live_eq_next hrun (State.counterCommand_of_unlisted (beq_false_of_ne hbusy))
    case arm => exact live_eq_next hrun (State.counterCommand_of_unlisted (beq_false_of_ne hbusy))
    case close =>
      refine live_eq_next hrun (State.counterCommand_of_unlisted ?_)
      rcases hphase with h | h <;> rw [h] <;> rfl
    case reset =>
      refine live_eq_next hrun (State.counterCommand_of_unlisted ?_)
      rcases hphase with h | h | h <;> rw [h] <;> rfl
    case requeue =>
      refine live_eq_next hrun (State.counterRequeue_of_none (TileCounter.requeue_of_unlisted ?_))
      rcases hphase with h | h | h <;> rw [h] <;> decide
    case grid => exact live_eq_next hrun (State.counterWrite_of_none (by decide) (TileCounter.written_grid_of_bad hbad))
    case config => exact live_eq_next hrun (State.counterWrite_of_busy hmask hoff hbusy)
  case commandWord =>
    intro command reserved
    have hword {t : State} (h : s.commandWrite n v.toNat = t) : exec (.counterConfigWrite n 7 v) s = live s t :=
      congrArg (live s) ((State.counterWrite_command v).trans h)
    refine ⟨fun hclear => ?_, fun hbad => ?_⟩
    · obtain ⟨hopen, harm, hclose, hreset, hrequeue⟩ := State.commandWrite_of_clear (s := s) (n := n) hclear
      exact ⟨fun h => hword (hopen h), fun h => hword (harm h), fun h => hword (hclose h), fun h => hword (hreset h),
        fun h => hword (hrequeue h)⟩
    · exact (hword (State.commandWrite_of_reserved hbad)).trans (live_of_running hrun)

end Sys2Proof.Machine
end

section
/-! Movers and regions: the owners' windows through every step, the writes of windows and of the memory controller, and the life of a
transfer (spec/12_movers_and_regions.md R318 to R327, R335, R336, spec/14_memory_codec_encryption.md R371, R386). -/

namespace Sys2Proof.Machine

/-! ### Owners stay apart (R335, R336) -/

/-- Settles O53: the queue is no part of the region table; of what a step runs only WINDOW_WRITE sets a window, which stands only where it
is legal and apart (`windowBad_legal`, `windowBad_apart`), and a kill or a reset takes windows away. -/
theorem stepsKeepOwnersApart : Obligations.StepsKeepOwnersApart := fun _ _ h hi => (step_flows h).windows hi

/-! ### Region windows (R336) -/

section
variable {s : State} {o : OwnerNo} {n : Fin 64} {b : Bytes} {secure : Bool}

theorem State.windowWrite_of_good (hgood : s.windowBad o b secure = false) (hfree : s.grantHeld b = false) :
    s.windowWrite o n b secure = { s with windows := s.windows.set o ((s.windows[o]).set n (windowOf b)) } := by
  simp only [State.windowWrite, hgood, hfree, Bool.false_eq_true, if_false]

theorem State.windowWrite_of_bad (hbad : s.windowBad o b secure = true) : s.windowWrite o n b secure = s.raise 0x5020 := if_pos hbad

theorem State.windowBad_of_insecure (h : secure = false) : s.windowBad o b secure = true := by simp [State.windowBad, h]

theorem State.windowBad_of_length (h : b.length ≠ 32) : s.windowBad o b secure = true := by simp [State.windowBad, h]

theorem State.windowBad_of_shared_write (hs : (windowOf b).sharedRead = true) (hw : (windowOf b).write = true) :
    s.windowBad o b secure = true := by
  simp [State.windowBad, hs, hw]

theorem State.windowBad_of_not_legal (h : ¬ (windowOf b).Legal s.memTop) : s.windowBad o b secure = true :=
  by_contra fun hgood => h (windowBad_legal hgood)

theorem State.windowBad_of_not_apart {p : OwnerNo} {m : Fin 64} (hp : p ≠ o) (h : ¬ (windowOf b).Apart s.windows[p][m]) :
    s.windowBad o b secure = true :=
  by_contra fun hgood => h (windowBad_apart hgood hp m)

end

/-! ### The memory controller's commands (R371, R386) -/

section
variable {s : State}

theorem State.codecWindowWrite_of_good {n : Fin 16} {b : Bytes} (hgood : s.codecWindowBad n b = false) :
    s.codecWindowWrite n b = s.modMem fun m => { m with codec := m.codec.set n (codecWindowOf b) } :=
  if_neg (Bool.eq_false_iff.mp hgood)

/-- A change of memory depends only on what it makes of the memory that stands there. -/
theorem State.modMem_congr {f g : MemState → MemState} (h : f s.mem = g s.mem) : s.modMem f = s.modMem g :=
  congrArg (fun m => { s with mem := m }) h

theorem State.applyMemUpsets_nil (s : State) : s.applyMemUpsets [] = s := rfl

theorem State.touchAtom_of_sound {a : Nat} (h : s.mem.upsetOf a = none) : s.touchAtom a = (false, s) := by
  simp only [State.touchAtom, h]

theorem State.at_physicalAtoms (s : State) (t : Nat) : (s.at_ t).physicalAtoms = s.physicalAtoms := by
  simp only [State.physicalAtoms, State.memTop, State.at_power]

/-- A patrol read that finds its atom sound, or falls on a check atom, only moves the patrol on. -/
theorem State.patrol_of_sound
    (h : s.mem.patrolAtom % 16 = 15 ∨ s.mem.upsetOf (s.mem.patrolAtom / 16 * 15 + s.mem.patrolAtom % 16) = none) :
    let t := s.at_ (s.mem.patrolAt + 4000)
    s.patrol ⟨[], [], false⟩ = t.modMem fun m =>
      if s.physicalAtoms ≤ m.patrolAtom + 1 then { m with patrolAtom := 0, patrolAt := t.now, scrubPasses := m.scrubPasses + 1 }
      else { m with patrolAtom := m.patrolAtom + 1, patrolAt := t.now } := by
  intro t
  have ht : s.at_ (s.mem.patrolAt + 4000) = t := rfl
  have hatoms : t.physicalAtoms = s.physicalAtoms := s.at_physicalAtoms _
  rw [show s.mem = t.mem from (s.at_mem _).symm] at h
  clear_value t
  have hmoves : s.patrol ⟨[], [], false⟩ = t.modMem fun m => { m with
      patrolAtom := if s.physicalAtoms ≤ t.mem.patrolAtom + 1 then 0 else t.mem.patrolAtom + 1
      patrolAt := t.now
      scrubPasses := if s.physicalAtoms ≤ t.mem.patrolAtom + 1 then m.scrubPasses + 1 else m.scrubPasses } := by
    unfold State.patrol
    rw [ht, State.applyMemUpsets_nil]
    rcases h with hcheck | hsound
    · simp only [hcheck, if_true, hatoms]
    · simp only [hsound, State.touchAtom_of_sound hsound, ite_self, hatoms]
  rw [hmoves]
  refine State.modMem_congr ?_
  split <;> rfl

end

/-- Settles O13: a window that is not refused is set, every listed breach is a refusal, and the memory controller's commands take the
branch of a legal codec window and of a patrol that finds nothing. -/
theorem windowsAndMemoryControllerAreSet : Obligations.WindowsAndMemoryControllerAreSet := by
  refine ⟨fun s o n b secure hrun => ⟨fun hgood hfree => ?_, fun hbreach => ⟨?_, State.raise_windows ..⟩⟩,
    fun s hrun => ⟨fun n b hgood => ?_, fun hsound => ?_⟩⟩
  · exact live_eq_next hrun (State.windowWrite_of_good hgood hfree)
  · refine live_eq_next hrun (State.windowWrite_of_bad ?_)
    rcases hbreach with hinsecure | hlength | ⟨hspace, hlimit⟩ | ⟨hshared, hwrite⟩ | ⟨hspace, htop⟩ | ⟨hspace, p, m, hp, hmeet⟩
    · exact State.windowBad_of_insecure hinsecure
    · exact State.windowBad_of_length hlength
    · refine State.windowBad_of_not_legal fun hlegal => ?_
      obtain ⟨hordered, -⟩ := hlegal hspace
      omega
    · exact State.windowBad_of_shared_write hshared hwrite
    · refine State.windowBad_of_not_legal fun hlegal => ?_
      obtain ⟨-, hext, -⟩ := hlegal (by omega)
      obtain ⟨-, -, hfits⟩ := hext hspace
      omega
    · refine State.windowBad_of_not_apart hp (m := m) fun hapart => ?_
      obtain ⟨hv, hlo, hhi⟩ := hmeet
      have := hapart (.inl hspace) (hv.trans hspace.symm)
      omega
  · exact live_eq_next hrun (State.codecWindowWrite_of_good hgood)
  · exact live_eq_next hrun (State.patrol_of_sound hsound)

/-! ### Channels under changes of another part -/

section
variable {s t : State} {e : Engine} {c : ChanNo}

theorem State.chan_congr (hisles : t.isles = s.isles) (hdev : t.devDma = s.devDma) : t.chan e c = s.chan e c := by
  unfold State.chan State.engine
  rw [hisles, hdev]

@[simp] theorem State.charge_chan (s : State) (o : OwnerNo) (n m : Nat) (e : Engine) (c : ChanNo) :
    (s.charge o n m).chan e c = s.chan e c :=
  State.chan_congr (s.charge_isles o n m) (s.charge_devDma o n m)

/-- Which channel an engine served last is no part of any channel. -/
@[simp] theorem State.modEngine_lastServed_chan (s : State) (e : Engine) (n c : ChanNo) :
    (s.modEngine e fun g => { g with lastServed := n }).chan e c = s.chan e c := by
  cases e
  · rw [State.chan, State.engine, State.modEngine, modIsle_get, if_pos rfl]
    rfl
  · rfl

theorem State.promote_of_empty (h : (s.chan e c).shadowValid = false) : s.promote e c = s :=
  promote_of s e c fun ⟨_, _, hvalid, _⟩ => absurd (h.symm.trans hvalid) Bool.false_ne_true

theorem State.endFills_of_scratchpad (h : (transferOf (s.chan e c).active).srcKind = 1) : s.endFills e c = s :=
  if_neg fun ⟨hext, _⟩ => absurd (h.symm.trans hext) Nat.one_ne_zero

end

/-! ### The life of a transfer (R318 to R327) -/

section
variable {s v : State} {e : Engine} {c : ChanNo}

/-- A transfer that is granted, passes its checks and reads every row runs, with what it read. -/
theorem State.startTransfer_of_read {x : Channel} {d : Transfer} {cs : List Chunk} (hx : s.chan e c = x) (hd : transferOf x.active = d)
    (hnext : s.nextChan e = some c) (hfresh : x.begun = false) (hsize : d.zeroSize = false)
    (hsound : (s.modEngine e fun g => { g with lastServed := c }).transferCheck e x.owner x.active = none)
    (hread : ((s.modEngine e fun g => { g with lastServed := c }).modChan e c fun x =>
      { x with phase := .running, begun := true }).readAll e x.owner d x.offset = (none, cs, v)) :
    s.startTransfer e ⟨[], [], false⟩ = v.modChan e c fun x => { x with reading := cs } := by
  unfold State.startTransfer
  simp only [hnext, applyUpsets_nil, State.applyMemUpsets_nil, State.modEngine_lastServed_chan, hx, hd, hfresh, hsound, hsize, hread,
    Bool.false_eq_true, if_false]

/-- A transfer from a local scratchpad to an end that is not coded, without tags on its source and without notice, leaves behind an idle
channel and its data on the way. -/
theorem State.completeChan_of_plain {x : Channel} {d : Transfer} (hx : s.chan e c = x) (hd : transferOf x.active = d)
    (hempty : x.shadowValid = false) (hsize : d.zeroSize = false) (htag : d.tagSrc = false) (hsrc : d.srcKind = 1)
    (hcoded : d.codedDst = false) (hnotify : d.notify = false) :
    s.completeChan e c = (s.modChan e c fun x =>
      { x with
        phase := .idle
        completed := x.completed + 1
        active := zeros 64
        row := 0
        plane := 0
        byteIn := 0
        begun := false
        reading := []
        transit := x.transit ++ [⟨x.active, x.owner, x.serial, x.offset, x.reading⟩] }).charge x.owner 0
          ((x.reading.map (·.cost)).sum) := by
  have hfills : s.endFills e c = s := State.endFills_of_scratchpad (by rw [hx, hd, hsrc])
  unfold State.completeChan
  simp only [hfills, hx, hd, hsize, htag, hsrc, hcoded, hnotify, Bool.false_and, Bool.false_eq_true, if_false, OfNat.one_ne_ofNat,
    false_and]
  refine State.promote_of_empty ?_
  rw [State.charge_chan, modChan_chan, hx]
  exact hempty

theorem State.completeTransfer_of_local (hrunning : s.runningChan e = some c) (hdst : (transferOf (s.chan e c).active).dstKind ≠ 2) :
    s.completeTransfer e = s.completeChan e c := by
  simp only [State.completeTransfer, hrunning, hdst, if_false]

/-- The oldest completed transfer, none of its words on a strait, brings its data up to the end of the next slot, or to its own end, with
which it has arrived. -/
theorem State.arriveTransfer_of_transit {i : InTransit} {rest : List InTransit} (holdest : (s.chan e c).transit = i :: rest)
    (hhome : s.wordsOut e c i.serial = false) :
    let t := transferOf i.desc
    let stop := (s.nextSlot e t i.upTo).getD t.total
    s.arriveTransfer e c = (s.modChan e c fun x =>
      if stop < t.total then { x with transit := { i with upTo := stop, chunks := chunksAfter t.codedDst stop i.chunks } :: rest }
      else { x with transit := rest, arrived := x.arrived + 1, landed := x.landed + 1 }).land e i.owner t i.upTo stop
        (chunksBefore t.codedDst stop i.chunks) := by
  simp only [State.arriveTransfer, holdest, hhome, Bool.false_eq_true, if_false]

theorem State.arriveTransfer_of_slot {n : Nat} (hnone : (s.chan e c).transit = []) (hphase : (s.chan e c).phase = .running)
    (hdst : (transferOf (s.chan e c).active).dstKind ≠ 2)
    (hslot : s.nextSlot e (transferOf (s.chan e c).active) (s.chan e c).offset = some n) :
    s.arriveTransfer e c = s.moveOn e c n := by
  simp only [State.arriveTransfer, hnone, hslot, hphase, hdst, ne_eq, not_false_eq_true, and_self, if_true]

theorem State.chanWaitLimit_of_waiting {k : IsleNo} (hphase : (s.chan (.isle k) c).phase = .waiting)
    (hwaits : s.mayStart (.isle k) (s.chan (.isle k) c) = false) :
    s.chanWaitLimit (.isle k) c =
      (s.at_ ((s.chan (.isle k) c).waitSince + (s.isles[k]).waitLimit + 1)).faultChan (.isle k) c 0x5024 :=
  if_pos ⟨hphase, hwaits⟩

end

/-- Settles O12: the start of a transfer that is sound and reads whole, its completion, its arrival slot by slot, and the fault of its
wait limit are each one branch of their command. -/
theorem transfersStartCompleteAndArrive : Obligations.TransfersStartCompleteAndArrive := by
  intro s e c hrun hc x d
  have harrival {t : State} (h : s.arriveTransfer e c = t) : exec (.dmaArrival e c) s = .next t :=
    live_eq_next hrun ((onChan_of hc _).trans h)
  refine ⟨fun cs v hnext hfresh hsize hsound hread => ?start, fun hrunning hempty hsize htag hsrc hdst hcoded hnotify => ?complete,
    fun i rest holdest hhome => ?arrive, fun n hnone hphase hdst hslot => ?slot, fun k he hphase hwaits => ?limit⟩
  case start => exact live_eq_next hrun (State.startTransfer_of_read rfl rfl hnext hfresh hsize hsound hread)
  case complete =>
    exact live_eq_next hrun ((State.completeTransfer_of_local hrunning hdst).trans
      (State.completeChan_of_plain rfl rfl hempty hsize htag hsrc hcoded hnotify))
  case arrive =>
    have hbrings := State.arriveTransfer_of_transit holdest hhome
    refine ⟨fun hwhole => harrival ?_, fun hpart => harrival ?_⟩
    · simpa only [if_neg (Nat.not_lt.mpr hwhole)] using hbrings
    · simpa only [if_pos hpart] using hbrings
  case slot => exact harrival (State.arriveTransfer_of_slot hnone hphase hdst hslot)
  case limit =>
    subst he
    exact live_eq_next hrun ((onChan_of hc _).trans (State.chanWaitLimit_of_waiting hphase hwaits))

end Sys2Proof.Machine
end


section
/-! Adaptation: the capture of sample pairs, and the start and the commit of a step (spec/13_adaptation.md R344, R345, R347, R348, R350,
R359, R360). -/

namespace Sys2Proof.Machine

/-! ### Sample pairs (R347, R348) -/

section
variable {a : AdaptStage} {n stripe entries : Nat}

theorem AdaptStage.noted_of_even (heven : n % 2 = 0) :
    a.noted n stripe entries = { a with
      pairs := { frame := n, stripe := stripe, entry := a.freeEntry entries, first := true, second := false } ::
        a.pairs.filter (·.entry != a.freeEntry entries)
      nextEntry := (a.freeEntry entries + 1) % entries } := if_pos heven

theorem AdaptStage.noted_of_odd (hodd : n % 2 = 1) :
    a.noted n stripe entries =
      { a with pairs := a.pairs.map fun p => if p.frame + 1 = n ∧ p.first then { p with second := true } else p } :=
  if_neg (by omega)

/-- The pair that an even frame opens is the first of that frame and lies in the free entry. -/
theorem AdaptStage.entry_noted_of_even (heven : n % 2 = 0) :
    ((a.noted n stripe entries).pairs.find? fun p => p.frame == n || p.frame + 1 == n).map (·.entry) = some (a.freeEntry entries) := by
  rw [noted_of_even heven, List.find?_cons_of_pos (by simp)]
  rfl

/-- The second capture of a pair leaves it where it lies: the pairs of the frame before are those whose first half is held. -/
theorem AdaptStage.entry_noted_of_odd {p : SamplePair} (hodd : n % 2 = 1)
    (hpair : a.pairs.find? (fun p => p.frame + 1 == n && p.first) = some p) (hnew : ∀ q ∈ a.pairs, q.frame ≠ n)
    (hfirst : ∀ q ∈ a.pairs, q.frame + 1 = n → q.first = true) :
    ((a.noted n stripe entries).pairs.find? fun p => p.frame == n || p.frame + 1 == n).map (·.entry) = some p.entry := by
  rw [noted_of_odd hodd, List.find?_map, List.find?_congr (p₂ := fun q => q.frame + 1 == n && q.first) ?same, hpair, Option.map_some,
    Option.map_some]
  case same =>
    intro q hq
    have hother : (q.frame == n) = false := beq_eq_false_iff_ne.mpr (hnew q hq)
    by_cases hbefore : q.frame + 1 = n
    · simp [hbefore, hfirst q hq hbefore]
    · simp [hbefore, hother, beq_eq_false_iff_ne.mpr hbefore]
  split <;> rfl

end

/-- A frame of which a stage has every stripe that one of its stripes reads holds them all. -/
theorem Frame.holds_all {f : Frame} {j : Nat} {stripes : List Nat} (h : ∀ x ∈ stripes, ∃ y ∈ f.produced j, y.stripe = x) :
    (stripes.all fun x => (f.produced j).any (·.stripe == x)) = true := by
  simpa only [List.all_eq_true, List.any_eq_true, beq_iff_eq] using h

/-- A capture whose stripe is held moves it to its half of the pair's entry, for the slot's owner, and notes the frame. The frame after an
even one takes the stripe of a pair that is open. -/
theorem State.capture_of_held {s : State} {k : SlotNo} {n d j count stripe e : Nat} {f : Frame} {img : PlanImage}
    {a : AdaptStage} {b : Bytes} (hb : s.adaptDesc k d = b) (hcount : stripeCount f.height (stripeHeight img.body) = count)
    (hframe : s.slots[k].frameOf n = some f) (hplan : s.slotPlan k = some img) (ha : s.slots[k].adapt.find? (·.desc == d) = some a)
    (hstage : (levelList img.body 0).findIdx? (· == adStage b) = some j)
    (hlevel : f.level = 0) (hon : s.slotNat k 0x60 ≠ 0) (hdesc : b ≠ [])
    (hopen : n % 2 ≠ 0 → a.pairs.find? (fun p => p.frame + 1 == n && p.first) ≠ none)
    (hstripe : (if n % 2 = 0 then captureStripe f.tick k (adStage b) n count
      else ((a.pairs.find? fun p => p.frame + 1 == n && p.first).map (·.stripe)).getD 0) = stripe)
    (hheld : ∀ x ∈ stripesRead (stageDesc img.body (adStage b)) (stripeHeight img.body) count stripe,
      ∃ y ∈ f.produced j, y.stripe = x)
    (hentry : ((a.noted n stripe (adSamples b)).pairs.find? fun p => p.frame == n || p.frame + 1 == n).map (·.entry) = some e) :
    let size := adSampleBytes b / 2
    let bytes := (s.captured k f img.body (stageDesc img.body (adStage b)) (adStage b) j stripe).take size
    s.capture k n d =
      ((s.extWrite (s.slotOwner k) (adSampleBase b + e * adSampleBytes b + n % 2 * size) bytes).charge (s.slotOwner k) 0
        bytes.length).modSlot k (·.modAdapt d fun _ => a.noted n stripe (adSamples b)) := by
  have hgo : ¬ (f.level ≠ 0 ∨ s.slotNat k 0x60 = 0 ∨ b = [] ∨ (!true) = true ∨
      (n % 2 ≠ 0 ∧ a.pairs.find? (fun p => p.frame + 1 == n && p.first) = none)) := by
    simpa [hlevel, hon, hdesc] using hopen
  unfold State.capture
  simp only [hb, hcount, hframe, hplan, ha, hstage, hstripe, Frame.holds_all hheld, hentry, if_neg hgo, Option.getD_some]
  rfl

/-! ### A slot's stages -/

section
variable {s : State} {k : SlotNo} {d : Nat}

@[simp] theorem State.noteSets_slots (s : State) (k : SlotNo) : (s.noteSets k).slots = s.slots := rfl
@[simp] theorem State.noteSets_avail (s : State) (k : SlotNo) : (s.noteSets k).avail = s.avail := rfl
@[simp] theorem State.notePairCount_slots (s : State) (k : SlotNo) : (s.notePairCount k).slots = s.slots := rfl

@[simp] theorem State.modSlot_get (s : State) (k : SlotNo) (f : Slot → Slot) : (s.modSlot k f).slots[k] = f s.slots[k] := by
  simp

/-- A change that keeps the descriptors of stages reaches the stage of the descriptor it is made for. -/
theorem Slot.find_modAdapt {sl : Slot} {a : AdaptStage} {f : AdaptStage → AdaptStage} (hf : ∀ a, (f a).desc = a.desc)
    (ha : sl.adapt.find? (·.desc == d) = some a) : (sl.modAdapt d f).adapt.find? (·.desc == d) = some (f a) := by
  rw [Slot.modAdapt, find_map_desc _ _ _ hf, ha, Option.map_some]

/-! ### The start of a step (R345, R350, R360) -/

/-- The header writes and the count of pairs that follow the change of the slot leave it as it is. -/
theorem State.stepStart_of_turn {a : AdaptStage} {one : Bool} {h : AdaptHeader} (isles : BitVec 16) (hturn : s.stepTurn = some k)
    (hmay : s.stepMayStart k d = true) (ha : s.slots[k].adapt.find? (·.desc == d) = some a) (hhalf : a.readHalf = some one)
    (hheader : a.readHeader = some h) :
    let t := s.stepStart k d isles
    t.slots[k].adapt.find? (·.desc == d) = some { a with
        running := some ⟨1 - h.deployedSet, s.tick.number, h.stepCount + 1, allIsles.filter (isles.getLsbD ·.val),
          adCycles (s.adaptDesc k d)⟩
        pairs := dropUsable (adBatch (s.adaptDesc k d)) a.pairs
        half0 := if one then { a.half0 with valid := false } else a.half0
        half1 := if one then a.half1 else { a.half1 with valid := false } }
      ∧ t.slots[k].charge = s.slots[k].charge + adCycles (s.adaptDesc k d)
      ∧ t.slots[k].steps = s.slots[k].steps + 1 := by
  have hgo : ¬ (s.stepTurn ≠ some k ∨ s.stepMayStart k d = false) := by simp [hturn, hmay]
  intro t
  simp only [t, State.stepStart, if_neg hgo, notePairCount_slots, writeAdaptHeaders_slots, modSlot_get, and_true]
  refine (Slot.find_modAdapt (fun a => ?_) ha).trans ?_
  · split <;> rfl
  · simp only [hhalf, hheader]

/-! ### The commit of a step (R345, R350, R359) -/

/-- While 0x30ss:65 sets no limit no loss is a bad one (R362), so that the commit asks for no reset. -/
theorem State.stepCommit_of_idle {a : AdaptStage} {one : Bool} {h : AdaptHeader} {st : AdaptStep} (loss : BitVec 32) (lossExp : BitVec 8)
    (ha : s.slots[k].adapt.find? (·.desc == d) = some a) (hhalf : a.readHalf = some one) (hheader : a.readHeader = some h)
    (hrunning : a.running = some st) (hratio : s.slotNat k 0x65 = 0) (hidle : s.stepBusy k d = false) :
    let hdr : AdaptHeader :=
      { valid := true, deployedSet := st.set, generation := a.generation, stepCount := st.stepCount
        commitTick := s.tick.number, loss := loss.toInt, lossExp := lossExp.toInt
        baseline := if h.stepCount = 0 then loss.toInt else h.baseline
        baselineExp := if h.stepCount = 0 then lossExp.toInt else h.baselineExp }
    let t := s.stepCommit k d loss lossExp
    t.slots[k].adapt.find? (·.desc == d) = some { a with
        running := none
        half0 := if one then hdr else a.half0
        half1 := if one then a.half1 else hdr
        badLosses := 0 }
      ∧ t.avail.adaptLast = k := by
  intro hdr t
  simp only [t, State.stepCommit, ha, hrunning, hhalf, hheader, hidle, hratio, Bool.false_eq_true, ne_eq, not_true_eq_false, false_and,
    if_false, OfNat.zero_ne_ofNat, setNum_slots, bump_slots, noteSets_slots, writeAdaptHeaders_slots, setNum_avail, bump_avail,
    noteSets_avail, writeAdaptHeaders_avail, modSlot_get, Nat.reduceBEq, Bool.or_false, and_true]
  exact Slot.find_modAdapt (fun _ => rfl) ha

end

/-- Settles O14: what the hypotheses say of the frame's parity chooses the branch of the capture, and those of a step that may start, or is
over, the branch of its command that changes the stage. -/
theorem adaptationCapturesAndCommits : Obligations.AdaptationCapturesAndCommits := by
  refine ⟨?captures, fun s k d a one h hrun ha hhalf hheader => ⟨?start, ?commit⟩⟩
  case captures =>
    intro s k n d f img a j b st h stripes size taken hrun hframe hplan ha hstage hlevel hon hdesc
    refine ⟨?even, ?odd⟩
    case even =>
      intro stripe e heven hheld
      refine live_eq_next hrun ((State.capture_of_held rfl rfl hframe hplan ha hstage hlevel hon hdesc (fun hodd => absurd heven hodd)
        (if_pos heven) hheld (AdaptStage.entry_noted_of_even heven)).trans ?_)
      rw [AdaptStage.noted_of_even heven]
      rfl
    case odd =>
      intro p hodd hpair hheld hnew hfirst
      have hparity : n.toNat % 2 ≠ 0 := by omega
      refine live_eq_next hrun ((State.capture_of_held (stripe := p.stripe) rfl rfl hframe hplan ha hstage hlevel hon hdesc
        (fun _ => by simp [hpair]) (by simp [hparity, hpair]) hheld (AdaptStage.entry_noted_of_odd hodd hpair hnew hfirst)).trans ?_)
      rw [AdaptStage.noted_of_odd hodd]
  case start =>
    intro isles hturn hmay
    exact ⟨_, live_of_running hrun, State.stepStart_of_turn isles hturn hmay ha hhalf hheader⟩
  case commit =>
    intro st loss lossExp hrunning hratio hidle
    exact ⟨_, live_of_running hrun, State.stepCommit_of_idle loss lossExp ha hhalf hheader hrunning hratio hidle⟩

end Sys2Proof.Machine
end

section
/-! External memory under its owners' keys: what a write leaves of the bytes and of the keys of the blocks they lie in, as its owner reads
them (spec/14_memory_codec_encryption.md R369, R374). A key is an identity and a block holds plaintext under one key at a time (log entries
19 and 53). -/

namespace Sys2Proof.Machine

/-! ### Stores of bytes -/

theorem cellsWrite_outside {bs : Bytes} {m : List Host.Cell} {a x : Nat} (hx : x < a ∨ a + bs.length ≤ x) :
    kvGet 0 x (cellsWrite m a bs) = kvGet 0 x m := by
  induction bs generalizing m a with
  | nil => rfl
  | cons b bs ih =>
    rw [List.length_cons] at hx
    calc kvGet 0 x (cellsWrite (kvSet 0 a b m) (a + 1) bs)
      _ = kvGet 0 x (kvSet 0 a b m) := ih (by omega)
      _ = kvGet 0 x m := kvGet_set_other _ _ _ _ _ (by omega) _

theorem cellsWrite_inside {bs : Bytes} {m : List Host.Cell} {a i : Nat} (hi : i < bs.length) :
    kvGet 0 (a + i) (cellsWrite m a bs) = bs[i] := by
  induction bs generalizing m a i with
  | nil => exact absurd hi (Nat.not_lt_zero i)
  | cons b bs ih =>
    cases i with
    | zero => exact (cellsWrite_outside (.inl (Nat.lt_add_one a))).trans (kvGet_set_same ..)
    | succ i =>
      rw [← Nat.add_assoc, Nat.add_right_comm]
      exact ih (Nat.lt_of_succ_lt_succ hi)

section
variable {m : MemState} {k x : Nat}

/-! ### One block under a key (R374) -/

theorem MemState.byteFor_of_own (hk : k ≠ 0) (hown : kvGet 0 (x / 16) m.keys = k) : m.byteFor k x = kvGet 0 x m.cells :=
  if_pos ⟨hown, hown ▸ hk⟩

/-- What a byte reads as rests on its own cell and on the key of its block alone. -/
theorem MemState.byteFor_congr {t : MemState} (hkeys : kvGet 0 (x / 16) t.keys = kvGet 0 (x / 16) m.keys)
    (hcells : kvGet 0 x t.cells = kvGet 0 x m.cells) : t.byteFor k x = m.byteFor k x := by
  unfold MemState.byteFor
  rw [hkeys, hcells]

theorem MemState.read_eq_of_bytes {a : Nat} {bs : Bytes} (h : ∀ i (hi : i < bs.length), m.byteFor k (a + i) = bs[i]) :
    m.read k a bs.length = bs :=
  List.ext_getElem (by simp [MemState.read]) fun i _ hi => by simp [MemState.read, h i hi]

theorem MemState.rekey_key (b c : Nat) : kvGet 0 c (m.rekey k b).keys = if c = b then k else kvGet 0 c m.keys := by
  unfold MemState.rekey
  split
  next hown =>
    split
    next hc => rw [hc, hown]
    next => rfl
  next =>
    split
    next hc => rw [hc, kvGet_set_same]
    next hc => exact kvGet_set_other _ _ _ _ _ hc _

/-- The read-modify-write of R374: a block brought under a key reads under that key as before. -/
theorem MemState.rekey_byteFor (hk : k ≠ 0) (b : Nat) : (m.rekey k b).byteFor k x = m.byteFor k x := by
  by_cases hown : kvGet 0 b m.keys = k
  · rw [MemState.rekey, if_pos hown]
  · have hcells : (m.rekey k b).cells = cellsWrite m.cells (16 * b) (m.read k (16 * b) 16) := by rw [MemState.rekey, if_neg hown]
    by_cases hb : x / 16 = b
    · obtain ⟨i, hi, rfl⟩ : ∃ i < 16, x = 16 * b + i := ⟨x - 16 * b, by omega, by omega⟩
      rw [MemState.byteFor_of_own hk (by rw [MemState.rekey_key, if_pos hb]), hcells, cellsWrite_inside (by simpa [MemState.read])]
      simp [MemState.read]
    · refine MemState.byteFor_congr (by rw [MemState.rekey_key, if_neg hb]) ?_
      rw [hcells]
      exact cellsWrite_outside (by simp only [MemState.read, List.length_map, List.length_range]; omega)

/-! ### The blocks of a write -/

/-- External memory with each of the blocks brought under a key. -/
def MemState.rekeyAll (m : MemState) (k : Nat) (blocks : List Nat) : MemState := blocks.foldl (fun m b => m.rekey k b) m

theorem MemState.rekeyAll_key {blocks : List Nat} (c : Nat) :
    kvGet 0 c (m.rekeyAll k blocks).keys = if c ∈ blocks then k else kvGet 0 c m.keys := by
  induction blocks generalizing m with
  | nil => rfl
  | cons b bs ih =>
    refine (ih (m := m.rekey k b)).trans ?_
    rw [MemState.rekey_key]
    by_cases hc : c = b <;> simp [hc]

theorem MemState.rekeyAll_byteFor (hk : k ≠ 0) (blocks : List Nat) : (m.rekeyAll k blocks).byteFor k x = m.byteFor k x := by
  induction blocks generalizing m with
  | nil => rfl
  | cons b bs ih => exact (ih (m := m.rekey k b)).trans (MemState.rekey_byteFor hk b)

/-- The blocks that `n` bytes from address `a` lie in. -/
def blocksOf (a n : Nat) : List Nat := (List.range ((a + n - 1) / 16 - a / 16 + 1)).map fun i => a / 16 + i

theorem mem_blocksOf {a n i : Nat} (hi : i < n) : (a + i) / 16 ∈ blocksOf a n :=
  List.mem_map.2 ⟨(a + i) / 16 - a / 16, List.mem_range.2 (by omega), by omega⟩

/-! ### A write under a key (R369, R374) -/

section
variable {a : Nat} {bs : Bytes}

theorem MemState.write_keys (h : bs ≠ []) : (m.write k a bs).keys = (m.rekeyAll k (blocksOf a bs.length)).keys := by
  rw [MemState.write, if_neg h]
  rfl

theorem MemState.write_cells (h : bs ≠ []) :
    (m.write k a bs).cells = cellsWrite (m.rekeyAll k (blocksOf a bs.length)).cells a bs := by
  rw [MemState.write, if_neg h]
  rfl

theorem MemState.write_byteFor_inside (hk : k ≠ 0) {i : Nat} (hi : i < bs.length) : (m.write k a bs).byteFor k (a + i) = bs[i] := by
  have hbs : bs ≠ [] := List.ne_nil_of_length_pos (Nat.zero_lt_of_lt hi)
  have hown : kvGet 0 ((a + i) / 16) (m.write k a bs).keys = k := by
    rw [MemState.write_keys hbs, MemState.rekeyAll_key, if_pos (mem_blocksOf hi)]
  rw [MemState.byteFor_of_own hk hown, MemState.write_cells hbs, cellsWrite_inside hi]

theorem MemState.write_byteFor_outside (hk : k ≠ 0) (hx : x < a ∨ a + bs.length ≤ x) :
    (m.write k a bs).byteFor k x = m.byteFor k x := by
  by_cases hbs : bs = []
  · rw [MemState.write, if_pos hbs]
  · calc (m.write k a bs).byteFor k x
      _ = (m.rekeyAll k (blocksOf a bs.length)).byteFor k x :=
        MemState.byteFor_congr (by rw [MemState.write_keys hbs]) (by rw [MemState.write_cells hbs, cellsWrite_outside hx])
      _ = m.byteFor k x := MemState.rekeyAll_byteFor hk _

end
end

/-- Settles O58: a write brings every block it touches under its owner's key, which leaves what that owner reads there as it was, and then
sets the bytes written and no other. -/
theorem ownersReadBackWhatTheyWrite : Obligations.OwnersReadBackWhatTheyWrite := fun _ _ _ _ hk =>
  ⟨MemState.read_eq_of_bytes fun _ hi => MemState.write_byteFor_inside hk hi, fun _ hx => MemState.write_byteFor_outside hk hx⟩

end Sys2Proof.Machine
end

section
namespace Sys2Proof.Machine

theorem live_of_tripped {s : State} (t : State) (h : s.power.tripped = true) : live s t = .next s :=
  congrArg _ (if_pos h)

/-- Settles O51: every command but the reset is live work, which a tripped device leaves undone. -/
theorem trippedDevicesWaitForReset : Obligations.TrippedDevicesWaitForReset := by
  intro c s htrip hreset
  cases c with
  | deviceReset st trained fails => exact absurd rfl (hreset st trained fails)
  | _ => exact live_of_tripped _ htrip

end Sys2Proof.Machine
end

section
/-! The system: boundaries and epochs (spec/02_tick.md R37, R38, R41, spec/15_system.md R423, R424). -/

namespace Sys2Proof.Machine

/-! ### An epoch at its boundary (R423, R424) -/

section
variable {s : State}

theorem State.epochDue_iff : s.epochDue = true ↔ s.sys.confirmed = some s.tick.number ∧ s.tick.epochDone ≠ some s.tick.number := by
  simp [State.epochDue]

theorem State.epochIfDue_of_due (hconfirmed : s.sys.confirmed = some s.tick.number) (hdone : s.tick.epochDone ≠ some s.tick.number) :
    s.epochIfDue = s.applyEpoch := if_pos (State.epochDue_iff.mpr ⟨hconfirmed, hdone⟩)

theorem State.epochIfDue_of_not_due (h : s.sys.confirmed ≠ some s.tick.number ∨ s.tick.epochDone = some s.tick.number) :
    s.epochIfDue = s := if_neg fun hdue => by
  obtain ⟨hconfirmed, hdone⟩ := State.epochDue_iff.mp hdue
  exact h.elim (absurd hconfirmed) hdone

theorem State.applyEpoch_number (s : State) : s.applyEpoch.tick.number = s.tick.number :=
  ((State.applyEpoch_goes (.refl s) : s.Goes true s.applyEpoch).tick rfl).1

/-- What becomes active is what is pending, with the values that came late where they came late for another epoch. -/
theorem State.activate_eq (s : State) :
    s.activate =
      let u := if s.od.lateFor = some s.tick.number then s else s.mergeLate
      ({ u with od := { u.od with pendE := u.od.pendLate, pendLate := [], lateFor := none } } : State).each u.od.pendE fun s e =>
        s.setEntry (e.1 / 256) (e.1 % 256) e.2 := rfl

/-- What came too late for this epoch stays pending for the next. -/
theorem State.activate_pendE (s : State) :
    s.activate.od.pendE = if s.od.lateFor = some s.tick.number then s.od.pendLate else [] := by
  rw [State.activate_eq]
  refine (each_pendE _ _).trans ?_
  split <;> rfl

theorem State.activate_entry {i sub : Nat} {v : OdVal} (hsub : sub < 256)
    (hkeys : (if s.od.lateFor = some s.tick.number then s.od.pendE else s.mergeLate.od.pendE).Pairwise (·.1 ≠ ·.1))
    (hmem : (odKey i sub, v) ∈ if s.od.lateFor = some s.tick.number then s.od.pendE else s.mergeLate.od.pendE) :
    s.activate.entry i sub = v := by
  rw [State.activate_eq]
  refine activate_key _ i sub v ?_ ?_ hsub _
  · split at hmem <;> rename_i hlate <;> simpa only [hlate, if_true, if_false] using hmem
  · split at hkeys <;> rename_i hlate <;> simpa only [hlate, if_true, if_false] using hkeys

/-! ### A boundary (R37, R38, R41) -/

theorem State.settleDeadlines_of_no_borrower (h : ∀ k : SlotNo, (s.slots[k]).borrower = none) : s.settleDeadlines = s :=
  State.each_id _ _ _ fun k _ => by rw [h k]

section
variable (h : ∀ k : SlotNo, (s.slots[k]).borrower = none)
include h

/-- Where no frame borrows, what leads up to a boundary is the end of its window, and then the rings and the front's load at its instant. -/
theorem State.upToBoundary_of_no_borrower :
    s.upToBoundary = (((s.closePast s.tick.next).at_ s.tick.next).each allSlots fun s k => s.settleRing k s.now).frontLoad := by
  obtain ⟨hnext, -, hslots⟩ := s.closePast_next s.tick.next
  have hsettled : (s.closePast s.tick.next).settleDeadlines = s.closePast s.tick.next :=
    State.settleDeadlines_of_no_borrower fun k => by rw [hslots]; exact h k
  simp only [State.upToBoundary, hsettled, hnext]

theorem State.upToBoundary_tick : s.upToBoundary.tick.next = s.tick.next ∧ s.upToBoundary.tick.load = s.tick.load := by
  obtain ⟨hnext, hload, -⟩ := s.closePast_next s.tick.next
  have hrings (t : State) : (t.each allSlots fun s k => s.settleRing k s.now).tick = t.tick :=
    State.each_tick _ _ (fun _ _ => State.settleRing_tick ..) t
  simp only [State.upToBoundary_of_no_borrower h, State.frontLoad, State.modTick_tick, State.setNum_tick, hrings, State.at_tick, hnext,
    hload, and_self]

theorem State.next_le_upToBoundary_now : s.tick.next ≤ s.upToBoundary.now := by
  rw [State.upToBoundary_of_no_borrower h]
  have hgoes (t : State) : t.Goes true (t.each allSlots fun s k => s.settleRing k s.now).frontLoad :=
    State.frontLoad_goes (State.each_goes (.refl t) fun _ _ g => State.settleRing_goes g)
  refine le_trans ?_ ((hgoes _).time rfl)
  rw [State.at_now]
  exact le_max_right ..

/-- A boundary opens the tick of the next number, or of the number to load, at the instant placed for it, and no work after it moves
either. -/
theorem State.boundary_opens (prog : Option Programme) :
    (s.boundary prog).tick.boundary = s.tick.next
      ∧ (s.boundary prog).tick.number = s.tick.load.getD ((s.tick.number + 1) % 2 ^ 48)
      ∧ s.tick.next ≤ (s.boundary prog).now ∧ s.now ≤ (s.boundary prog).now := by
  obtain ⟨hbefore, hafter⟩ := s.boundary_goes prog
  obtain ⟨hnext, hload⟩ := State.upToBoundary_tick h
  obtain ⟨hnumber, hboundary⟩ := hafter.tick rfl
  have hopened : s.upToBoundary.now ≤ (s.boundary prog).now := (State.modTick_now ..).symm.trans_le (hafter.time rfl)
  refine ⟨?_, ?_, (State.next_le_upToBoundary_now h).trans hopened, (hbefore.time rfl).trans hopened⟩
  · simpa only [State.modTick_tick, hnext] using hboundary
  · simpa only [State.modTick_tick, hload, (hbefore.tick rfl).1] using hnumber

end
end

/-- Settles O25: an epoch that is due is applied and any other left alone, and a boundary's tick is not moved by what follows it. -/
theorem boundariesOpenTicksAndEpochs : Obligations.BoundariesOpenTicksAndEpochs := by
  intro s hrun
  refine ⟨fun hconfirmed hdone => ⟨?_, s.applyEpoch_number, ?_, fun i sub v hmem hkeys hsub => ?_⟩, fun hnot => ?_,
    fun prog => ⟨live_of_running hrun, fun hnone => ?_⟩⟩
  · exact live_eq_next hrun (State.epochIfDue_of_due hconfirmed hdone)
  · exact s.activate_pendE
  · exact State.activate_entry hsub hkeys hmem
  · exact live_eq_next hrun (State.epochIfDue_of_not_due hnot)
  · obtain ⟨hboundary, hnumber, hopened, hlater⟩ := State.boundary_opens hnone prog
    have hpump : (s.boundary prog).Goes true (s.boundary prog).pump := State.pump_goes (.refl _)
    obtain ⟨hnum, hbound⟩ := hpump.tick rfl
    have hnow := hpump.time rfl
    exact ⟨hbound.trans hboundary, hnum.trans hnumber, hopened.trans hnow, hlater.trans hnow⟩

end Sys2Proof.Machine
end

section
/-! Managers and beacons: election, takeover, isolation and lost members, and the beacons that members count
(spec/15_system.md R395, R399 to R401, R405, R406). -/

namespace Sys2Proof.Machine

/-! ### Entries read after writes of others -/

section
variable {s : State} {i n j m : Nat}

theorem nat_setNum_same (v : Int) : (s.setNum i n v).nat i n = v.toNat := congrArg Int.toNat (num_setNum_same ..)

theorem nat_setNum_other (v : Int) (h : odKey j m ≠ odKey i n) : (s.setNum i n v).nat j m = s.nat j m :=
  congrArg Int.toNat (num_setNum_other _ _ _ _ _ _ h)

theorem num_setEntry_other (v : OdVal) (h : odKey j m ≠ odKey i n) : (s.setEntry i n v).num j m = s.num j m :=
  congrArg OdVal.int (entry_setEntry_other _ _ _ _ _ _ h)

theorem nat_setEntry_other (v : OdVal) (h : odKey j m ≠ odKey i n) : (s.setEntry i n v).nat j m = s.nat j m :=
  congrArg Int.toNat (num_setEntry_other _ h)

end

/-! ### The manager's role (R395, R399) -/

section
variable {s : State}

theorem State.settleSync_num (s : State) {i n : Nat} (hi : i ≠ 0x2100) (hn : n < 256) : s.settleSync.num i n = s.num i n :=
  congrArg OdVal.int (s.settleSync_entry i n hi hn)

theorem State.settleSync_nat (s : State) {i n : Nat} (hi : i ≠ 0x2100) (hn : n < 256) : s.settleSync.nat i n = s.nat i n :=
  congrArg Int.toNat (s.settleSync_num hi hn)

theorem State.modSys_num (f : SystemState → SystemState) (i n : Nat) : (s.modSys f).num i n = s.num i n := rfl

theorem State.modSys_nat (f : SystemState → SystemState) (i n : Nat) : (s.modSys f).nat i n = s.nat i n := rfl

theorem State.takeRole_role (r : Nat) : (s.takeRole r).role = r := by
  unfold State.takeRole State.role
  split
  · exact (nat_setNum_same _).trans (Int.toNat_natCast r)
  · exact (nat_setNum_other _ (by decide)).trans ((nat_setNum_same _).trans (Int.toNat_natCast r))

theorem State.takeRole_nat (r : Nat) {i n : Nat} (hrole : odKey i n ≠ odKey 0x2900 5) (hdrive : odKey i n ≠ odKey 0x2100 0x0B) :
    (s.takeRole r).nat i n = s.nat i n := by
  unfold State.takeRole
  split
  · exact nat_setNum_other _ hrole
  · exact (nat_setNum_other _ hdrive).trans (nat_setNum_other _ hrole)

theorem State.takeRole_sys (r : Nat) : (s.takeRole r).sys = s.sys := by
  unfold State.takeRole
  split <;> rfl

/-- A device that becomes manager opens the next term and names itself, and knows of no beacon it waits for. -/
theorem State.becomeManager_spec (s : State) :
    s.becomeManager.role = 1 ∧ s.becomeManager.nat 0x2900 7 = (s.nat 0x2900 7 + 1) % 2 ^ 32
      ∧ s.becomeManager.num 0x2900 6 = s.sys.node
      ∧ s.becomeManager.sys = { s.sys with listenUntil := none, joinSent := false, uncounted := 0, heldRaised := false } := by
  refine ⟨?role, ?term, ?node, ?sys⟩
  case role =>
    have hrole := s.takeRole_role 1
    unfold State.role at hrole ⊢
    simp (disch := decide) only [State.becomeManager, State.settleSync_nat, State.modSys_nat, State.setMembership, nat_setEntry_other,
      nat_setNum_other, hrole]
  case term =>
    simp (disch := decide) only [State.becomeManager, State.settleSync_nat, State.modSys_nat, State.setMembership, nat_setEntry_other,
      nat_setNum_same, nat_setNum_other, State.takeRole_nat, Int.toNat_natCast]
  case node =>
    simp (disch := decide) only [State.becomeManager, State.settleSync_num, State.modSys_num, State.setMembership, num_setEntry_other,
      num_setNum_same, num_setNum_other]
  case sys =>
    simp only [State.becomeManager, State.settleSync_sys, State.modSys_sys, State.setMembership, State.setEntry_sys, State.setNum_sys,
      State.takeRole_sys]

/-- A device that still listens and has heard no beacon when its wait ends becomes the only member's manager. -/
theorem State.election_of_unheard {t : Nat} (hlisten : s.sys.listenUntil = some t) (hrole : s.role = 4) (hheard : s.sys.heard = false)
    (hover : t ≤ s.tick.number) : s.election = (s.setMembership 0).becomeManager := by
  simp only [State.election, hlisten, hrole, hheard, hover, ne_eq, not_true_eq_false, Bool.false_eq_true, if_false, if_true]

theorem State.election_of_heard {t : Nat} (hlisten : s.sys.listenUntil = some t) (hrole : s.role = 4) (hheard : s.sys.heard = true) :
    s.election = (s.modSys fun y => { y with listenUntil := none }).raise 0x7002 := by
  simp only [State.election, hlisten, hrole, hheard, ne_eq, not_true_eq_false, if_false, if_true]

/-! ### Takeover, isolation and lost members (R405, R406) -/

/-- A standby that has lost its manager takes over with the members it knows; with no epoch named it schedules none. -/
theorem State.takeover_of_lost (hrole : s.role = 2) (hmissed : 3 ≤ s.sys.uncounted)
    (hsync : s.tick.sync = .holdover ∨ s.tick.sync = .freeRun) (hnow : s.now = s.tick.boundary) (hconfirmed : s.sys.confirmed = none)
    (hnamed : s.sys.namedEpoch = none) :
    let others := (List.range 48).filter fun k => k != s.sys.node && s.isMember k
    s.takeover = ((s.becomeManager.raise 0x7001).modSys fun y =>
      { y with
        members := others.map fun k => { node := k, joined := true, since := (s.becomeManager.raise 0x7001).tick.number - 2 }
        placements := [] }).each others fun x k => (x.negotiate k).readImage k := by
  obtain ⟨-, -, -, hsys⟩ := s.becomeManager_spec
  have hgo : ¬ (s.role ≠ 2 ∨ s.sys.uncounted < 3 ∨ (s.tick.sync ≠ .holdover ∧ s.tick.sync ≠ .freeRun) ∨ s.now ≠ s.tick.boundary) := by
    rcases hsync with h | h <;> simp [hrole, hmissed, h, hnow]
  simp only [State.takeover, if_neg hgo, State.modSys_sys, State.raise_sys, hsys, hconfirmed, hnamed]

theorem State.isolate_of_uncounted (hrole : s.role = 2 ∨ s.role = 3) (hmissed : 8 ≤ s.sys.uncounted) :
    s.isolate = (s.takeRole 5).raise 0x7013 := if_pos ⟨hrole, hmissed⟩

theorem State.dropMember_of_silent {node : Nat} {m : MemberState} (hrole : s.role = 1) (hm : s.member node = some m)
    (hjoined : m.joined = true) (hticks : 3 ≤ s.tick.number) (hsince : m.since + 3 ≤ s.tick.number)
    (hsilent : ∀ i, 1 ≤ i → i ≤ 3 → m.reported (s.tick.number - i) = false) :
    s.dropMember node = (((s.setMembership (withoutBit s.membership node)).setMismatch node false).modSys fun y =>
      { y with members := y.members.filter (·.node != node) }).raise 0x7008 { detail := node } := by
  have h1 := hsilent 1 (by decide) (by decide)
  have h2 := hsilent 2 (by decide) (by decide)
  have h3 := hsilent 3 (by decide) (by decide)
  have hgo : ¬ (s.role ≠ 1 ∨ (!(m.joined && decide (3 ≤ s.tick.number) && [1, 2, 3].all fun i => !m.reported (s.tick.number - i))) = true
      ∨ s.tick.number < m.since + 3) := by
    simp [hrole, hjoined, hticks, hsince, h1, h2, h3]
  simp only [State.dropMember, hm, if_neg hgo]

/-! ### Beacons (R400, R401) -/

theorem State.sendBeacons_of_due (hrole : s.role = 1) (hnew : s.sys.beaconTick ≠ some s.tick.number)
    (hnow : s.now ≤ s.tick.boundary + 20000) :
    let t := s.at_ (s.tick.boundary + 1000)
    let u := t.modSys fun y => { y with beaconTick := some t.tick.number, standby := t.standbyNode }
    s.sendBeacons = u.each u.otherNodes fun x k => x.cwOnce 3 k 0 0 t.beacon :=
  if_neg (by simp [hrole, hnew, hnow])

section
variable {p : EthNo} {src b : Bytes} {f : CwFrame} {u : State} (htake : s.cwTake 3 p src b = (some f, u))
include htake

theorem State.beaconCame_of_higher_term (hrole : u.role = 1) (hterm : u.nat 0x2900 7 < beAt f.payload 20 4) :
    s.beaconCame p src b = u.modSys fun y => { y with yieldDue := true } := by
  simp only [State.beaconCame, htake, hrole, hterm, true_or, if_true]

theorem State.beaconCame_of_listening (hrole : u.role ≠ 1) (hlisten : u.sys.listenUntil ≠ none) :
    s.beaconCame p src b =
      (u.setNum 0x2900 7 (max (u.nat 0x2900 7) (beAt f.payload 20 4) : Nat)).modSys fun y => { y with heard := true } := by
  simp only [State.beaconCame, htake, hrole, Option.isSome_iff_ne_none.mpr hlisten, if_false, if_true]

/-- The first beacon of a boundary that the known manager sends in time is counted, whatever its term. -/
theorem State.beaconCame_of_manager (hrole : u.role ≠ 1) (hlisten : u.sys.listenUntil = none) (hknown : u.nat 0x2900 6 = f.src)
    (hafter : u.tick.boundary < u.now) (hbefore : u.now ≤ u.tick.boundary + u.period / 2) (hfirst : u.sys.counted = false) :
    s.beaconCame p src b = u.countBeacon f.src f.payload := by
  simp only [State.beaconCame, htake, hrole, hlisten, hknown, hafter, hbefore, hfirst, Option.isSome_none, beq_self_eq_true, Bool.or_true,
    Bool.true_or, decide_true, Bool.and_self, Bool.false_and, Bool.not_false, Bool.false_eq_true, if_false, if_true]

end

/-- A window that ends without a counted beacon is counted; the third in a row is reported. -/
theorem State.beaconMissed_of_uncounted (hrole : 1 < s.role) (hcounted : s.sys.counted = false) (hexpired : s.sys.expired = false)
    (hnow : s.now ≤ s.tick.boundary + s.period / 2) (hraised : s.sys.heldRaised = true) :
    let t := s.at_ (s.tick.boundary + s.period / 2)
    let u := (t.modSys fun y => { y with uncounted := t.sys.uncounted + 1, expired := true }).bump 0x2900 0x12
    s.beaconMissed = if t.sys.uncounted + 1 = 3 ∧ (u.role = 2 ∨ u.role = 3) then u.raise 0x7003 else u := by
  intro t u
  have hgo : ¬ (s.role ≤ 1 ∨ s.sys.counted = true ∨ s.sys.expired = true ∨ s.tick.boundary + s.period / 2 < s.now) := by
    simp [hcounted, hexpired, hnow, hrole]
  have hquiet (c : Prop) [Decidable c] : (if c then u.raise 0x7003 else u).sys.heldRaised = true := by
    split <;> simp [u, t, hraised]
  simp only [State.beaconMissed, if_neg hgo]
  exact if_neg fun h => h.2.2.2.2 (hquiet _)

end

/-- Settles O26: each clause is the branch of its command that its hypotheses choose; of a device that becomes manager the entries and the
wait are read back. -/
theorem managersAreElectedAndBeaconsCounted : Obligations.ManagersAreElectedAndBeaconsCounted := by
  refine ⟨fun s hrun => ⟨fun t hlisten hrole => ⟨fun hheard => ?heard, fun hheard hover => ?elected⟩,
      fun hrole hmissed hsync hnow hconfirmed hnamed => ?takeover, fun hrole hmissed => ?isolated,
      fun node m hrole hm hjoined hticks hsince hsilent => ?lost⟩,
    fun s hrun => ⟨fun hrole hnew hnow => ?sends, fun at_ p src b f u htake => ⟨fun hrole hterm => ?yields, fun hrole hlisten => ?hears,
      fun hrole hlisten hknown hafter hbefore hfirst => ?counts⟩,
      fun hrole hcounted hexpired hnow _ _ hraised => ?misses⟩⟩
  case heard => exact live_eq_next hrun (State.election_of_heard hlisten hrole hheard)
  case elected =>
    obtain ⟨hmanager, hterm, hnode, hsys⟩ := (s.setMembership 0).becomeManager_spec
    refine ⟨_, live_eq_next hrun (State.election_of_unheard hlisten hrole hheard hover), hmanager, ?_, hnode, by rw [hsys]⟩
    rw [hterm, State.setMembership, nat_setEntry_other _ (by decide)]
  case takeover => exact live_eq_next hrun (State.takeover_of_lost hrole hmissed hsync hnow hconfirmed hnamed)
  case isolated => exact live_eq_next hrun (State.isolate_of_uncounted hrole hmissed)
  case lost => exact live_eq_next hrun (State.dropMember_of_silent hrole hm hjoined hticks hsince hsilent)
  case sends => exact live_eq_next hrun (State.sendBeacons_of_due hrole hnew hnow)
  case yields => exact live_eq_next hrun (State.beaconCame_of_higher_term htake hrole hterm)
  case hears => exact live_eq_next hrun (State.beaconCame_of_listening htake hrole hlisten)
  case counts => exact live_eq_next hrun (State.beaconCame_of_manager htake hrole hlisten hknown hafter hbefore hfirst)
  case misses =>
    exact live_eq_next hrun (State.beaconMissed_of_uncounted (by omega) hcounted hexpired hnow hraised)

end Sys2Proof.Machine
end

section
/-! Members and epochs of a system: joins, reports and their comparison, the schedule, readiness and the images read afresh
(spec/15_system.md R404, R419, R421 to R423, R427, R428). -/

namespace Sys2Proof.Machine

/-! ### Joining (R404) -/

section
variable {s t : State} {p : EthNo} {src b : Bytes} {f : CwFrame}

/-- Whether the node number of a frame's source is in use: a joined member has reported for one of the last three ticks. -/
theorem numberInUse_iff {u : State} {node : Nat} :
    ((u.member node).any fun m => m.joined && [0, 1, 2].any fun i => i ≤ u.tick.number && m.reported (u.tick.number - i)) = true ↔
      ∃ m ∈ u.member node, m.joined = true ∧ ∃ i ≤ 2, i ≤ u.tick.number ∧ m.reported (u.tick.number - i) = true := by
  have hrange (q : Nat → Prop) : (∃ i ≤ 2, q i) ↔ q 0 ∨ q 1 ∨ q 2 := by
    refine ⟨fun ⟨i, hi, h⟩ => ?_, ?_⟩
    · interval_cases i <;> simp [h]
    · rintro (h | h | h)
      exacts [⟨0, by decide, h⟩, ⟨1, by decide, h⟩, ⟨2, by decide, h⟩]
  simp [hrange, Option.any_eq_true]

section
variable (htake : s.cwTake 5 p src b = (some f, t)) {u : State} (hack : t.sendAck f.src f.chan = u) (hrole : u.role = 1)
include htake hack hrole

theorem State.joinCame_of_in_use
    (h : ∃ m ∈ u.member f.src, m.joined = true ∧ ∃ i ≤ 2, i ≤ u.tick.number ∧ m.reported (u.tick.number - i) = true) :
    s.joinCame p src b = u.cwReliableSend 6 f.src 1 (byte 1 :: zeros 7) := by
  simp only [State.joinCame, htake, hack, hrole, numberInUse_iff.mpr h, ne_eq, not_true_eq_false, if_false, if_true, one_ne_zero,
    not_false_eq_true]

variable (hfree : ¬ ∃ m ∈ u.member f.src, m.joined = true ∧ ∃ i ≤ 2, i ≤ u.tick.number ∧ m.reported (u.tick.number - i) = true)
include hfree

theorem State.joinCame_of_unknown_version (hversion : byteAt f.payload 0 / 16 ≠ 1) :
    s.joinCame p src b = u.cwReliableSend 6 f.src 1 (byte 2 :: zeros 7) := by
  simp only [State.joinCame, htake, hack, hrole, mt numberInUse_iff.mp hfree, hversion, ne_eq, not_true_eq_false, Bool.false_eq_true,
    not_false_eq_true, if_false, if_true, OfNat.ofNat_ne_zero]

theorem State.joinCame_of_accepted (hversion : byteAt f.payload 0 / 16 = 1) :
    s.joinCame p src b =
      ((((u.cwReliableSend 6 f.src 1 (byte 0 :: zeros 7)).modSys fun y =>
        { y with members := y.members.filter (·.node != f.src) ++ [{ node := f.src }] }).negotiate f.src).readImage f.src) := by
  simp only [State.joinCame, htake, hack, hrole, mt numberInUse_iff.mp hfree, hversion, ne_eq, not_true_eq_false, Bool.false_eq_true,
    if_false]

end

theorem State.joinAnswered_of_taken (htake : s.cwTake 6 p src b = (some f, t)) :
    s.joinAnswered p src b =
      let u := t.sendAck f.src f.chan
      if u.role = 4 ∧ byteAt f.payload 0 ≠ 0 then u.raise 0x7007 { detail := u.sys.node } else u := by
  simp only [State.joinAnswered, htake]

end

/-! ### Reports (R421, R427, R428) -/

section
variable {s : State}

theorem State.sendDigest_of_due (hrole : s.role = 2 ∨ s.role = 3) (hnew : s.sys.digestTick ≠ some s.tick.number)
    (hnow : s.now ≤ s.tick.boundary + s.period / 4) :
    s.sendDigest =
      (s.modSys fun y => { y with digestTick := some s.tick.number }).cwOnce 4 (s.nat 0x2900 6) 0 0 s.report.bytes :=
  if_neg (by rcases hrole with h | h <;> simp [h, hnew, hnow])

/-- The report of a member that does not become depleted is kept, and schedules nothing. -/
theorem State.digestCame_of_steady {p : EthNo} {src b : Bytes} {f : CwFrame} {u : State} {m : MemberState}
    (htake : s.cwTake 4 p src b = (some f, u)) (hm : u.member f.src = some m) (hrole : u.role = 1) (hjoined : m.joined = true)
    (hsteady : (reportOf f.payload).depleted = false ∨ ∃ q ∈ m.reports.head?, q.depleted = true) :
    s.digestCame p src b = u.modMember f.src fun m => { m with reports := (reportOf f.payload :: m.reports).take 4 } := by
  have hnot (d : Prop) : ¬ ((reportOf f.payload).depleted = true ∧ ¬ ((m.reports.head?.map (·.depleted)).getD false = true) ∧ d) := by
    rintro ⟨hnow, hbefore, -⟩
    rcases hsteady with h | ⟨q, hq, h⟩
    · exact Bool.false_ne_true (h.symm.trans hnow)
    · rw [hq, Option.map_some, Option.getD_some] at hbefore
      exact hbefore h
  simp only [State.digestCame, htake, hm, hrole, hjoined, if_neg (hnot _), ne_eq, not_true_eq_false, Bool.not_true, Bool.false_eq_true,
    or_self, if_false]

/-- What the manager makes of a member's report of its tick: it agrees, or it ceases to. -/
theorem State.compareDigests_of_due (hrole : s.role = 1) (hnew : s.sys.compareTick ≠ some s.tick.number)
    (hnow : s.now ≤ s.tick.boundary + s.period / 2) (hfull : s.avail.depleted = false) :
    let t := (s.at_ (s.tick.boundary + s.period / 2)).modSys fun y => { y with compareTick := some s.tick.number, ownDepleted := false }
    s.compareDigests = t.each t.sys.members fun x m =>
      match m.reports.find? (·.tick == x.tick.number) with
      | none => x
      | some r =>
        if m.joined = false then x
        else if x.reportMatches m r = true then
          (if x.mismatched m.node = true then (x.setMismatch m.node false).raise 0x700B { detail := m.node } else x)
        else if x.mismatched m.node = true then x
        else (x.setMismatch m.node true).raise 0x700A { detail := m.node } := by
  have hgo : ¬ (s.role ≠ 1 ∨ s.sys.compareTick = some s.tick.number ∨ s.tick.boundary + s.period / 2 < s.now) := by
    simp [hrole, hnew, hnow]
  simp only [State.compareDigests, if_neg hgo, State.at_avail, hfull, State.at_tick, Bool.false_eq_true, false_and, if_false,
    Bool.not_eq_true'] <;> rfl

end

/-- Settles O27: a join that is taken is answered by what its number and version allow, and a report that is due is sent, kept or
compared. -/
theorem membersJoinAndReport : Obligations.MembersJoinAndReport := by
  refine ⟨fun s at_ p src b f t hrun => ⟨fun htake => ?join, fun htake => ?answer⟩,
    fun s hrun => ⟨fun hrole hnew hnow => ?sends, fun at_ p src b f u m htake hm hrole hjoined hsteady => ?keeps,
      fun hrole hnew hnow hfull => ?compares⟩⟩
  case join =>
    exact ⟨fun hrole hused => live_eq_next hrun (State.joinCame_of_in_use htake rfl hrole hused),
      fun hrole hfree hversion => live_eq_next hrun (State.joinCame_of_unknown_version htake rfl hrole hfree hversion),
      fun hrole hfree hversion => live_eq_next hrun (State.joinCame_of_accepted htake rfl hrole hfree hversion)⟩
  case answer => exact live_eq_next hrun (State.joinAnswered_of_taken htake)
  case sends => exact live_eq_next hrun (State.sendDigest_of_due hrole hnew hnow)
  case keeps => exact live_eq_next hrun (State.digestCame_of_steady htake hm hrole hjoined hsteady)
  case compares => exact live_eq_next hrun (State.compareDigests_of_due hrole hnew hnow hfull)

/-! ### The schedule of epochs (R419, R422, R423) -/

section
variable {w : Write} {v : OdVal} {s : State}

theorem epochAct_of_tick (hrole : s.role ≤ 1) (hv : v.int ≠ 0) (hnone : s.nat 0x2900 0x0A = 0)
    (hahead : s.tick.number + 16 ≤ v.int.toNat) : epochAct w v s = (0, (s.setNum 0x2900 0x0A v.int).settleLate) := by
  refine (guarded_ok ?_).trans ?_
  · simp [hrole, hv, hnone, hahead]
  · simp only [always, if_neg hv]

theorem epochAct_of_refused (h : 1 < s.role ∨ (v.int ≠ 0 ∧ (s.nat 0x2900 0x0A ≠ 0 ∨ v.int.toNat < s.tick.number + 16))) :
    epochAct w v s = (0x06090030, s) := by
  refine guarded_no ?_
  rcases h with hrole | ⟨hv, hset | hnear⟩
  · simp [Nat.not_le.mpr hrole]
  · simp [hv, hset]
  · simp [hv, Nat.not_le.mpr hnear]

theorem epochAct_of_cancel (hrole : s.role ≤ 1) (hv : v.int = 0)
    (hopen : s.nat 0x2900 0x0A = 0 ∨ s.tick.number + 2 < s.nat 0x2900 0x0A) :
    epochAct w v s = (0, ((s.setNum 0x2900 0x0A 0).settleLate.modSys fun y => { y with confirmed := none })) := by
  refine (guarded_ok ?_).trans ?_
  · rcases hopen with h | h
    · simp [hrole, hv, h]
    · simp [hrole, hv, State.readinessClosed, h]
  · simp only [always, hv, if_true]

theorem rereadAct_of_manager (hrole : s.role ≤ 1) :
    rereadAct w v s = (0, if (s.member v.int.toNat).any (·.joined) then s.readImage v.int.toNat else s) :=
  guarded_ok (decide_eq_true hrole)

/-! ### Readiness (R423) -/

/-- Two ticks before the epoch readiness closes: the epoch is confirmed, or the node that holds it back clears it. -/
theorem State.closeReadiness_of_due (hrole : s.role ≤ 1) (hdue : s.nat 0x2900 0x0A = s.tick.number + 2)
    (hopen : s.sys.confirmed ≠ some (s.nat 0x2900 0x0A)) (hnow : s.now ≤ s.tick.boundary + 1000) {back : Option Nat}
    (hback : (if s.role = 0 then (if s.ready then none else some s.sys.node) else s.holdsBack (s.nat 0x2900 0x0A)) = back) :
    s.closeReadiness = State.releaseClaims
      (match back with
      | none => s.modSys fun y => { y with confirmed := some (s.nat 0x2900 0x0A) }
      | some k => (s.setNum 0x2900 0x0A 0).settleLate.raise 0x700D { detail := k }) := by
  have hgo : ¬ (1 < s.role ∨ s.nat 0x2900 0x0A = 0 ∨ s.nat 0x2900 0x0A ≠ s.tick.number + 2
      ∨ s.sys.confirmed = some (s.nat 0x2900 0x0A) ∨ s.tick.boundary + 1000 < s.now) := by
    rintro (h | h | h | h | h)
    exacts [by omega, by omega, h hdue, hopen h, by omega]
  simp only [State.closeReadiness, if_neg hgo, hback]
  cases back <;> rfl

end

/-- Settles O28: each write runs the act of its entry, whose branch the role, the schedule and the value choose; readiness that closes
confirms the epoch or clears it. -/
theorem epochsAreScheduledAndConfirmed : Obligations.EpochsAreScheduledAndConfirmed := by
  intro s
  refine ⟨fun w b v had => ⟨fun hrole hv hnone hahead => ?schedules, fun hrefused => ?refuses⟩,
    fun w v had hv hrole hopen => ?cancels, fun w b v had hrole => ?rereads,
    fun hrun hrole => ⟨fun _ _ => live_of_running hrun, fun hdue hopen hnow => ⟨fun hready => ?confirms, fun k hback => ?clears⟩⟩⟩
  case schedules => exact had.act (epochAct_of_tick hrole hv hnone hahead)
  case refuses => exact had.act (epochAct_of_refused hrefused)
  case cancels => exact had.act (epochAct_of_cancel hrole hv hopen)
  case rereads => exact had.act (rereadAct_of_manager hrole)
  case confirms => exact live_eq_next hrun (State.closeReadiness_of_due hrole hdue hopen hnow hready)
  case clears => exact live_eq_next hrun (State.closeReadiness_of_due hrole hdue hopen hnow hback)

end Sys2Proof.Machine
end

section
/-! Causeway: activation flows and their resets, and the relay of requests (spec/15_system.md R412 to R418, R475, R476;
spec/17_object_dictionary.md R462; spec/19_faults_and_availability.md R525). -/

namespace Sys2Proof.Machine

/-! ### DATA and ACK (R412, R413, R416, R417) -/

section
variable {s t : State} {p : EthNo} {src b : Bytes} {f : CwFrame}

theorem State.dataCame_of_slot {a : Nat} {k : SlotNo} (hfree : s.freeBuffer p = some a) (htake : s.cwTake 1 p src b = (some f, t))
    (hslot : t.flowSlot 2 f.src f.chan = some k) : s.dataCame p src b = (t.takeData p a k f).sendAck f.src f.chan := by
  simp only [State.dataCame, hfree, htake, hslot]

theorem State.ackCame_of_taken (htake : s.cwTake 2 p src b = (some f, t)) : s.ackCame p src b = t.takeAck f.src f.payload := by
  simp only [State.ackCame, htake]

theorem State.ackAgain_of_channel {node chan : Nat} {x : RxSpace} (hx : s.rxChannel node chan = some x) (hrole : s.role ≠ 0) :
    s.ackAgain node chan = (s.at_ (x.ackedAt + 10000)).sendAck node chan := by
  simp only [State.ackAgain, hx, hrole, if_false]

/-! ### Retransmission and failed flows (R414) -/

/-- A frame whose time is over is sent again while it has not been sent six times again. -/
theorem State.retransmit_of_again {dest chan at_ : Nat} {u : SentFrame} (hdue : (s.flow dest chan).due = some (at_, u))
    (hagain : u.again < 6) :
    s.retransmit dest chan =
      (((s.at_ at_).setFlow { s.flow dest chan with
        unacked := (s.flow dest chan).unacked.map fun x =>
          if x.seq = u.seq then { x with again := x.again + 1, sentAt := (s.at_ at_).now } else x }).countAgain
            dest chan).cwSend dest (2 ≤ chan) u.bytes := by
  simp only [State.retransmit, hdue, if_neg (Nat.not_le.mpr hagain)]

theorem State.retransmit_of_spent {dest chan at_ : Nat} {u : SentFrame} (hdue : (s.flow dest chan).due = some (at_, u))
    (hspent : 6 ≤ u.again) : s.retransmit dest chan = (s.at_ at_).failFlow dest chan := by
  simp only [State.retransmit, hdue, hspent, if_true]

theorem State.sendFlowReset_of_due {dest chan at_ : Nat} (hdue : (s.flow dest chan).resetDue = true)
    (hat : (s.flow dest chan).resetAt = some at_) :
    let u := (s.at_ at_).setFlow { s.flow dest chan with resetAt := some (max (s.at_ at_).now at_ + 10000) }
    s.sendFlowReset dest chan = u.cwOnce 9 dest chan (u.chanOwner dest chan) [] := by
  have hnow : max (s.at_ at_).now at_ = max s.now at_ := by rw [State.at_now, max_assoc, max_self]
  simp only [State.sendFlowReset, hdue, hat, hnow]

/-- A receiver that is asked discards the window of the channel and its buffers, ends the frames in progress and answers. -/
theorem State.flowResetCame_of_taken (htake : s.cwTake 9 p src b = (some f, t)) :
    let u := (t.modSys fun y =>
      { y with
        spaces := y.spaces.map fun x =>
          if x.src == f.src && x.chan == f.chan && !x.ack then { x with next := 0, held := [] } else x }).releaseBuffers
            fun d => d.src == f.src && d.chan == f.chan
    s.flowResetCame p src b =
      (match u.flowSlot 2 f.src f.chan with | some k => u.failFrames k 0x700E | none => u).sendAck f.src f.chan := by
  simp only [State.flowResetCame, htake] <;> rfl

end

/-- Settles O29: a frame that is taken acts on its flow, and a time that is over on the frame or the reset it stands for. -/
theorem flowsMoveAndReset : Obligations.FlowsMoveAndReset := by
  refine ⟨fun s hrun => ⟨fun at_ p src b a f t k hfree htake hslot => ?data, fun at_ p src b f t htake => ?ack,
      fun node chan x hx hrole => ?periodic, fun node chan t u hdue => ⟨fun hagain => ?again, fun hspent => ?fails⟩⟩,
    fun s hrun => ⟨fun node chan t hdue hat => ?asks, fun at_ p src b f t htake => ?asked⟩⟩
  case data => exact live_eq_next hrun (congrArg State.pump (State.dataCame_of_slot hfree htake hslot))
  case ack => exact live_eq_next hrun (State.ackCame_of_taken htake)
  case periodic => exact live_eq_next hrun (State.ackAgain_of_channel hx hrole)
  case again => exact live_eq_next hrun (congrArg State.pump (State.retransmit_of_again hdue hagain))
  case fails => exact live_eq_next hrun (congrArg State.pump (State.retransmit_of_spent hdue hspent))
  case asks => exact live_eq_next hrun (State.sendFlowReset_of_due hdue hat)
  case asked => exact live_eq_next hrun (congrArg State.pump (State.flowResetCame_of_taken htake))

/-! ### Requests and answers of the relay (R418, R462, R475) -/

section
variable {s t : State} {p : EthNo} {src b : Bytes} {f : CwFrame}

section
variable {a : Around} (htake : s.cwTake 7 p src b = (some f, t)) {u : State} (hack : t.sendAck f.src f.chan = u)
  (hnode : byteAt f.payload 2 = u.sys.node)
include htake hack hnode

theorem State.requestCame_of_part {y : State} (hjoin : u.joinRequest f.src f.payload = (none, y)) : s.requestCame p src b a = y := by
  simp only [State.requestCame, htake, hack, hnode, hjoin, ne_eq, not_true_eq_false, if_false]

theorem State.requestCame_of_whole {r : Bytes} {y : State} (hjoin : u.joinRequest f.src f.payload = (some r, y)) :
    s.requestCame p src b a = (y.loadPlan a.img).answerRelay f.src (beAt f.payload 0 2) r a.card := by
  simp only [State.requestCame, htake, hack, hnode, hjoin, ne_eq, not_true_eq_false, if_false]

end

theorem State.answerRelay_of_held {node n : Nat} {r : Bytes} {card : Option Bytes} (h : s.held (usdoIndex r) = true) :
    s.answerRelay node n r card = s.hold (.relayed node n r card) := if_pos h

theorem State.answerRelay_of_unheld {node n : Nat} {r : Bytes} {card : Option Bytes} (h : s.held (usdoIndex r) = false) :
    s.answerRelay node n r card =
      (s.relayed r card).2.each (relayFrames n (s.relayed r card).2.sys.node (s.relayed r card).1) fun s x =>
        s.cwReliableSend 8 node 1 x := if_neg (Bool.eq_false_iff.mp h)

/-- An answer that is whole goes to the request of the member that sent it. -/
theorem State.answerCame_of_whole {r : RelayOpen} {got : Bytes} {y : State} (htake : s.cwTake 8 p src b = (some f, t))
    (hjoin : (t.sendAck f.src f.chan).joinAnswer (beAt f.payload 0 2) f.payload = (some (r, got), y)) (hmember : r.member = f.src) :
    s.answerCame p src b = y.takeAnswer r got := by
  simp only [State.answerCame, htake, hjoin, hmember, if_true]

theorem State.relayLate_of_open {n : Nat} {r : RelayOpen} (h : s.sys.relays.find? (·.transaction == n) = some r) :
    s.relayLate n = State.takeAnswer
      ((s.at_ (r.sentAt + 10000000)).modSys fun y => { y with relays := y.relays.filter (·.transaction != n) })
      r (usdoAbort (usdoIndex r.request) (usdoSub r.request) 0x05040000) := by
  simp only [State.relayLate, h]

/-! ### Claims held on members, and the poll of their events (R476, R525) -/

theorem State.renewClaim_of_claim {node token : Nat} {m : MemberState} (hm : s.member node = some m) (hclaim : m.claim = some token)
    (hrole : s.role = 1) :
    let t := s.at_ (m.renewAt + 50000000)
    s.renewClaim node = (t.modMember node fun m => { m with renewAt := t.now }).relayTo node (usdoWrite 0x2010 4 (toLe 4 token)) := by
  simp only [State.renewClaim, hm, hclaim, hrole, ne_eq, not_true_eq_false, if_false]

theorem State.pollEvents_of_joined {node : Nat} {m : MemberState} (hrole : s.role = 1) (hm : s.member node = some m)
    (hjoined : m.joined = true) : s.pollEvents node = s.relayTo node (usdoRead 0x2600 1) :=
  if_pos ⟨hrole, by rw [hm]; exact hjoined⟩

end

/-- Settles O30: a request that is whole is answered or held, an answer that is whole is taken, and what is due is sent. -/
theorem requestsAreRelayed : Obligations.RequestsAreRelayed := by
  intro s hrun
  refine ⟨fun at_ p src b a f t htake x y hnode hjoin => ⟨fun hpart => ?part, fun r hwhole => ⟨fun hheld => ?held, fun hfree => ?runs⟩⟩,
    fun at_ p src b f t htake r got y hjoin hmember => ?answer, fun n r hopen => ?late, fun node m token hm hclaim hrole => ?renews,
    fun node m hrole hm hjoined => ?polls⟩
  case part =>
    subst hpart
    exact live_eq_next hrun (congrArg State.pump (State.requestCame_of_part htake rfl hnode hjoin))
  case held =>
    subst hwhole
    exact live_eq_next hrun (congrArg State.pump
      ((State.requestCame_of_whole htake rfl hnode hjoin).trans (State.answerRelay_of_held hheld)))
  case runs =>
    subst hwhole
    exact live_eq_next hrun (congrArg State.pump
      ((State.requestCame_of_whole htake rfl hnode hjoin).trans (State.answerRelay_of_unheld hfree)))
  case answer => exact live_eq_next hrun (State.answerCame_of_whole htake hjoin hmember)
  case late => exact live_eq_next hrun (State.relayLate_of_open hopen)
  case renews => exact live_eq_next hrun (State.renewClaim_of_claim hm hclaim hrole)
  case polls => exact live_eq_next hrun (State.pollEvents_of_joined hrole hm hjoined)

end Sys2Proof.Machine
end

section
/-! Ethernet: links and what a port answers, pauses of the data class, stop frames (spec/16_ethernet.md R431, R433, R436, R440, R441,
R445 to R448), and PTP (R450, R451). -/

namespace Sys2Proof.Machine

section
variable {s : State}

/-- The clock that moves on leaves every entry as it is. -/
theorem State.at_nat (t i n : Nat) : (s.at_ t).nat i n = s.nat i n :=
  congrArg (fun v : OdVal => v.int.toNat) (at_entry s t i n)

end

section
variable {s : State} {p : EthNo}

/-! ### Links (R431) -/

theorem State.linkComesUp_of_enabled (hmode : s.nat (ethIndex p) 1 ≠ 0) (hdown : s.linkUp p = false) (hshed : s.nat 0x2700 1 ≠ 1) :
    s.linkComesUp p =
      ((s.setNum (ethIndex p) 9 (if s.nat (ethIndex p) 1 ≤ 2 then 2 else 3 : Nat)).raise 0x7021).settleError :=
  if_neg (by simp [hmode, hdown, hshed])

theorem State.linkGoesDown_of_up (hup : s.linkUp p = true) :
    s.linkGoesDown p = (((s.setNum (ethIndex p) 9 0).modPort p fun x =>
      { x with dropped := x.dropped + x.queue.length, queue := [], pausing := false, heldSince := none, discarding := false
               neighbours := [] }).raise 0x7020).settleError := by
  simp only [State.linkGoesDown, State.dropLink, hup, if_true, Nat.cast_zero]

/-! ### What a port that runs receives (R433, R436, R445) -/

/-- A frame reaches a port whose link is up, on a device that does not shed or through the port that causeway takes. -/
theorem State.received_of_up {f : State → State} (hup : s.linkUp p = true) (hopen : s.nat 0x2700 1 = 0 ∨ s.causewayPort = some p) :
    s.received p f = f (s.bump (ethIndex p) 0x20) := if_pos ⟨hup, hopen⟩

section
variable (hup : s.linkUp p = true) (hopen : s.nat 0x2700 1 = 0 ∨ s.causewayPort = some p)
include hup hopen

theorem State.unsupported_of_outside {u : Unsupported} (h : (s.bump (ethIndex p) 0x20).outside p u = true) :
    s.unsupported p u = (s.bump (ethIndex p) 0x20).bump (ethIndex p) 0x23 :=
  (State.received_of_up hup hopen).trans (if_pos h)

theorem State.arpAsked_of_own {mac sender target : Bytes} (h : (s.bump (ethIndex p) 0x20).ownAddr p (mapped target) = true) :
    let c := s.bump (ethIndex p) 0x20
    s.arpAsked p mac sender target = (c.countFrame p).emit (.frame p 0x0806 (c.arpBody p 2 mac (mapped sender))) :=
  (State.received_of_up hup hopen).trans (if_pos h)

theorem State.arpAnswered_of_near {mac sender : Bytes} (h : (s.bump (ethIndex p) 0x20).nextHop p (mapped sender) = mapped sender) :
    s.arpAnswered p mac sender = (s.bump (ethIndex p) 0x20).learn p (mapped sender) mac :=
  (State.received_of_up hup hopen).trans (if_pos h)

theorem State.ndCame_solicit_of_own {target x y : Bytes} (h : (s.bump (ethIndex p) 0x20).ownAddr p target = true) :
    s.ndCame p (.solicit target x y) = ((s.bump (ethIndex p) 0x20).countFrame p).emit
      (.frame p 0x1003A ([136, 0, 0, 0, 0x60, 0, 0, 0] ++ slice target 0 16 ++ [2, 1] ++ macOf p)) :=
  (State.received_of_up hup hopen).trans (if_pos h)

theorem State.ndCame_advertise_of_near {target mac : Bytes} (h : (s.bump (ethIndex p) 0x20).nextHop p target = slice target 0 16) :
    s.ndCame p (.advertise target mac) = (s.bump (ethIndex p) 0x20).learn p (slice target 0 16) mac :=
  (State.received_of_up hup hopen).trans (if_pos h)

theorem State.echoAsked_of_own {dst src body : Bytes} (hfits : body.length + (if isV4 dst then 24 else 44) ≤ s.nat (ethIndex p) 2)
    (h : (s.bump (ethIndex p) 0x20).ownAddr p dst = true) :
    s.echoAsked p dst src body = (((s.bump (ethIndex p) 0x20).resolve p src).countFrame p).emit
      (if isV4 dst then .frame p 0x10001 ([0, 0, 0, 0] ++ body) else .frame p 0x1003A ([129, 0, 0, 0] ++ body)) := by
  simp only [State.echoAsked, if_neg (Nat.not_lt.mpr hfits), State.received_of_up hup hopen, h, if_true]
  split <;> rfl

theorem State.queryCame_of_up (six : Bool) (group : Bytes) :
    let c := s.bump (ethIndex p) 0x20
    s.queryCame p six group = c.reportGroups p 2 ((c.groups p).filter fun g => isV4 g != six && (allZero group || g == group)) :=
  State.received_of_up hup hopen

end
end

/-- Settles O31: a link changes by its mode and its state, and each frame a port that runs receives is counted and takes its branch. -/
theorem portsLinkAndAnswer : Obligations.PortsLinkAndAnswer := by
  intro s p hrun
  refine ⟨fun at_ => ⟨fun hmode hdown hshed => ?up, fun hup => ?down⟩, fun hup hopen => ⟨fun u h => ?unsupported,
    fun mac sender target h => ?asked, fun mac sender h => ?answered, fun target x y h => ?solicited, fun target mac h => ?advertised,
    fun dst src body hfits h => ?echo, fun six group => ?query⟩⟩
  case up => exact live_eq_next hrun (State.linkComesUp_of_enabled hmode hdown hshed)
  case down => exact live_eq_next hrun (State.linkGoesDown_of_up hup)
  case unsupported => exact live_eq_next hrun (State.unsupported_of_outside hup hopen h)
  case asked => exact live_eq_next hrun (State.arpAsked_of_own hup hopen h)
  case answered => exact live_eq_next hrun (State.arpAnswered_of_near hup hopen h)
  case solicited => exact live_eq_next hrun (State.ndCame_solicit_of_own hup hopen h)
  case advertised => exact live_eq_next hrun (State.ndCame_advertise_of_near hup hopen h)
  case echo => exact live_eq_next hrun (State.echoAsked_of_own hup hopen hfits h)
  case query => exact live_eq_next hrun (State.queryCame_of_up hup hopen six group)

/-! ### Pauses of the data class (R440, R441) -/

section
variable {s : State} {p : EthNo}

/-- A PFC frame that gives the data class quanta holds it until they are over. -/
theorem State.pfcCame_of_quanta {b : Bytes} (hlength : 20 ≤ b.length) (hopcode : beAt b 0 2 = 0x0101) (hup : s.linkUp p = true)
    (hshed : s.nat 0x2700 1 = 0) (hclass : bitOf (beAt b 2 2) (s.nat 0x2A00 5) = true) (hq : beAt b (4 + 2 * s.nat 0x2A00 5) 2 ≠ 0) :
    let d := State.flushData ((s.bump (ethIndex p) 0x20).bump (ethIndex p) 0x29) p
    s.pfcCame p b = d.modPort p fun x =>
      { x with
        heldSince := if d.dataHeld p then (d.eth.ports[p]).heldSince else some d.now
        heldUntil := d.now + d.quantaCycles p (beAt b (4 + 2 * s.nat 0x2A00 5) 2) } := by
  have hformed : ¬ (b.length < 20 ∨ beAt b 0 2 ≠ 0x0101) := by simp [hlength, hopcode]
  simp only [State.pfcCame, if_neg hformed, State.received_of_up hup (.inl hshed), hclass, hq, Bool.not_true, Bool.false_eq_true, if_false]

theorem State.refreshPfc_of_full (hpausing : (s.eth.ports[p]).pausing = true) (hfill : 98304 < (s.eth.ports[p]).dataFill)
    (hup : s.linkUp p = true) :
    let t := s.at_ ((s.eth.ports[p]).pausedAt + 10000)
    s.refreshPfc p = (t.modPort p fun q => { q with pausedAt := t.now }).sendPfc p 0xFFFF :=
  if_neg (by simp only [hpausing, decide_eq_false (Nat.not_le.mpr hfill), hup, Bool.not_true, Bool.or_self, Bool.false_eq_true,
    not_false_eq_true])

theorem State.pfcWatchdog_of_held {since : Nat} (hsince : (s.eth.ports[p]).heldSince = some since)
    (hdue : since + 100000 * s.nat 0x2A00 6 < (s.eth.ports[p]).heldUntil) (hnow : s.now < (s.eth.ports[p]).heldUntil)
    (hkeeps : (s.eth.ports[p]).discarding = false) :
    s.pfcWatchdog p = (((s.at_ (since + 100000 * s.nat 0x2A00 6)).modPort p fun q => { q with discarding := true, queue := [] }).bump
      (ethIndex p) 0x2A).raise 0x7025 := by
  simp only [State.pfcWatchdog, hsince, Nat.not_le.mpr hdue, Nat.not_le.mpr hnow, hkeeps, Bool.false_eq_true, or_self, if_false]

end

/-! ### Stop frames (R446 to R448) -/

section
variable {s : State} {p : EthNo} {src b : Bytes} {sport cmd : Nat} {f g : State → SlotNo → State}
  (hcmd : byteAt b 1 = cmd) (hup : s.linkUp p = true) (hopen : s.nat 0x2700 1 = 0 ∨ s.causewayPort = some p)
include hcmd hup hopen

/-- An accepted frame that no later command of its cycle precedes is counted, its sequence noted and its command carried out. -/
theorem State.stopFrame_of_accepted {k : SlotNo} (hk : (s.bump (ethIndex p) 0x20).stopAccepted src sport b = some k)
    (hlast : ∀ q, (((s.bump (ethIndex p) 0x20).slots[k]).stop).lastSeq = some q → q ≤ beAt b 8 8) :
    let c := s.bump (ethIndex p) 0x20
    s.stopFrame cmd p src sport b f g =
      f ((c.bump (ethIndex p) 0x2B).modSlot k fun sl => { sl with stop := sl.stop.note c.now (beAt b 8 8) }) k := by
  have hlate : (((s.bump (ethIndex p) 0x20).slots[k]).stop.lastSeq.any (beAt b 8 8 < ·)) = false := by
    simpa only [Option.any_eq_false, decide_eq_false_iff_not, not_lt] using hlast
  simp only [State.stopFrame, hcmd, ne_eq, not_true_eq_false, and_false, State.received_of_up hup hopen, hk, hlate, Bool.false_eq_true,
    if_false]

theorem State.stopFrame_of_rejected (hk : (s.bump (ethIndex p) 0x20).stopAccepted src sport b = none) :
    s.stopFrame cmd p src sport b f g = ((s.bump (ethIndex p) 0x20).bump (ethIndex p) 0x2C).raiseOnce 0x7024 p := by
  simp only [State.stopFrame, hcmd, ne_eq, not_true_eq_false, and_false, State.received_of_up hup hopen, hk, if_false]

end

theorem State.holdEnds_of_stopped {s : State} {k : SlotNo} {t : Nat} (hstopped : (s.slots[k]).stop.stopped = true)
    (hend : (s.slots[k]).stop.holdEnd = some t) : s.holdEnds k = (s.at_ t).releaseResult k := by
  simp only [State.holdEnds, hstopped, hend]

/-- Settles O32: a pause takes the branch that its frame, the port's fill or its limit choose, and a stop frame is accepted for a stream
or only counted. -/
theorem pausesAndStopFrames : Obligations.PausesAndStopFrames := by
  refine ⟨fun s p hrun => ⟨?held, fun hpausing hfill hup => ?refreshed, fun since hsince hdue hnow hkeeps => ?discarded⟩,
    fun s at_ p src sport b hrun => ⟨?stopFrames, fun k t hstopped hend => ?ended⟩⟩
  case held =>
    intro at_ b c' q hlength hopcode hup hshed hclass hq
    have hpcp : (s.at_ at_).nat 0x2A00 5 = s.nat 0x2A00 5 := State.at_nat ..
    simp only [q, c', ← hpcp] at hclass hq ⊢
    exact live_eq_next hrun (State.pfcCame_of_quanta hlength hopcode hup hshed hclass hq)
  case refreshed => exact live_eq_next hrun (State.refreshPfc_of_full hpausing hfill hup)
  case discarded => exact live_eq_next hrun (State.pfcWatchdog_of_held hsince hdue hnow hkeeps)
  case stopFrames =>
    intro t c noted hup hopen
    exact ⟨fun k hcmd hk hlast => live_eq_next hrun (State.stopFrame_of_accepted hcmd hup hopen hk hlast),
      fun k hcmd hk hlast => live_eq_next hrun (State.stopFrame_of_accepted hcmd hup hopen hk hlast),
      fun hcmd hnone => live_eq_next hrun (State.stopFrame_of_rejected hcmd hup hopen hnone),
      fun hcmd hnone => live_eq_next hrun (State.stopFrame_of_rejected hcmd hup hopen hnone)⟩
  case ended => exact live_eq_next hrun (State.holdEnds_of_stopped hstopped hend)

/-! ### PTP (R450, R451) -/

section
variable {s : State}

/-- A Sync of the selected master steers device time, or waits for the follow-up that carries its time. -/
theorem State.ptpCame_of_sync {p : EthNo} {ns : Nat} {peer b : Bytes} (hport : s.nat 0x2A00 7 = p.val) (hup : s.linkUp p = true)
    (hlength : 44 ≤ b.length) (hversion : fieldAt b 1 0 4 = 2) (hdomain : byteAt b 4 = byteAt s.ptpSettings 2)
    (hmaster : s.eth.ptp.master = some (ptpSender b)) (htype : ptpType b = 0) :
    let c := s.bump (ethIndex p) 0x20
    let came := c.deviceNs + ns
    let u := c.modPtp fun x => { x with lastSync := some c.now }
    s.ptpCame p ns peer b =
      if bitOf (byteAt b 6) 1 then u.modPtp fun x => { x with waiting := some (ptpSeq b, came - ptpCorrection b) }
      else u.synced p peer (ptpTime b + ptpCorrection b) came := by
  have htaken : ¬ (s.nat 0x2A00 7 ≠ p.val ∨ (!s.linkUp p) = true ∨ b.length < 44 ∨ fieldAt b 1 0 4 ≠ 2
      ∨ byteAt b 4 ≠ byteAt s.ptpSettings 2) := by
    simp [hport, hup, hlength, hversion, hdomain]
  simp only [State.ptpCame, if_neg htaken, htype, State.bump_eth, hmaster, and_self, OfNat.zero_ne_ofNat, if_false, if_true]

theorem State.ptpHoldover_of_locked {t : Nat} (hsync : s.eth.ptp.lastSync = some t) (hlocked : s.nat 0x2A00 9 = 1) :
    s.ptpHoldover = ((s.at_ (t + 300000000)).setNum 0x2A00 9 2).raise 0x7026 := by
  simp only [State.ptpHoldover, hsync, hlocked, ne_eq, not_true_eq_false, if_false]

end

/-- Settles O33: a Sync of the selected master is taken, and the last Sync's age ends the lock. -/
theorem ptpSteersDeviceTime : Obligations.PtpSteersDeviceTime := by
  intro s hrun
  constructor
  · intro at_ p ns peer b t hport hup hlength hversion hdomain hmaster htype
    exact live_eq_next hrun (State.ptpCame_of_sync hport hup hlength hversion hdomain hmaster htype)
  · intro t hsync hlocked
    exact live_eq_next hrun (State.ptpHoldover_of_locked hsync hlocked)

end Sys2Proof.Machine
end

section
/-! Control ports, versions, service and the write-domain semaphore (spec/17_object_dictionary.md R454 to R458, R464, R466 to R475;
spec/18_firmware_and_update.md R488; spec/21_power_thermal_pins.md R558). -/

namespace Sys2Proof.Machine

/-! ### NMT commands (R458) -/

section
variable {s : State} {p : CanNo}

theorem State.nmt_of_on {f : State → State} (hon : (s.can[p]).enabled = true) (hbus : (s.can[p]).status ≠ .busOff) :
    s.nmt p f = f s := if_pos ⟨hon, hbus⟩

theorem State.resetCommunication_eq (s : State) (p : CanNo) :
    let u := (((s.freeDomains (portRequester p)).modReq (portRequester p) fun r => { r with nego := .none, version := 0, agreed := 0
      }).applyCan p).modCan p fun c => { c with nmt := .preOperational }
    s.resetCommunication p = (if (u.can[p]).enabled then u.emit (.can p (0x700 + (u.can[p]).nodeId) [0]) else u).armHeartbeat p := rfl

/-! ### Heartbeats (R457, R464, R474) -/

theorem State.produceHeartbeat_of_due {t : Nat} (hat : (s.can[p]).produceAt = some t) (hon : (s.can[p]).enabled = true) :
    let u := (s.at_ t).modCan p fun c => { c with produceAt := some (t + msCycles ((s.at_ t).nat 0x1017 0)) }
    s.produceHeartbeat p =
      if (u.can[p]).status = .busOff then u else u.emit (.can p (0x700 + (u.can[p]).nodeId) [byte (u.can[p]).nmt.code]) := by
  rw [State.at_nat]
  simp only [State.produceHeartbeat, hat, hon, Bool.not_true, Bool.false_eq_true, if_false]

/-- A port's supervisor reaches the device while the port is enabled and on the bus. -/
theorem State.reaches_portRequester (s : State) (p : CanNo) :
    s.reaches (portRequester p) = ((s.can[p]).enabled && (s.can[p]).status != .busOff) := by
  fin_cases p <;> rfl

/-- A heartbeat heard restarts the leases of the port's requester where the supervisor sent it, and answers the consumer entry that names
its node. -/
theorem State.heardHeartbeat_of_on {t : State} {node : Nat} (ht : s.expireBefore s.now = t) (hon : (t.can[p]).enabled = true)
    (hbus : (t.can[p]).status ≠ .busOff) :
    let u := if node = (t.can[p]).supervisor then t.restartLease (portRequester p) else t
    s.heardHeartbeat p node =
      if u.nat 0x1016 (p.val + 1) / 65536 = node ∧ u.nat 0x1016 (p.val + 1) % 65536 ≠ 0 then
        u.modCan p fun c => { c with heartbeatAt := some u.now, lapsed := false } else u := by
  have hreaches : t.reaches (portRequester p) = true := by
    rw [State.reaches_portRequester, hon, Bool.true_and, bne_iff_ne]
    exact hbus
  simp only [State.heardHeartbeat, ht, hreaches, Bool.not_true, Bool.false_eq_true, if_false]

theorem State.heartbeatLapses_of_late {t : Nat} (hat : (s.can[p]).heartbeatAt = some t) (hnew : (s.can[p]).lapsed = false)
    (hperiod : s.nat 0x1016 (p.val + 1) % 65536 ≠ 0) :
    s.heartbeatLapses p =
      ((s.at_ (t + 100000 * (s.nat 0x1016 (p.val + 1) % 65536))).modCan p fun c => { c with lapsed := true }).raise 0x800A := by
  simp only [State.heartbeatLapses, hat, hnew, beq_false_of_ne hperiod, msCycles, Bool.or_self, Bool.false_eq_true, if_false]

/-! ### Fault confinement (R455, R456) -/

theorem State.setCan_of_changed {c : CanStatus} {code : Option Nat} (h : (s.can[p]).status ≠ c) :
    s.setCan p c code =
      (match code with
        | some k => (s.modCan p fun x => { x with status := c }).raise k
        | none => s.modCan p fun x => { x with status := c }).settleError := by
  rw [State.setCan, if_neg h]
  cases code <;> rfl

theorem State.foreign_of_other {node : Nat} (hon : (s.can[p]).enabled = true) (hother : node ≠ (s.can[p]).supervisor) :
    s.foreign p node = (s.bump 0x2002 (16 * p.val + 7)).raiseOnce 0x8009 p := by
  simp only [State.foreign, hon, beq_false_of_ne hother, Bool.not_true, Bool.or_self, Bool.false_eq_true, if_false, canBase]

end

/-- Settles O34: a port that is enabled and on the bus follows its commands, and each of its times and states takes one branch. -/
theorem controlPortsFollowTheirCommands : Obligations.ControlPortsFollowTheirCommands := by
  refine ⟨fun s at_ p hrun => ?commands, fun s p hrun => ⟨fun t hat hon => ?produces, fun at_ node => ?hears, fun t hat hnew hperiod => ?late⟩,
    fun s at_ p hrun => ⟨fun hnew => ?busOff, fun hnew => ?passive, fun hnew => ?active, fun node hon hother => ?foreign⟩⟩
  case commands =>
    intro t hon hbus
    exact ⟨live_eq_next hrun (State.nmt_of_on hon hbus), live_eq_next hrun (State.nmt_of_on hon hbus),
      live_eq_next hrun (State.nmt_of_on hon hbus),
      live_eq_next hrun ((State.nmt_of_on hon hbus).trans (t.resetCommunication_eq p))⟩
  case produces => exact live_eq_next hrun (State.produceHeartbeat_of_due hat hon)
  case hears =>
    intro t hon hbus
    exact live_eq_next hrun (State.heardHeartbeat_of_on rfl hon hbus)
  case late => exact live_eq_next hrun (State.heartbeatLapses_of_late hat hnew hperiod)
  case busOff => exact live_eq_next hrun (State.setCan_of_changed hnew)
  case passive => exact live_eq_next hrun (State.setCan_of_changed hnew)
  case active => exact live_eq_next hrun (State.setCan_of_changed hnew)
  case foreign => exact live_eq_next hrun (State.foreign_of_other hon hother)

/-! ### Versions, service and settings (R464, R466 to R468, R488, R558) -/

section
variable {s : State} {w : Write} {v : OdVal}

theorem versionAct_of_spoken {m : Nat} (h : minorFor s.protocols (v.int.toNat / 256) = some m) :
    versionAct w v s = (0, (s.modReq w.req fun r =>
      { r with nego := .agreed, version := v.int.toNat
               agreed := v.int.toNat / 256 * 256 + min (v.int.toNat % 256) m }).raise 0x8005) := by
  simp only [versionAct, always, h]

theorem versionAct_of_unspoken (h : minorFor s.protocols (v.int.toNat / 256) = none) :
    versionAct w v s =
      (0, (s.modReq w.req fun r => { r with nego := .refused, version := v.int.toNat, agreed := 0 }).raise 0x8004) := by
  simp only [versionAct, always, h]

theorem State.enterService_of_outside (h : s.nat 0x2000 8 = 0) :
    s.enterService = (((s.setNum 0x2000 8 1).modFw fun x =>
      { x with trialSince := if (x.flash.record.find .trial).isSome then some s.now else none }).raise 0x8006).settleError :=
  if_neg (not_not.mpr h)

theorem startAct_of_good (hpower : s.nat 0x2700 2 ≠ 0) (htrained : s.mem.trained = true) :
    startAct w v s = (0, s.enterService) := guarded_ok (by simp [hpower, htrained])

theorem startAct_of_refused (h : s.nat 0x2700 2 = 0 ∨ s.mem.trained = false) : startAct w v s = (0x06090030, s) :=
  guarded_no (by rcases h with h | h <;> simp [h])

theorem storeAllAct_eq (w : Write) (v : OdVal) (s : State) : storeAllAct w v s = (0, s.storeSettings) := rfl

theorem restoreAct_eq (w : Write) (v : OdVal) (s : State) :
    restoreAct w v s = (0, s.modFw fun x => { x with flash := { x.flash with loadDefaults := true } }) := rfl

end

/-- Settles O35: each write is admitted and runs the act of its entry, whose branch the version and the state choose. -/
theorem versionsServiceAndSettings : Obligations.VersionsServiceAndSettings := by
  intro s w b v t
  refine ⟨fun had => ⟨fun m hspoken => ?agrees, fun hunspoken => ?refuses⟩,
    fun had => ⟨fun hpower htrained houtside => ?enters, fun hbad => ?waits⟩, fun had => ?stores, fun had => ?restores⟩
  case agrees => exact had.act (versionAct_of_spoken hspoken)
  case refuses => exact had.act (versionAct_of_unspoken hunspoken)
  case enters => exact had.act ((startAct_of_good hpower htrained).trans (congrArg _ (State.enterService_of_outside houtside)))
  case waits => exact had.act (startAct_of_refused (s := t) hbad)
  case stores => exact had.act (storeAllAct_eq w v t)
  case restores => exact had.act (restoreAct_eq w v t)

end Sys2Proof.Machine
end

section
/-! The write-domain semaphore (spec/17_object_dictionary.md R469 to R475). -/

namespace Sys2Proof.Machine

/-! ### Requesters and what they hold (R469) -/

section
variable {s : State} {q : Requester}

theorem State.modReq_requester (f : RequesterState → RequesterState) : (s.modReq q f).requester q = f (s.requester q) := by
  simp [State.modReq, State.requester]

theorem State.modReq_holders (f : RequesterState → RequesterState) : (s.modReq q f).od.holders = s.od.holders := rfl

theorem State.answerTo_requester (n : Nat) : (s.answerTo q n).requester q = { s.requester q with answer := n } :=
  State.modReq_requester _

theorem State.answerTo_holders (n : Nat) : (s.answerTo q n).od.holders = s.od.holders := rfl

theorem State.heldMask_ne_zero {d : Fin 8} (h : s.od.holders[d] = some q) : s.heldMask q ≠ 0 := by
  have hd : 2 ^ d.val ≤ s.heldMask q :=
    List.le_sum_of_mem (List.mem_map.mpr ⟨d, List.mem_finRange d, if_pos h⟩)
  exact Nat.ne_of_gt (Nat.lt_of_lt_of_le (Nat.two_pow_pos _) hd)

theorem State.restartLease_holders : (s.restartLease q).od.holders = s.od.holders := by
  unfold State.restartLease
  split <;> rfl

/-- The lease of a requester that restarts is the only part of its record that changes. -/
theorem State.restartLease_requester :
    (s.restartLease q).requester q = { s.requester q with leaseEnd := ((s.restartLease q).requester q).leaseEnd } := by
  unfold State.restartLease
  split
  · rfl
  · rw [State.modReq_requester]

theorem State.restartLease_leaseEnd (h : s.heldMask q ≠ 0) : ((s.restartLease q).requester q).leaseEnd = s.now + 200000000 := by
  rw [State.restartLease, if_neg h, State.modReq_requester]

/-! ### Claims (R471, R472) -/

theorem exists_testBit_of_mod {mask : Nat} (h : mask % 256 ≠ 0) : ∃ d : Fin 8, mask.testBit d = true := by
  by_contra hnone
  refine h (Nat.eq_of_testBit_eq fun i => ?_)
  rw [show 256 = 2 ^ 8 from rfl, Nat.testBit_mod_two_pow, Nat.zero_testBit]
  by_cases hi : i < 8
  · rw [decide_eq_true hi, Bool.true_and]
    exact Bool.eq_false_iff.mpr fun hbit => hnone ⟨⟨i, hi⟩, hbit⟩
  · rw [decide_eq_false hi, Bool.false_and]

/-- Whether every domain a mask names is free or the claimer's own. -/
def State.Grantable (s : State) (q : Requester) (mask : Nat) : Prop :=
  ∀ d : Fin 8, mask.testBit d = true → s.od.holders[d] = none ∨ s.od.holders[d] = some q

theorem State.grantable_iff {mask : Nat} :
    ((List.finRange 8).all fun d => !mask.testBit d || s.od.holders[d] == none || s.od.holders[d] == some q) = true ↔
      s.Grantable q mask := by
  simp only [State.Grantable, List.all_eq_true, List.mem_finRange, Bool.or_eq_true, Bool.not_eq_true', beq_iff_eq, or_assoc,
    ← Bool.not_eq_true, imp_iff_not_or, not_true_eq_false, false_or]

/-- The state in which a claim has taken its domains under a fresh token. -/
def State.granted (s : State) (q : Requester) (mask : Nat) : State :=
  ({ s.draw.2 with od := { s.od with
      holders := Vector.ofFn fun (d : Fin 8) => if mask.testBit d then some q else s.od.holders[d] } } : State).modReq q fun r =>
    { r with token := freshToken (Config.randomNat s.free) r.token }

theorem State.claim_of_grantable {mask : Nat} (h : s.Grantable q mask) : s.claim q mask = (0, (s.granted q mask).restartLease q) := by
  simp only [State.claim, State.grantable_iff.mpr h, Bool.not_true, Bool.false_eq_true, if_false]
  rfl

theorem State.claim_of_not_grantable {mask : Nat} (h : ¬ s.Grantable q mask) : s.claim q mask = (0x08000020, s.bump 0x2010 8) := by
  simp only [State.claim, Bool.eq_false_iff.mpr (mt State.grantable_iff.mp h), Bool.not_false, if_true]

theorem State.granted_holders (s : State) (q : Requester) (mask : Nat) (d : Fin 8) :
    (s.granted q mask).od.holders[d] = if mask.testBit d then some q else s.od.holders[d] := by
  rw [State.granted, State.modReq_holders]
  simp

theorem State.granted_requester (s : State) (q : Requester) (mask : Nat) :
    (s.granted q mask).requester q =
      { s.requester q with token := freshToken (Config.randomNat s.free) (s.requester q).token } := State.modReq_requester _

/-- What a granted claim leaves: a new token, its domains, and a fresh lease where it took any. -/
theorem State.granted_spec (s : State) (q : Requester) (mask : Nat) :
    let u := ((s.granted q mask).restartLease q).answerTo q 0
    u.requester q = { s.requester q with
        token := freshToken (Config.randomNat s.free) (s.requester q).token
        leaseEnd := (u.requester q).leaseEnd, answer := 0 }
      ∧ (∀ d : Fin 8, u.od.holders[d] = if mask.testBit d then some q else s.od.holders[d])
      ∧ (mask % 256 ≠ 0 → (u.requester q).leaseEnd = s.now + 200000000) := by
  intro u
  simp only [u, State.answerTo_requester, State.answerTo_holders, State.restartLease_holders, State.granted_holders]
  refine ⟨?_, fun _ => trivial, fun hmask => ?_⟩
  · rw [State.restartLease_requester, State.granted_requester]
  · obtain ⟨d, hd⟩ := exists_testBit_of_mod hmask
    exact State.restartLease_leaseEnd (State.heldMask_ne_zero (d := d) (by rw [State.granted_holders, if_pos hd]))

theorem claimAct_eq (w : Write) (v : OdVal) (s : State) :
    claimAct w v s = (s.expireBefore (s.now + 1)).claim w.req v.int.toNat := rfl

/-! ### Release, renewal and the end of a lease (R473, R474) -/

section
variable {w : Write} {v : OdVal} {f : State → Requester → State} (hlimit : ∀ r, (s.requester w.req).limitEnd = some r → r ≤ s.now)
include hlimit

theorem tokenAct_compares :
    tokenAct f w v s = if (s.requester w.req).token ≠ 0 ∧ v.int.toNat = (s.requester w.req).token then (0, f s w.req)
      else (0x08000020, s.mismatch w.req) := by
  have hopen : (s.requester w.req).limitEnd.any (s.now < ·) = false := by
    simpa only [Option.any_eq_false, decide_eq_false_iff_not, not_lt] using hlimit
  simp only [tokenAct, hopen, Bool.false_eq_true, if_false]

theorem tokenAct_of_right (hset : (s.requester w.req).token ≠ 0) (hright : v.int.toNat = (s.requester w.req).token) :
    tokenAct f w v s = (0, f s w.req) := (tokenAct_compares hlimit).trans (if_pos ⟨hset, hright⟩)

theorem tokenAct_of_wrong (hwrong : v.int.toNat ≠ (s.requester w.req).token) :
    tokenAct f w v s = (0x08000020, s.mismatch w.req) := (tokenAct_compares hlimit).trans (if_neg fun h => hwrong h.2)

end

theorem State.leaseEnds_of_held (h : s.heldMask q ≠ 0) :
    s.leaseEnds q = (((s.at_ (s.requester q).leaseEnd).freeDomains q).bump 0x2010 0x0A).raise 0x8001 := if_neg h

theorem State.limitEnds_of_limit {t : Nat} (h : (s.requester q).limitEnd = some t) :
    s.limitEnds q = (s.at_ t).modReq q fun r => { r with limitEnd := none, mismatches := [] } := by
  simp only [State.limitEnds, h]

/-- A claim without another of the same stamp is a write of its entry. -/
theorem exec_semaphoreClaim_alone (w : Write) (b : Bytes) (s : State) :
    exec (.semaphoreClaim w b none) s = live s (s.odRun w 0x2010 1 b claimAct) := by
  obtain ⟨req, held, at_⟩ := w
  cases req <;> rfl

end

/-- Settles O36: a claim is granted whole or refused by the domains it names, and a token is compared outside the refusal second. -/
theorem claimsAreGrantedWhole : Obligations.ClaimsAreGrantedWhole := by
  intro s w b v t
  refine ⟨?claims, fun hlimit => ⟨fun had hset hright => ?releases, fun had hset hright => ?renews, fun had hwrong => ?wrong⟩,
    fun q hrun => ⟨fun hheld => ?ends, fun e hlimit => ?limit⟩⟩
  case claims =>
    intro had e mask free
    refine ⟨fun hfree => ?_, fun hheld => ?_⟩
    · refine ⟨_, e.free, ?_, e.granted_spec w.req mask⟩
      exact (exec_semaphoreClaim_alone ..).trans (had.act ((claimAct_eq w v t).trans (State.claim_of_grantable (s := e) (mask := mask) hfree)))
    · exact (exec_semaphoreClaim_alone ..).trans (had.act ((claimAct_eq w v t).trans (State.claim_of_not_grantable (s := e) (mask := mask) hheld)))
  case releases => exact had.act (act := releaseAct) (tokenAct_of_right (s := t) hlimit hset hright)
  case renews => exact had.act (act := renewAct) (tokenAct_of_right (s := t) hlimit hset hright)
  case wrong => exact had.act (act := releaseAct) (tokenAct_of_wrong (s := t) hlimit hwrong)
  case ends => exact live_eq_next hrun (State.leaseEnds_of_held hheld)
  case limit => exact live_eq_next hrun (State.limitEnds_of_limit hlimit)

end Sys2Proof.Machine
end

section
/-! Writes of entries: the checks of R459 in their order, and what a write that passes them all does (spec/17_object_dictionary.md R459;
spec/00_scope.md R14; spec/15_system.md R424). -/

namespace Sys2Proof.Machine

/-! ### The checks (R459) -/

section
variable {s : State} {w : Write} {i sub : Nat} {b : Bytes}

theorem State.odAdmit_of_no_index (h : odRowsOf i = []) : s.odAdmit w i sub b = .refused 0x06020000 := if_pos (.inl h)

section
variable (hindex : odRowsOf i ≠ []) (hmode : s.nat 0x2000 8 ≠ 2)
include hindex hmode

theorem State.odAdmit_of_no_entry (h : odFind i sub = none) : s.odAdmit w i sub b = .refused 0x06090011 := by
  simp only [State.odAdmit, hindex, hmode, h, false_and, or_self, if_false]

variable {r : OdRow} (hrow : odFind i sub = some r)
include hrow

theorem State.odAdmit_of_forbidden (h : s.forbidden w i sub = true) : s.odAdmit w i sub b = .refused 0x08000022 := by
  simp only [State.odAdmit, hindex, hmode, hrow, h, false_and, or_self, if_false, if_true]

variable (hmay : s.forbidden w i sub = false)
include hmay

theorem State.odAdmit_of_read_only (h : r.acc = .ro) : s.odAdmit w i sub b = .refused 0x06010002 := by
  simp only [State.odAdmit, hindex, hmode, hrow, hmay, h, false_and, or_self, Bool.false_eq_true, if_false, if_true]

variable (hacc : r.acc ≠ .ro)
include hacc

theorem State.odAdmit_of_length (h : r.type.lengthOk b.length = false) : s.odAdmit w i sub b = .refused 0x06070010 := by
  have hdecode : r.type.decode b = none := by simp only [OdType.decode, h, Bool.not_false, if_true]
  simp only [State.odAdmit, hindex, hmode, hrow, hmay, hacc, hdecode, false_and, or_self, Bool.false_eq_true, if_false]

variable {v : OdVal} (hdecode : r.type.decode b = some v)
include hdecode

theorem State.odAdmit_of_unheld_domain (h : s.holdsFor w.req i = false) : s.odAdmit w i sub b = .refused 0x08000020 := by
  simp only [State.odAdmit, hindex, hmode, hrow, hmay, hacc, hdecode, h, Bool.and_false, Bool.not_false, false_and, or_self,
    Bool.false_eq_true, if_false, if_true]

theorem State.odAdmit_of_bad_value (hstart : w.heldAtStart = true) (hholds : s.holdsFor w.req i = true)
    (h : s.entryRule w r i sub v = false) : s.odAdmit w i sub b = .refused 0x06090030 := by
  simp only [State.odAdmit, hindex, hmode, hrow, hmay, hacc, hdecode, hstart, hholds, h, Bool.true_or, Bool.and_self, Bool.not_true,
    false_and, or_self, Bool.false_eq_true, if_false]

end

/-! ### A write carried out (R459, R461) -/

/-- Outside an activation's pause a write needs nothing of the world but what its act takes. -/
theorem State.odRun_card (hheld : s.held i = false) (act : Act) (card : Option Bytes) :
    s.odRun w i sub b act card = s.odRun w i sub b act := by
  simp only [State.odRun, hheld, Bool.false_eq_true, if_false]

theorem State.odRun_of_refused {act : Act} {card : Option Bytes} {c : Nat} (hreach : s.reaches w.req = true) (hheld : s.held i = false)
    (h : (s.atWrite w).odAdmit w i sub b = .refused c) : s.odRun w i sub b act card = (s.atWrite w).answerTo w.req c := by
  unfold State.atWrite at h ⊢
  simp only [State.odRun, hreach, hheld, h, Bool.not_true, Bool.false_eq_true, if_false]

/-! ### The default act (R14, R424) -/

variable {v : OdVal} {r : OdRow} (hrow : odFind i sub = some r)
include hrow

theorem State.storeEntry_of_rw (h : r.acc = .rw) : s.storeEntry i sub v = s.setEntry i sub v := by
  simp only [State.storeEntry, hrow, h]

theorem State.storeEntry_of_rwe_open (h : r.acc = .rwe) (hopen : s.settleLate.afterReadiness = false) :
    s.storeEntry i sub v =
      { s.settleLate with od := { s.settleLate.od with pendE := kvPut (odKey i sub) v s.settleLate.od.pendE } } := by
  simp only [State.storeEntry, hrow, h, hopen, Bool.false_eq_true, if_false]

theorem State.storeEntry_of_rwe_late (h : r.acc = .rwe) (hlate : s.settleLate.afterReadiness = true) :
    s.storeEntry i sub v =
      { s.settleLate with od := { s.settleLate.od with
          pendLate := kvPut (odKey i sub) v s.settleLate.od.pendLate, lateFor := s.settleLate.epochTick } } := by
  simp only [State.storeEntry, hrow, h, hlate, if_true]

theorem State.storeEntry_of_rwf (h : r.acc = .rwf) :
    s.storeEntry i sub v = { s with od := { s.od with pendF := kvPut (odKey i sub) v s.od.pendF } } := by
  simp only [State.storeEntry, hrow, h]

end

/-- Joining late values with the pending ones changes no epoch's schedule. -/
theorem State.settleLate_epochTick (s : State) : s.settleLate.epochTick = s.epochTick := by
  unfold State.settleLate
  split <;> rfl

theorem State.settleLate_afterReadiness (s : State) : s.settleLate.afterReadiness = s.afterReadiness := by
  unfold State.settleLate
  split <;> rfl

theorem ownSub_of_other {i : Nat} (h : i ≠ 0x1014 ∧ i ≠ 0x1015) (q : Requester) (sub : Nat) : ownSub q i sub = sub :=
  if_neg fun ⟨hi, _⟩ => hi.elim h.1 h.2

/-- The default act stores the value in the entry, but for the entries each port has of its own. -/
theorem storeAct_of_other {i : Nat} (h : i ≠ 0x1014 ∧ i ≠ 0x1015) (sub : Nat) (w : Write) (v : OdVal) (s : State) :
    storeAct i sub w v s = (0, s.storeEntry i sub v) := by
  simp only [storeAct, always, ownSub_of_other h]

/-! ### A write of any entry -/

section
variable {s : State} {w : Write} {i : BitVec 16} {sub : BitVec 8} {b : Bytes} {a : Around}

theorem exec_odEntryWrite_of_refused {c : Nat} (hrun : (s.loadPlan a.img).power.tripped = false)
    (hreach : (s.loadPlan a.img).reaches w.req = true) (hheld : (s.loadPlan a.img).held i.toNat = false)
    (h : ((s.loadPlan a.img).atWrite w).odAdmit w i.toNat sub.toNat b = .refused c) :
    exec (.odEntryWrite w i sub b a) s = .next (((s.loadPlan a.img).atWrite w).answerTo w.req c) :=
  live_eq_next ((load_trip s a.img).symm.trans hrun) (State.odRun_of_refused hreach hheld h)

theorem exec_odEntryWrite_of_admitted {v : OdVal} (had : (s.loadPlan a.img).Admits w i.toNat sub.toNat b v) {n : Nat} {t : State}
    (ha : odAct i.toNat sub.toNat a.card w v ((s.loadPlan a.img).atWrite w) = (n, t)) :
    exec (.odEntryWrite w i sub b a) s = .next (t.answerTo w.req n) :=
  (congrArg (live s) (State.odRun_card had.unheld ..)).trans (had.act_loaded ha)

end

/-- Settles O37: the checks stand in their order, the first that fails gives the code, and a write that passes them runs its entry's act. -/
theorem writesAreCheckedInOrder : Obligations.WritesAreCheckedInOrder := by
  intro s w i sub b a l t x y
  refine ⟨fun hrun hreach hheld => ?checks, fun v r had hrow => ?effect⟩
  case checks =>
    have refuses {c : Nat} (h : t.odAdmit w x y b = .refused c) :
        exec (.odEntryWrite w i sub b a) s = .next (t.answerTo w.req c) := exec_odEntryWrite_of_refused hrun hreach hheld h
    refine ⟨fun hnone => refuses (State.odAdmit_of_no_index hnone),
      fun hindex hmode hnone => refuses (State.odAdmit_of_no_entry hindex hmode hnone), fun r hindex hmode hrow => ⟨fun hforbidden => ?_,
      fun hmay => ⟨fun hro => ?_, fun hacc hlength => ?_, fun v hacc hdecode => ⟨fun hfree => ?_, fun hstart hholds hbad => ?_⟩⟩⟩⟩
    · exact refuses (State.odAdmit_of_forbidden hindex hmode hrow hforbidden)
    · exact refuses (State.odAdmit_of_read_only hindex hmode hrow hmay hro)
    · exact refuses (State.odAdmit_of_length hindex hmode hrow hmay hacc hlength)
    · exact refuses (State.odAdmit_of_unheld_domain hindex hmode hrow hmay hacc hdecode hfree)
    · exact refuses (State.odAdmit_of_bad_value hindex hmode hrow hmay hacc hdecode hstart hholds hbad)
  case effect =>
    refine ⟨exec_odEntryWrite_of_admitted had rfl, fun hstore hown => ?_⟩
    have stores {u : State} (h : t.storeEntry x y v = u) : exec (.odEntryWrite w i sub b a) s = .next (u.answerTo w.req 0) :=
      exec_odEntryWrite_of_admitted had ((congrFun (congrFun (congrFun hstore w) v) t).trans
        ((storeAct_of_other hown y w v t).trans (congrArg _ h)))
    refine ⟨fun hrw => stores (State.storeEntry_of_rw hrow hrw), fun hrwe => ⟨fun hopen => ?_, fun hlate => ?_⟩,
      fun hrwf => stores (State.storeEntry_of_rwf hrow hrwf)⟩
    · exact stores (State.storeEntry_of_rwe_open hrow hrwe (t.settleLate_afterReadiness.trans hopen))
    · refine stores ((State.storeEntry_of_rwe_late hrow hrwe (t.settleLate_afterReadiness.trans hlate)).trans ?_)
      rw [State.settleLate_epochTick]

end Sys2Proof.Machine
end

section
/-! A reset restarts the device: the state as reset is released, and what no later part of the start changes
(spec/18_firmware_and_update.md R487 to R491, spec/20_owners_and_ledger.md R529 to R533, spec/21_power_thermal_pins.md R552, R557). -/

namespace Sys2Proof.Machine

variable {r s t : State}

/-! ### As reset is released -/

theorem OwnerState.restarted_keys (x : OwnerState) (n : Nat) :
    (x.restarted n).kek = x.kek ∧ (x.restarted n).stream0 = x.stream0 ∧ (x.restarted n).stream1 = x.stream1
      ∧ (x.restarted n).causeway0 = x.causeway0 ∧ (x.restarted n).causeway1 = x.causeway1 := by
  unfold OwnerState.restarted
  cases x.phase <;> exact ⟨rfl, rfl, rfl, rfl, rfl⟩

theorem OwnerState.restarted_memKey {x : OwnerState} {n : Nat} (hactive : x.phase = .active) : (x.restarted n).memKey = n := by
  simp only [OwnerState.restarted, hactive]

theorem State.cleared_isle (s : State) (st : Straps) (trained : Bool) (k : IsleNo) : (s.cleared st trained).isles[k] = {} :=
  State.reset_isle k

theorem State.cleared_owner (s : State) (st : Straps) (trained : Bool) (o : OwnerNo) :
    (s.cleared st trained).owners[o] = (s.owners[o]).restarted (s.mem.nextKey + o.val) :=
  Vector.getElem_ofFn o.isLt

theorem State.cleared_adapt (s : State) (st : Straps) (trained : Bool) (k : SlotNo) : ((s.cleared st trained).slots[k]).adapt = [] := by
  have h : (s.cleared st trained).slots[k] = { State.reset.slots[k] with result := { seq := s.keptSequence k } } :=
    Vector.getElem_ofFn k.isLt
  rw [h]
  simp [State.reset]

theorem State.cleared_term (s : State) (st : Straps) (trained : Bool) : (s.cleared st trained).num 0x2900 7 = s.num 0x2900 7 :=
  (num_setNum_other _ _ _ _ _ _ (by decide)).trans (num_setNum_same ..)

theorem State.cleared_lock (s : State) (st : Straps) (trained : Bool) : (s.cleared st trained).num 0x2800 6 = s.num 0x2800 6 :=
  num_setNum_same ..

/-! ### What the start keeps -/

/-- No step of any adaptation stage runs. -/
def State.AdaptIdle (s : State) : Prop := ∀ k : SlotNo, ∀ a ∈ (s.slots[k]).adapt, a.running = none

/-- What no part of a start changes: power, windows, external memory, provenance, queue and plans, the isles no plan's adaptation is
placed in; and no step begins to run. -/
structure State.StartsOn (s t : State) : Prop where
  power : t.power = s.power
  windows : t.windows = s.windows
  mem : t.mem = s.mem
  provCounter : t.provCounter = s.provCounter
  pending : t.pending = s.pending
  plans : t.plans = s.plans
  idle : s.AdaptIdle → t.AdaptIdle
  sp : ∀ k : IsleNo, (∀ p ∈ s.plans, ∀ m ∈ p.sets, k ∉ m.isles) → (t.isles[k]).sp = (s.isles[k]).sp

namespace State.StartsOn

theorem refl (s : State) : s.StartsOn s := ⟨rfl, rfl, rfl, rfl, rfl, rfl, id, fun _ _ => rfl⟩

theorem trans (h : r.StartsOn s) (g : s.StartsOn t) : r.StartsOn t :=
  ⟨g.power.trans h.power, g.windows.trans h.windows, g.mem.trans h.mem, g.provCounter.trans h.provCounter,
    g.pending.trans h.pending, g.plans.trans h.plans, g.idle ∘ h.idle,
    fun k hk => (g.sp k (h.plans ▸ hk)).trans (h.sp k hk)⟩

/-- A change of fields that the start may change. -/
theorem keep (h : r.StartsOn s) (hpower : t.power = s.power) (hwindows : t.windows = s.windows) (hmem : t.mem = s.mem)
    (hprov : t.provCounter = s.provCounter) (hpending : t.pending = s.pending) (hplans : t.plans = s.plans)
    (hslots : t.slots = s.slots) (hisles : t.isles = s.isles) : r.StartsOn t :=
  h.trans ⟨hpower, hwindows, hmem, hprov, hpending, hplans, fun hi k => by rw [hslots]; exact hi k, fun k _ => by rw [hisles]⟩

theorem same (h : r.StartsOn s) (g : s.SameButEvents t) : r.StartsOn t :=
  h.keep g.power g.windows g.mem g.provCounter g.pending g.plans g.slots g.isles

theorem setNum (h : r.StartsOn s) {i n : Nat} {v : Int} : r.StartsOn (s.setNum i n v) := h.same (s.setNum_same i n v)
theorem raise (h : r.StartsOn s) {c : Nat} {d : Concern} : r.StartsOn (s.raise c d) := h.same (s.raise_same c d)
theorem settleError (h : r.StartsOn s) : r.StartsOn s.settleError := h.same s.settleError_same
theorem modCan (h : r.StartsOn s) {p : CanNo} {f : CanPort → CanPort} : r.StartsOn (s.modCan p f) := h.same (s.modCan_same p f)
theorem setEntry (h : r.StartsOn s) {i n : Nat} {v : OdVal} : r.StartsOn (s.setEntry i n v) := h.keep rfl rfl rfl rfl rfl rfl rfl rfl
theorem bump (h : r.StartsOn s) {i n : Nat} : r.StartsOn (s.bump i n) := h.keep rfl rfl rfl rfl rfl rfl rfl rfl
theorem modFw (h : r.StartsOn s) {f : FirmwareState → FirmwareState} : r.StartsOn (s.modFw f) := h.keep rfl rfl rfl rfl rfl rfl rfl rfl
theorem modSys (h : r.StartsOn s) {f : SystemState → SystemState} : r.StartsOn (s.modSys f) := h.keep rfl rfl rfl rfl rfl rfl rfl rfl
theorem modLedger (h : r.StartsOn s) {f : LedgerState → LedgerState} : r.StartsOn (s.modLedger f) :=
  h.keep rfl rfl rfl rfl rfl rfl rfl rfl
theorem modTick (h : r.StartsOn s) {f : TickState → TickState} : r.StartsOn (s.modTick f) := h.keep rfl rfl rfl rfl rfl rfl rfl rfl
theorem emit (h : r.StartsOn s) {o : Out} : r.StartsOn (s.emit o) := h.keep rfl rfl rfl rfl rfl rfl rfl rfl

/-- A slot changed, its adaptation left without a running step. -/
theorem modSlot (h : r.StartsOn s) {k : SlotNo} {f : Slot → Slot}
    (hf : ∀ sl : Slot, (∀ a ∈ sl.adapt, a.running = none) → ∀ a ∈ (f sl).adapt, a.running = none) : r.StartsOn (s.modSlot k f) := by
  refine h.trans ⟨rfl, rfl, rfl, rfl, rfl, rfl, fun hi j => ?_, fun _ _ => rfl⟩
  show ∀ a ∈ ((s.slots.set k (f s.slots[k]))[j]).adapt, a.running = none
  rw [Fin.getElem_fin, Vector.getElem_set]
  split
  · exact hf _ (hi k)
  · exact hi j

theorem ite {p : Prop} [Decidable p] {u : State} (ht : r.StartsOn t) (hu : r.StartsOn u) : r.StartsOn (if p then t else u) := by
  split
  · exact ht
  · exact hu

/-- A fold of parts of the start, each from a state where no step runs. -/
theorem each_idle {α : Type} {f : State → α → State} (hf : ∀ (s : State) a, s.AdaptIdle → s.StartsOn (f s a))
    (hi : r.AdaptIdle) (xs : List α) (h : r.StartsOn s) : r.StartsOn (s.each xs f) := by
  induction xs generalizing s with
  | nil => exact h
  | cons x xs ih => exact ih (h.trans (hf s x (h.idle hi)))

theorem each {α : Type} {f : State → α → State} (hf : ∀ (s : State) a, s.StartsOn (f s a)) (xs : List α) (h : r.StartsOn s) :
    r.StartsOn (s.each xs f) := by
  induction xs generalizing s with
  | nil => exact h
  | cons x xs ih => exact ih (h.trans (hf s x))

/-! ### The parts of the start -/

theorem booted (h : r.StartsOn s) {b : BootChoice} : r.StartsOn (s.booted b) := by
  unfold State.booted
  extract_lets u v w x
  have hw : r.StartsOn w := each (fun u _ => (refl u).raise) b.codes h.modFw.setNum
  have hx : r.StartsOn x := by
    dsimp only [x]
    split
    · exact hw.setNum
    · exact hw
  exact ite hx.raise hx

theorem reportTrip (h : r.StartsOn s) {n : Option Nat} : r.StartsOn (s.reportTrip n) := by
  cases n with
  | none => exact h
  | some k => exact h.setNum.raise

theorem loadBank (h : r.StartsOn s) (b : List (Nat × OdVal)) : r.StartsOn (s.loadBank b) := by
  refine each (fun s e => ?_) b h
  have hs := refl s
  refine ite (hs.modSlot fun sl ha => ?_) (ite (ite ?_ ?_) hs.setEntry)
  · split <;> exact ha
  · exact hs.keep rfl rfl rfl rfl rfl rfl rfl rfl
  · exact hs.keep rfl rfl rfl rfl rfl rfl rfl rfl

theorem defaultFronts (h : r.StartsOn s) : r.StartsOn s.defaultFronts := by
  refine each (fun s k => (refl s).modSlot fun sl ha => ?_) allSlots h
  split <;> exact ha

theorem restoreSettings (h : r.StartsOn s) : r.StartsOn s.restoreSettings :=
  (ite (p := 2 ≤ s.nat 0x2000 8) h.raise (ite h.modFw (h.loadBank _))).defaultFronts

theorem takeRole (h : r.StartsOn s) {n : Nat} : r.StartsOn (s.takeRole n) := ite h.setNum h.setNum.setNum

theorem startRole (h : r.StartsOn s) : r.StartsOn s.startRole := ite h.modSys.takeRole.setNum h.modSys.takeRole.setNum

theorem startSystem (h : r.StartsOn s) : r.StartsOn s.startSystem :=
  (startRole (ite (p := 48 ≤ s.storedNode) h.setNum.modSys.raise h.setNum.modSys)).setNum

theorem startPorts (h : r.StartsOn s) : r.StartsOn s.startPorts := by
  refine each (fun s n => ite (refl s) (refl s).setNum) allPorts (each (fun s p => ?_) allCan h)
  have ha : s.StartsOn (s.applyCan p) := by unfold State.applyCan; exact (refl s).modCan
  unfold State.armHeartbeat
  exact modCan (ha.emit.ite (p := ((s.applyCan p).can[p]).enabled = true) ha)

theorem storeSettings (h : r.StartsOn s) : r.StartsOn s.storeSettings := h.modFw.setNum

/-! ### Adaptation is made anew -/

/-- A step that does not run is not there to be abandoned. -/
theorem abandonStep_of_idle (hi : s.AdaptIdle) (k : SlotNo) (d n : Nat) : s.abandonStep k d n = s := by
  unfold State.abandonStep
  split
  · rfl
  · next a ha => rw [hi k a (List.mem_of_find?_eq_some ha)]

theorem loadSets (h : r.StartsOn s) {k : SlotNo} {i : IsleNo} {p : PlanImage} {m : AdaptImage} {ws : Bytes} (hp : p ∈ s.plans)
    (hm : m ∈ p.sets) (hi : i ∈ m.isles) : r.StartsOn (s.loadSets k i m ws) := by
  refine h.trans ⟨rfl, rfl, rfl, rfl, rfl, rfl, id, fun j hj => ?_⟩
  have hne : j ≠ i := fun e => hj p hp m hm (e ▸ hi)
  exact congrArg IsleState.sp ((modIsle_get _ _ _ _).trans (if_neg hne))

/-- The image of an adaptation descriptor is one of a loaded plan. -/
theorem adaptImage_mem {k : SlotNo} {d : Nat} {m : AdaptImage} (h : s.adaptImage k d = some m) : ∃ p ∈ s.plans, m ∈ p.sets := by
  unfold State.adaptImage State.slotPlan State.planOf at h
  obtain ⟨sets, hsets, hm⟩ := Option.bind_eq_some_iff.mp h
  obtain ⟨p, hp, rfl⟩ := Option.map_eq_some_iff.mp hsets
  exact ⟨p, List.mem_of_find?_eq_some hp, List.mem_of_getElem? hm⟩

theorem loadPlanSets (h : r.StartsOn s) {k : SlotNo} {d : Nat} : r.StartsOn (s.loadPlanSets k d) := by
  unfold State.loadPlanSets
  split
  · exact h
  · next m hm =>
    obtain ⟨p, hp, hmp⟩ := adaptImage_mem hm
    have loads : ∀ (is : List IsleNo) (t : State), (∀ i ∈ is, i ∈ m.isles) → s.StartsOn t →
        s.StartsOn (t.each is fun u i => u.loadSets k i m m.weights) := by
      intro is
      induction is with
      | nil => exact fun _ _ ht => ht
      | cons i is ih =>
        intro t his ht
        exact ih _ (fun j hj => his j (.tail _ hj)) (ht.loadSets (ht.plans ▸ hp) hmp (his i (.head _)))
    exact h.trans (loads _ s (fun i hi => (List.mem_filter.mp hi).1) (refl s))

theorem renewAdapt (hi : s.AdaptIdle) {k : SlotNo} : s.StartsOn (s.renewAdapt k) := by
  have hid : (s.each (s.slots[k]).adapt fun u a => u.abandonStep k a.desc 4) = s :=
    State.each_id _ _ _ fun a _ => abandonStep_of_idle hi k a.desc 4
  unfold State.renewAdapt
  rw [hid]
  refine each (fun t d => (refl t).loadPlanSets) _ ((refl s).modSlot fun sl _ a ha => ?_)
  obtain ⟨d, -, rfl⟩ := List.mem_map.mp ha
  rfl

theorem startSlots (hi : r.AdaptIdle) (h : r.StartsOn s) : r.StartsOn s.startSlots := by
  refine each_idle (fun s k hs => ?_) hi allSlots h
  have hent := fun es => (refl s).modSlot (k := k) (f := fun sl => { sl with entries := es }) fun _ => id
  exact (hent _).trans (renewAdapt ((hent _).idle hs))

/-! ### The ledger takes up its record -/

theorem writeRecord (h : r.StartsOn s) (hd : RecordHead) (n : Nat) : r.StartsOn (s.writeRecord hd n) := by
  induction n generalizing s with
  | zero => exact h.modLedger.bump
  | succ n ih => exact ih h.modLedger.raise

theorem takeLedgerSettings (h : r.StartsOn s) : r.StartsOn s.takeLedgerSettings := by
  unfold State.takeLedgerSettings
  exact h.modLedger

theorem openInterval (h : r.StartsOn s) {n b : Nat} {e : Int} : r.StartsOn (s.openInterval n b e) := by
  unfold State.openInterval
  exact h.setNum.setNum.setNum.modLedger

theorem closeInterval (h : r.StartsOn s) {pf : Bool} {n : Nat} : r.StartsOn (s.closeInterval pf n) := by
  unfold State.closeInterval
  extract_lets old _ _ _ _ _ hd w u v x
  have hx : r.StartsOn x := (h.writeRecord hd n).takeLedgerSettings.modLedger.openInterval.raise
  exact ite hx.raise hx

theorem resumeLedger (h : r.StartsOn s) {n : Nat} : r.StartsOn (s.resumeLedger n) := by
  unfold State.resumeLedger
  dsimp only
  split
  · exact h.takeLedgerSettings.modLedger.openInterval
  · have hr := fun f => h.takeLedgerSettings.modLedger (f := f)
    refine ite (ite ?_ ?_) (ite ?_ ?_)
    · exact (hr _).openInterval.modLedger.closeInterval
    · exact (hr _).openInterval.modLedger
    · exact (hr _).openInterval
    · exact ((hr _).writeRecord _ n).raise.bump.openInterval

end State.StartsOn

/-- The whole start, from the state as reset is released. -/
theorem State.cleared_startsOn_restart (s : State) (st : Straps) (trained : Bool) (fails : Nat) :
    (s.cleared st trained).StartsOn (s.restart st trained fails) := by
  have hidle : (s.cleared st trained).AdaptIdle := fun k a ha => absurd (s.cleared_adapt st trained k ▸ ha) (by simp)
  unfold State.restart
  extract_lets b trip c d e f g i j k
  have hd : (s.cleared st trained).StartsOn d := (State.StartsOn.refl _).booted.reportTrip
  have he : (s.cleared st trained).StartsOn e := hd.ite hd.raise
  have hi : (s.cleared st trained).StartsOn i := (he.restoreSettings.startSystem.modTick.startSlots hidle).startPorts
  have hj : (s.cleared st trained).StartsOn j := hi.ite hi.resumeLedger
  exact (hj.storeSettings.ite hj).settleError

/-- Settles O38: what a reset leaves, and what no part of the start that follows changes. -/
theorem resetsRestartTheDevice : Obligations.ResetsRestartTheDevice := by
  intro s st trained fails
  have hs := s.cleared_startsOn_restart st trained fails
  refine ⟨rfl, ⟨?_, ?_, hs.windows, hs.provCounter, ?_, ?_, ?_, hs.plans, hs.pending, fun k hk => ?_⟩,
    fun k => ?_, rfl, rfl, rfl, s.cleared_term st trained, s.cleared_lock st trained, fun o => ?_⟩
  · rw [hs.power]; rfl
  · rw [hs.power]; rfl
  · rw [hs.mem]; rfl
  · rw [hs.mem]; rfl
  · rw [hs.mem]; rfl
  · rw [hs.sp k hk, s.cleared_isle]
  · rw [s.cleared_isle]
  · obtain ⟨hkek, hs0, hs1, hc0, hc1⟩ := (s.owners[o]).restarted_keys (s.mem.nextKey + o.val)
    rw [s.cleared_owner]
    exact ⟨hkek, hs0, hs1, hc0, hc1, fun ha => OwnerState.restarted_memKey ha⟩

end Sys2Proof.Machine
end

section
/-! Staging, trials and the switch of the cores (spec/18_firmware_and_update.md R492 to R499, R501, R504). -/

namespace Sys2Proof.Machine

section
variable {s : State} {c : UpdateCommand} {f : State → State} {w : Write} {v : OdVal}

/-! ### Commands that R494 may refuse -/

theorem updateAct_of_refused {n : Nat} (h : s.updateRefusal c = n + 1) :
    updateAct c f w v s = (0x06090030, (s.setNum 0x2500 0x0C (n + 1 : Nat)).raise 0x9006) := by
  simp only [updateAct, h]

theorem updateAct_of_allowed (h : s.updateRefusal c = 0) : updateAct c f w v s = (0, f s) := by
  simp only [updateAct, h]

/-! ### The end of a staging (R492, R493) -/

theorem State.endStaging_of_staged {b : Bytes} (h : s.fw.staging = some b) (hok : bundleFailure b = none) :
    s.endStaging true = State.raise
      (((((s.modFw fun x => { x with staging := none, flash := x.flash.setImage (!s.boot.active) (bundleImage b) }).setBoot fun r =>
        r.setPhase (!s.boot.active) .staged).setNum 0x2500 4 100).setNum 0x2500 0x0B (imgFirmware (bundleImage b) : Nat))) 0x9012 := by
  simp only [State.endStaging, h, hok, Option.none_or, if_true, State.idleSlot]

theorem State.endStaging_of_failed {b : Bytes} {e : Nat} (h : s.fw.staging = some b) (hbad : bundleFailure b = some e)
    (readBack : Bool) : s.endStaging readBack = (s.failStaging e).raise e := by
  simp only [State.endStaging, h, hbad, Option.some_or]

theorem State.endStaging_of_unread {b : Bytes} (h : s.fw.staging = some b) (hok : bundleFailure b = none) :
    s.endStaging false = (s.failStaging 0x9009).raise 0x9009 := by
  simp only [State.endStaging, h, hok, Option.none_or, Bool.false_eq_true, if_false]

theorem State.cardRemoved_of_staging (h : s.fw.staging.isSome = true) : s.cardRemoved = (s.failStaging 0x9008).raise 0x9008 :=
  if_pos h

/-! ### The end of a trial (R501) -/

theorem State.confirm_of_trial {slot : Bool} (h : s.boot.find .trial = some slot) :
    s.confirm = ((s.setBoot fun r => r.setPhase slot .confirmed).modFw fun w =>
      { w with trialSince := none, flash := { w.flash with home := !w.flash.home, eraseOther := true } }).raise 0x900D := by
  simp only [State.confirm, h]

theorem confirmAct_of_trial {slot : Bool} (h : s.boot.find .trial = some slot) : confirmAct w v s = (0, s.confirm) :=
  guarded_ok (by simp only [h, Option.isSome_some])

theorem confirmAct_of_no_trial (h : s.boot.find .trial = none) : confirmAct w v s = (0x06090030, s) :=
  guarded_no (by simp only [h, Option.isSome_none])

theorem State.at_boot (t : Nat) : (s.at_ t).boot = s.boot := congrArg (fun x : FirmwareState => x.flash.record) (s.at_fw t)

theorem State.autoConfirm_of_due {t : Nat} (h : s.fw.trialSince = some t) (hset : s.nat 0x2500 8 ≠ 0) :
    s.autoConfirm = (s.at_ (t + s.nat 0x2500 8 * 6000000000)).confirm := by
  simp only [State.autoConfirm, h, if_neg hset]

/-! ### The switch of the cores (R495 to R499, R504) -/

variable {a : Activation} {r : Bytes}

/-- A core after the first takes its hand-off record and switches; the activation goes on to the next core. -/
theorem State.switchCore_of_accepted {n : Nat} (hn : 0 < n)
    (hok : ((s.writeHandoff n r).switchBank n).takesOver a n true = true) :
    s.switchCore a n r true = ((s.writeHandoff n r).switchBank n).modFw fun x =>
      { x with activation := some { a with step := .switching (n + 1) } } := by
  simp only [State.switchCore, hok, if_neg (Nat.ne_of_gt hn), if_true]

/-- A core whose self-check fails: every core that switched goes back. -/
theorem State.switchCore_of_failed {n : Nat} (hn : 0 < n) :
    s.switchCore a n r false = (((s.writeHandoff n r).switchBank n).switchBack n).failActivation a 0x900C := by
  simp only [State.switchCore, State.takesOver, if_neg (Nat.ne_of_gt hn), Bool.false_and, Bool.false_eq_true, if_false]

theorem State.coreSwitch_of_switching {n : Nat} (h : s.fw.activation = some a) (hon : a.suspended = false) (hstep : a.step = .switching n)
    (hn : n < 6) (ok : Bool) : s.coreSwitch r ok = s.switchCore a n r ok := by
  simp only [State.coreSwitch, h, hon, hstep, if_pos hn, Bool.false_eq_true, if_false]

section
variable (h : s.fw.activation = some a) (hon : a.suspended = false) (hstep : a.step = .switching 6) (hmay : s.schedulerMay = true)
include h hon hstep hmay

theorem State.schedulerSwitch_of_accepted (hok : ((s.writeHandoff 6 r).switchBank 6).takesOver a 6 true = true) :
    s.schedulerSwitch r true = ((s.writeHandoff 6 r).switchBank 6).completeActivation a := by
  simp only [State.schedulerSwitch, h, hon, hstep, hmay, hok, bne_self_eq_false, Bool.not_true, Bool.or_self, Bool.false_eq_true,
    if_false, if_true]

theorem State.schedulerSwitch_of_failed :
    s.schedulerSwitch r false = State.failActivation
      (State.switchBack (((s.writeHandoff 6 r).switchBank 6).modFw fun x => { x with coasting := some 0 }) 6) a 0x900C := by
  simp only [State.schedulerSwitch, h, hon, hstep, hmay, State.takesOver, bne_self_eq_false, Bool.not_true, Bool.or_self, Bool.false_and,
    Bool.false_eq_true, if_false]

end

theorem State.resumeActivation_of_suspended (h : s.fw.activation = some a) (hoff : a.suspended = true) (hgood : s.nat 0x2700 2 = 1) :
    s.resumeActivation = (s.at_ (s.power.goodAt + 100000000)).modFw fun x =>
      { x with activation := some { a with suspended := false } } := by
  simp only [State.resumeActivation, h, hoff, hgood, bne_self_eq_false, Bool.not_true, Bool.or_self, Bool.false_eq_true, if_false]

end

/-- Settles O39: the refusal of R494, the four ends of a staging, and the two ways a trial is confirmed. -/
theorem stagingAndTrials : Obligations.StagingAndTrials := by
  refine ⟨fun s => ⟨fun w b card v had => ⟨fun n hno => ?refused, fun hmay => ?begins⟩, fun at_ readBack c hrun hc => ?ends⟩,
    fun s => ⟨fun w b v had => ⟨fun slot hslot => ?confirms, fun hnone => ?noTrial⟩, fun t slot hrun ht hset hslot => ?auto⟩⟩
  case refused => exact (congrArg (live s) (State.odRun_card had.unheld ..)).trans (had.act (updateAct_of_refused hno))
  case begins =>
    refine (congrArg (live s) (State.odRun_card had.unheld ..)).trans ((had.act (updateAct_of_allowed hmay)).trans ?_)
    cases card <;> rfl
  case ends =>
    have hst : (s.at_ at_).fw.staging = some c := (congrArg FirmwareState.staging (s.at_fw at_)).trans hc
    refine ⟨fun hok hread => ?_, fun e hbad => live_eq_next hrun (State.endStaging_of_failed hst hbad readBack), fun hok hread => ?_,
      live_eq_next hrun (State.cardRemoved_of_staging (by rw [hst]; rfl))⟩
    · subst hread
      exact live_eq_next hrun (State.endStaging_of_staged hst hok)
    · subst hread
      exact live_eq_next hrun (State.endStaging_of_unread hst hok)
  case confirms => exact had.act ((confirmAct_of_trial hslot).trans (congrArg (Prod.mk 0) (State.confirm_of_trial hslot)))
  case noTrial => exact had.act (confirmAct_of_no_trial hnone)
  case auto =>
    exact live_eq_next hrun ((State.autoConfirm_of_due ht hset).trans
      (State.confirm_of_trial ((congrArg (·.find .trial) (State.at_boot _)).trans hslot)))

/-- Settles O40: a command begins the pause, and each step of the switch takes the branch its record and self-check give. -/
theorem coresSwitchInOrder : Obligations.CoresSwitchInOrder := by
  refine fun s => ⟨fun w b v had => ?activates, fun w b v had => ?reverts, fun at_ r n a hrun ha hon hstep => ?switches,
    fun a hrun ha hoff hgood => live_eq_next hrun (State.resumeActivation_of_suspended ha hoff hgood)⟩
  case activates =>
    intro t hmay hmode
    exact had.act ((updateAct_of_allowed hmay).trans (congrArg (Prod.mk 0) (if_neg hmode)))
  case reverts =>
    intro t hmay
    exact had.act (updateAct_of_allowed hmay)
  case switches =>
    have hat : (s.at_ at_).fw.activation = some a := (congrArg FirmwareState.activation (s.at_fw at_)).trans ha
    refine ⟨fun h0 h6 hok => ?_, fun h0 h6 => ?_, fun h6 hmay hok => ?_, fun h6 hmay => ?_⟩
    · exact live_eq_next hrun (congrArg (fun u : State => u.answerHeld.pump)
        ((State.coreSwitch_of_switching hat hon hstep h6 true).trans (State.switchCore_of_accepted h0 hok)))
    · exact live_eq_next hrun (congrArg (fun u : State => u.answerHeld.pump)
        ((State.coreSwitch_of_switching hat hon hstep h6 false).trans (State.switchCore_of_failed h0)))
    · subst h6
      exact live_eq_next hrun (State.schedulerSwitch_of_accepted hat hon hstep hmay hok)
    · subst h6
      exact live_eq_next hrun (State.schedulerSwitch_of_failed hat hon hstep hmay)

end Sys2Proof.Machine
end

section
/-! Isles that are fenced and return, ring notices and the EMCY queue (spec/19_faults_and_availability.md R508, R511, R517 to R519, R523,
R524). -/

namespace Sys2Proof.Machine

section
variable {s : State} {k : IsleNo} {w : Write} {v : OdVal}

/-! ### Fences (R508, R511) -/

theorem fenceAct_of_available (hk : Fin.ofNat 16 v.int.toNat = k) (h : (s.isles[k]).health.phase = .available) :
    fenceAct w v s = (0, s.trigger k 7) := by
  subst hk
  exact guarded_ok (beq_iff_eq.mpr h)

theorem fenceAct_of_unavailable (hk : Fin.ofNat 16 v.int.toNat = k) (h : (s.isles[k]).health.phase ≠ .available) :
    fenceAct w v s = (0x06090030, s) := by
  subst hk
  exact guarded_no (beq_false_of_ne h)

theorem State.hang_of_running {c : CtxNo} (hrun : (s.ctx k c).phase = .running) (hpower : s.nat 0x2700 1 = 0) :
    s.hang k c = ((s.at_ ((s.ctx k c).runSince + (s.hangLimit - (s.ctx k c).ranFor))).raise 0x3F0A { isle := k }).trigger k 5 := by
  simp only [State.hang, hrun, hpower, ne_eq, not_true_eq_false, or_self, if_false]

/-- The end of a fence whose boundary has passed. -/
theorem State.completeFence_of_passed (h : (s.isles[k]).health.phase = .fencing)
    (hpassed : (s.isles[k]).health.fenceBegan + 2 ≤ s.tick.number) :
    let u := (s.modIsle k fun i => { i with health := { i.health with phase := .fenced } }).each allSlots State.loseArgmax
    s.completeFence k = State.shedTest (((u.bump 0x2300 0x0C).raise 0x3F02 { isle := k }).settleAvail.settleClocks) := by
  have hafter : ¬ s.tick.number < (s.isles[k]).health.fenceBegan + 1 := by omega
  simp only [State.completeFence, h, hafter, hpassed, ne_eq, not_true_eq_false, or_self, if_false, decide_true, if_true]

/-- The end of a fence at the boundary that is next. -/
theorem State.completeFence_of_next (h : (s.isles[k]).health.phase = .fencing)
    (hnext : (s.isles[k]).health.fenceBegan + 1 = s.tick.number) :
    let u := ((s.at_ s.tick.next).modIsle k fun i => { i with health := { i.health with phase := .fenced } }).each allSlots State.loseArgmax
    s.completeFence k = ((u.bump 0x2300 0x0C).raise 0x3F02 { isle := k }).settleAvail.settleClocks := by
  have hafter : ¬ s.tick.number < (s.isles[k]).health.fenceBegan + 1 := by omega
  have hpassed : ¬ (s.isles[k]).health.fenceBegan + 2 ≤ s.tick.number := by omega
  simp only [State.completeFence, h, hafter, hpassed, ne_eq, not_true_eq_false, or_self, if_false, decide_false, Bool.false_eq_true]

/-! ### Unfences (R517) -/

theorem unfenceAct_of_fenced (hk : Fin.ofNat 16 v.int.toNat = k) (h : (s.isles[k]).health.phase = .fenced)
    (hnone : s.someFencing = false) : unfenceAct w v s = (0, s.beginUnfence k) := by
  subst hk
  exact guarded_ok (by simp only [mayUnfence, isleIn, h, hnone, beq_self_eq_true, Bool.not_false, Bool.and_self])

theorem unfenceAct_of_refused (hk : Fin.ofNat 16 v.int.toNat = k)
    (h : (s.isles[k]).health.phase ≠ .fenced ∨ s.someFencing = true) : unfenceAct w v s = (0x06090030, s) := by
  subst hk
  refine guarded_no (Bool.and_eq_false_iff.mpr (h.imp (fun hp => beq_false_of_ne hp) fun hf => ?_))
  rw [hf, Bool.not_true]

section
variable (h : (s.isles[k]).health.phase = .testing)
include h

/-- Tests passed and the masters read: the isle is available at the boundary. -/
theorem State.endUnfence_of_built (hbuilt : (s.reloadIsle k).1 = true) :
    let v := (s.reloadIsle k).2
    let u := (if v.now = v.tick.boundary then v else v.at_ v.tick.next).modIsle k fun i =>
      { i with health := { i.health with phase := .available } }
    s.endUnfence k true = ((u.returnMask k).raise 0x3F08 { isle := k }).settleAvail.settleClocks := by
  simp only [State.endUnfence, h, hbuilt, ne_eq, not_true_eq_false, if_false, if_true, Bool.not_true, Bool.false_eq_true]

theorem State.endUnfence_of_unread (hbuilt : (s.reloadIsle k).1 = false) :
    s.endUnfence k true = (s.reloadIsle k).2.trigger k 0 := by
  simp only [State.endUnfence, h, hbuilt, ne_eq, not_true_eq_false, if_false, if_true, Bool.not_false]

theorem State.endUnfence_of_failed : s.endUnfence k false = s.trigger k 0 := by
  simp only [State.endUnfence, h, ne_eq, not_true_eq_false, if_false, if_true, Bool.not_false, Bool.false_eq_true]

end

/-! ### Weight reloads (R518) -/

/-- Two changes of an isle are one. -/
theorem State.modIsle_twice (f g : IsleState → IsleState) : (s.modIsle k f).modIsle k g = s.modIsle k fun i => g (f i) := by
  simp only [State.modIsle, Fin.getElem_fin, Vector.getElem_set_self, Vector.set_set]

theorem State.reloadRow_of_testing {row : Nat} {data : Bytes} (h : (s.isles[k]).health.phase = .testing) :
    s.reloadRow k row data = s.loadRow k row data := if_pos h

/-- A row that a scrub asked for arrives. -/
theorem State.reloadRow_of_awaited {row : Nat} {data : Bytes} (h : (s.isles[k]).health.phase ≠ .testing)
    (hasked : (row, false) ∈ (s.isles[k]).health.reloads) :
    s.reloadRow k row data = State.raise (s.modIsle k fun i =>
      { i with
        health := { i.health with reloads := kvPut row true i.health.reloads }
        sp := (List.range 64).foldl (fun p w => p.put (64 * row + w) (slice data (32 * w) 32) (s.rowOwner row)) i.sp })
      0x3F0B { isle := k } := by
  have hany : ((s.isles[k]).health.reloads.any fun r => r.1 == row && !r.2) = true :=
    List.any_eq_true.mpr ⟨_, hasked, by simp⟩
  simp only [State.reloadRow, if_neg h, hany, Bool.not_true, Bool.false_eq_true, if_false, State.loadRow, State.modSp,
    State.modIsle_twice]

/-! ### The EMCY queue (R523) -/

theorem State.sendEmcy_of_waiting {p : CanNo} {m : Emcy} {ms : List Emcy} (h : (s.can[p]).emcy = m :: ms)
    (hcan : (s.can[p]).canEmcy = true) (hbus : (s.can[p]).status ≠ .busOff) :
    let t := match (s.can[p]).emcyAt with | some e => s.at_ (e + s.nat 0x1015 p * 10000) | none => s
    let u := t.modCan p fun c => { c with emcy := ms, emcyAt := some t.now }
    s.sendEmcy p = if (u.emcyCob p).testBit 31 then u else u.emit (.can p (u.emcyCob p % 2 ^ 29) m.bytes) := by
  have hoff : ((s.can[p]).status == .busOff) = false := beq_false_of_ne hbus
  simp only [State.sendEmcy, h, hcan, hoff, Bool.not_true, Bool.or_self, Bool.false_eq_true, if_false, State.emcyInhibit]
  cases (s.can[p]).emcyAt <;> rfl

end

/-- Settles O41: every command of a fence or an unfence takes the branch its isle's phase gives. -/
theorem islesAreFencedAndReturn : Obligations.IslesAreFencedAndReturn := by
  refine ⟨fun s => ⟨fun w b v had => ?fences, fun k c hrun => ⟨?hangs, fun hphase hpassed => ?passed, fun hphase hnext => ?next⟩⟩,
    fun s => ⟨fun w b v had => ?unfences, fun at_ k hrun => ?returns⟩⟩
  case fences =>
    intro t k
    refine ⟨fun h => had.act (fenceAct_of_available (k := k) rfl ?_), fun h => had.act (fenceAct_of_unavailable (k := k) rfl ?_)⟩
    · with_reducible exact h
    · with_reducible exact h
  case hangs => exact fun hphase hpower => live_eq_next hrun (State.hang_of_running hphase hpower)
  case passed => exact live_eq_next hrun (State.completeFence_of_passed hphase hpassed)
  case next => exact live_eq_next hrun (State.completeFence_of_next hphase hnext)
  case unfences =>
    intro t k
    refine ⟨fun h hnone => had.act (unfenceAct_of_fenced (k := k) rfl ?_ hnone), fun h => had.act (unfenceAct_of_refused (k := k) rfl ?_)⟩
    · with_reducible exact h
    · with_reducible exact h
  case returns =>
    refine ⟨fun h => ⟨fun hbuilt => ?_, fun hbuilt => ?_, ?_⟩, fun row data h => ?_, fun row data h hasked => ?_⟩
    · exact live_eq_next hrun (State.endUnfence_of_built h hbuilt)
    · exact live_eq_next hrun (State.endUnfence_of_unread h hbuilt)
    · exact live_eq_next hrun (State.endUnfence_of_failed h)
    · exact live_eq_next hrun (State.reloadRow_of_testing h)
    · exact live_eq_next hrun (State.reloadRow_of_awaited h hasked)

/-- Settles O42: the notice cleared by its act, and the head of the EMCY queue sent. -/
theorem noticesClearAndEmcysLeave : Obligations.NoticesClearAndEmcysLeave :=
  fun _ => ⟨fun _ _ _ had => had.act (act := clearNoticeAct) rfl,
    fun _ _ _ hrun h hcan hbus => live_eq_next hrun (State.sendEmcy_of_waiting h hcan hbus)⟩

end Sys2Proof.Machine
end

section
/-! Owners, their keys and their scrub, and the usage ledger (spec/20_owners_and_ledger.md R529 to R539, R544). -/

namespace Sys2Proof.Machine

section
variable {s : State} {w : Write} {v : OdVal}

/-! ### Creation and keys (R529, R532) -/

theorem createAct_of_absent (h : (s.owners[ownerOf v.int.toNat]).phase = .absent) :
    createAct w v s = (0, (s.modOwner (ownerOf v.int.toNat) fun x => { x with phase := .active, memKey := s.mem.nextKey }).modMem
      fun m => { m with nextKey := s.mem.nextKey + 1 }) :=
  guarded_ok (beq_iff_eq.mpr h)

theorem createAct_of_present (h : (s.owners[ownerOf v.int.toNat]).phase ≠ .absent) : createAct w v s = (0x06090030, s) :=
  guarded_no (beq_false_of_ne h)

theorem keyLoadAct_of_accepted {p : Bytes} (h : s.keyPlain v.bytes = some p) :
    keyLoadAct w v s = (0, ((s.putKey v.bytes p).noteKeyCounter v.bytes).raise 0xA001) := by
  simp only [keyLoadAct, h]

theorem keyLoadAct_of_refused (h : s.keyPlain v.bytes = none) : keyLoadAct w v s = (0x06090030, s.raise 0xA002) := by
  simp only [keyLoadAct, h]

/-! ### The owner lock (R534) -/

/-- The state with the counter of an accepted lock request noted. -/
def State.lockNoted (s : State) (b : Bytes) : State :=
  s.modOwner (ownerOf (recKeyOwner b)) fun x => x.noteCounter (x.kek.getD []) (recCounter b)

theorem lockAct_of_set (h : s.lockOk v.bytes = true) (hop : byteAt v.bytes 1 = 1) :
    lockAct w v s = (0, ((s.lockNoted v.bytes).setLock (recKeyOwner v.bytes) true).raise 0xA003) :=
  (guarded_ok h).trans (congrArg (Prod.mk 0) (if_pos hop))

theorem lockAct_of_clear (h : s.lockOk v.bytes = true) (hop : byteAt v.bytes 1 = 2) :
    lockAct w v s = (0, ((s.lockNoted v.bytes).setLock (recKeyOwner v.bytes) false).raise 0xA004) :=
  (guarded_ok h).trans (congrArg (Prod.mk 0) (if_neg (by rw [hop]; decide)))

theorem lockAct_of_refused (h : s.lockOk v.bytes = false) : lockAct w v s = (0x06090030, s) := guarded_no h

/-! ### A kill (R536) -/

theorem killAct_of_active (h : (s.owners[ownerOf v.int.toNat]).phase = .active) :
    killAct w v s = (0, (s.killOwner (ownerOf v.int.toNat)).relayKill v.int.toNat) :=
  guarded_ok (beq_iff_eq.mpr h)

/-! ### The scrub (R537) -/

variable {o : OwnerNo}

/-- A scrubbed scratchpad has no word under the owner's tag. -/
theorem Scratchpad.scrubOwner_tags (p : Scratchpad) (n : Nat) : ∀ e ∈ (p.scrubOwner n).tags, e.2 ≠ n :=
  fun _ he => bne_iff_ne.mp (List.mem_filter.mp he).2

/-- The scrub of one isle: fenced and testing isles are skipped. -/
def State.scrubIsle (s : State) (o : OwnerNo) (k : IsleNo) : State :=
  match s.isles[k].health.phase with
  | .fenced => s
  | .testing => s
  | _ => s.modSp k (·.scrubOwner o)

theorem State.scrubIsle_cases (s : State) (o : OwnerNo) (k : IsleNo) :
    s.scrubIsle o k = s ∧ ((s.isles[k]).health.phase = .fenced ∨ (s.isles[k]).health.phase = .testing)
      ∨ s.scrubIsle o k = s.modSp k (·.scrubOwner o) := by
  unfold State.scrubIsle
  split <;> simp_all

/-- What the isles of a scrub keep: their phases, and the tags an isle has lost stay lost. -/
structure State.Scrubs (s t : State) (o : OwnerNo) : Prop where
  phase : ∀ k : IsleNo, (t.isles[k]).health.phase = (s.isles[k]).health.phase
  tags : ∀ k : IsleNo, (∀ e ∈ (s.isles[k]).sp.tags, e.2 ≠ o.val) → ∀ e ∈ (t.isles[k]).sp.tags, e.2 ≠ o.val

theorem State.Scrubs.refl (s : State) (o : OwnerNo) : s.Scrubs s o := ⟨fun _ => rfl, fun _ => id⟩

theorem State.Scrubs.trans {t u : State} (h : s.Scrubs t o) (g : t.Scrubs u o) : s.Scrubs u o :=
  ⟨fun k => (g.phase k).trans (h.phase k), fun k hk => g.tags k (h.tags k hk)⟩

theorem State.scrubIsle_scrubs (s : State) (o : OwnerNo) (k : IsleNo) : s.Scrubs (s.scrubIsle o k) o := by
  rcases s.scrubIsle_cases o k with ⟨hskip, -⟩ | hscrub
  · rw [hskip]
    exact .refl s o
  · rw [hscrub, State.modSp]
    refine ⟨fun j => ?_, fun j hj => ?_⟩ <;> rw [modIsle_get] <;> split
    · rfl
    · rfl
    · exact Scratchpad.scrubOwner_tags _ _
    · exact hj

/-- An isle in service has no word under the owner's tag once it was scrubbed. -/
theorem State.scrubIsle_done (s : State) (o : OwnerNo) (k : IsleNo) (hfenced : (s.isles[k]).health.phase ≠ .fenced)
    (htesting : (s.isles[k]).health.phase ≠ .testing) : ∀ e ∈ ((s.scrubIsle o k).isles[k]).sp.tags, e.2 ≠ o.val := by
  rcases s.scrubIsle_cases o k with ⟨-, hskip⟩ | hscrub
  · exact absurd hskip (not_or.mpr ⟨hfenced, htesting⟩)
  · rw [hscrub, State.modSp, modIsle_get, if_pos rfl]
    exact Scratchpad.scrubOwner_tags _ _

theorem State.each_scrubIsle (ks : List IsleNo) (s : State) (o : OwnerNo) :
    s.Scrubs (s.each ks fun s k => s.scrubIsle o k) o
      ∧ ∀ k ∈ ks, (s.isles[k]).health.phase ≠ .fenced → (s.isles[k]).health.phase ≠ .testing →
          ∀ e ∈ ((s.each ks fun s k => s.scrubIsle o k).isles[k]).sp.tags, e.2 ≠ o.val := by
  induction ks generalizing s with
  | nil => exact ⟨.refl s o, nofun⟩
  | cons j ks ih =>
    have hj := s.scrubIsle_scrubs o j
    obtain ⟨hrest, hdone⟩ := ih (s.scrubIsle o j)
    refine ⟨hj.trans hrest, fun k hk hfenced htesting => ?_⟩
    rcases List.mem_cons.mp hk with rfl | hk
    · exact hrest.tags k (s.scrubIsle_done o k hfenced htesting)
    · exact hdone k hk (by rwa [hj.phase k]) (by rwa [hj.phase k])

/-- The Ethernet buffers of an owner scrubbed. -/
def State.scrubEthernet (s : State) (o : OwnerNo) : State :=
  s.each (s.owners[o]).scrubEth fun s w => s.modMem fun m => { m with eth := m.eth.filter fun c => c.1 < w.1 || w.2 < c.1 }

theorem State.scrubEthernet_isles (s : State) (o : OwnerNo) : (s.scrubEthernet o).isles = s.isles := by
  have keeps : ∀ (ws : List (Nat × Nat)) (t : State),
      (t.each ws fun s w => s.modMem fun m => { m with eth := m.eth.filter fun c => c.1 < w.1 || w.2 < c.1 }).isles = t.isles := by
    intro ws
    induction ws with
    | nil => exact fun _ => rfl
    | cons w ws ih => exact fun t => ih _
  exact keeps _ s

theorem State.completeScrub_of_scrubbing (h : (s.owners[o]).phase = .scrubbing) :
    s.completeScrub o = (((s.each allIsles fun s k => s.scrubIsle o k).scrubEthernet o).modOwner o fun x =>
      { x with phase := .absent, scrubEth := [], overdue := false }).raise 0xA006 := by
  unfold State.completeScrub
  rw [if_neg (by rw [h]; decide)]
  rfl

section
variable (h : (s.owners[o]).phase = .scrubbing)
include h

/-- The owner of a completed scrub is absent, and owes nothing more. -/
theorem State.completeScrub_owner :
    ((s.completeScrub o).owners[o]).phase = .absent ∧ ((s.completeScrub o).owners[o]).scrubEth = [] := by
  rw [State.completeScrub_of_scrubbing h, State.raise_owners]
  generalize (s.each allIsles fun s k => s.scrubIsle o k).scrubEthernet o = u
  simp only [State.modOwner, Fin.getElem_fin, Vector.getElem_set_self, and_self]

theorem State.completeScrub_isles : (s.completeScrub o).isles = (s.each allIsles fun s k => s.scrubIsle o k).isles := by
  rw [State.completeScrub_of_scrubbing h, State.raise_isles, State.modOwner_isles, State.scrubEthernet_isles]

theorem State.completeScrub_tags (k : IsleNo) (hfenced : (s.isles[k]).health.phase ≠ .fenced)
    (htesting : (s.isles[k]).health.phase ≠ .testing) : ∀ e ∈ ((s.completeScrub o).isles[k]).sp.tags, e.2 ≠ o.val := by
  rw [State.completeScrub_isles h]
  exact (State.each_scrubIsle allIsles s o).2 k (List.mem_finRange k) hfenced htesting

end

theorem State.overdueScrub_of_late (h : (s.owners[o]).phase = .scrubbing) (hnew : (s.owners[o]).overdue = false)
    (hlate : (s.owners[o]).killedAt + 2 ≤ s.tick.number) :
    s.overdueScrub o = (s.modOwner o fun x => { x with overdue := true }).raise 0xA007 := by
  simp only [State.overdueScrub, h, hnew, Nat.not_lt.mpr hlate, ne_eq, not_true_eq_false, Bool.false_eq_true, or_self, if_false]

end

/-- Settles O43: each act is guarded by the condition of its rule. -/
theorem ownersKeysAndLocks : Obligations.OwnersKeysAndLocks := by
  intro s w b v t o
  refine ⟨fun had => ⟨fun h => ?_, fun h => ?_⟩, fun had => ⟨fun p h => ?_, fun h => ?_⟩, fun had => ?locks⟩
  · exact had.act (createAct_of_absent (s := t) h)
  · exact had.act (createAct_of_present (s := t) h)
  · exact had.act (keyLoadAct_of_accepted (s := t) h)
  · exact had.act (keyLoadAct_of_refused (s := t) h)
  case locks =>
    intro n u
    exact ⟨fun h hop => had.act (lockAct_of_set (s := t) h hop), fun h hop => had.act (lockAct_of_clear (s := t) h hop),
      fun h => ⟨had.act (lockAct_of_refused (s := t) h), had.act (lockAct_of_refused (s := t) h)⟩⟩

/-- A write that passes its checks, whatever follows it. -/
theorem State.Admits.odRun_eq {s t : State} {w : Write} {i sub : Nat} {b : Bytes} {v : OdVal} (had : s.Admits w i sub b v) {act : Act}
    {n : Nat} (ha : act w v (s.atWrite w) = (n, t)) : s.odRun w i sub b act = t.answerTo w.req n :=
  Host.Outcome.next.inj ((live_of_running had.running).symm.trans (had.act ha))

/-- Settles O44: the kill's act, the scrub of every isle in service, and the scrub that is overdue. -/
theorem killedOwnersAreScrubbed : Obligations.KilledOwnersAreScrubbed := by
  refine fun s => ⟨fun w b v had hactive => ?kills, fun at_ o hrun hscrub => ?scrubs,
    fun o hrun hscrub hnew hlate => live_eq_next hrun (State.overdueScrub_of_late hscrub hnew hlate)⟩
  case kills =>
    intro t o m
    exact live_eq_next had.running (congrArg State.pump (had.odRun_eq (killAct_of_active (s := t) hactive)))
  case scrubs =>
    obtain ⟨habsent, hnone⟩ := State.completeScrub_owner hscrub
    exact ⟨live_eq_next hrun rfl, habsent, hnone, State.completeScrub_tags hscrub⟩

/-- Settles O45: a sample is charged as it is divided, and an interval closes at its due cycle. -/
theorem samplesAreChargedAndIntervalsClose : Obligations.SamplesAreChargedAndIntervalsClose := by
  refine fun s hrun => ⟨fun at_ isles front movers rest mv amps => ?_, fun fails hruns => live_eq_next hrun (if_pos hruns)⟩
  intro e t parts charged u
  exact live_eq_next hrun rfl

end Sys2Proof.Machine
end

section
/-! Power, the power-fail shed, the rails and JTAG (spec/21_power_thermal_pins.md R558 to R561, R563, R568). -/

namespace Sys2Proof.Machine

variable {s : State}

/-! ### PFW_N and the shed (R558 to R561) -/

theorem State.powerGood_of_first (h : s.nat 0x2700 2 = 0) :
    let u := (s.at_ 100000).setNum 0x2700 2 1
    s.powerGood = State.settleError (if u.autoService then u.enterService else u) :=
  if_neg (not_not_intro h)

theorem State.pfwAsserted_of_good (f : ShedFigures) (h : s.nat 0x2700 2 = 1) :
    let u := (s.setNum 0x2700 2 2).raise 0xC001
    s.pfwAsserted f = State.settleError (if u.nat 0x2700 1 = 1 then u else u.startShed f) :=
  if_neg (not_not_intro h)

theorem State.pfwDeasserted_of_asserted (h : s.nat 0x2700 2 = 2) :
    let u := ((s.setNum 0x2700 2 1).modPower fun p => { p with goodAt := (s.setNum 0x2700 2 1).now }).raise 0xC002
    s.pfwDeasserted = u.recover.settleError :=
  if_neg (not_not_intro h)

/-- What makes a shed late. -/
theorem shedLate_iff (f : ShedFigures) :
    shedLate f = true ↔ f.late = true ∨ 10000 < f.ns.toNat ∨ 3000 < f.us.toNat ∨ 30000 < f.uj.toNat := by
  simp only [shedLate, Bool.or_eq_true, decide_eq_true_iff, or_assoc]

theorem State.startShed_eq (s : State) (f : ShedFigures) :
    let b := ((s.setNum 0x2700 1 1).bump 0x2700 0x0C).setNum 0x2700 0x0D (f.ns.toNat : Int)
    let c := (b.modPower fun p => { p with shedAt := some b.now }).modLedger fun l => { l with frozen := true }
    let d := (c.pauseAll.stopPorts.abandonWhere 5 fun _ _ => true).updateOnPfw
    let e := d.commitPowerFail f.us.toNat f.uj.toNat f.fails
    s.startShed f =
      if f.late = true ∨ 10000 < f.ns.toNat ∨ 3000 < f.us.toNat ∨ 30000 < f.uj.toNat then e.raise 0xC003 else e := by
  intro b c d e
  exact if_congr (shedLate_iff f) rfl rfl

/-! ### Rails (R563) -/

/-- A mask of rails in which no bit is to be set or cleared stays as it is. -/
theorem railMask_of_quiet {bad good : List Nat} (old : Nat) (h : ∀ i, i < 8 → bad.getD i 0 < 10 ∧ good.getD i 0 < 1000) :
    (List.range 8).foldl (fun m i => if 10 ≤ bad.getD i 0 then withBit m i else if 1000 ≤ good.getD i 0 then withoutBit m i else m) old
      = old := by
  have keeps : ∀ is : List Nat, (∀ i ∈ is, i < 8) →
      is.foldl (fun m i => if 10 ≤ bad.getD i 0 then withBit m i else if 1000 ≤ good.getD i 0 then withoutBit m i else m) old = old := by
    intro is
    induction is with
    | nil => exact fun _ => rfl
    | cons i is ih =>
      intro his
      obtain ⟨hbad, hgood⟩ := h i (his i (.head _))
      rw [List.foldl_cons, if_neg (Nat.not_le.mpr hbad), if_neg (Nat.not_le.mpr hgood)]
      exact ih fun j hj => his j (.tail _ hj)
  exact keeps _ fun i => List.mem_range.mp

/-- Rails that stay in range: their counts change, and no rail holds a shed. -/
theorem State.sampleRails_of_quiet {inRange : BitVec 8} {f : ShedFigures} {bad good : List Nat}
    (hbad : countRuns s.power.railBad (((List.range 8).map inRange.getLsbD).map (!·)) = bad)
    (hgood : countRuns s.power.railGood ((List.range 8).map inRange.getLsbD) = good)
    (hquiet : ∀ i, i < 8 → bad.getD i 0 < 10 ∧ good.getD i 0 < 1000) (hnone : s.nat 0x2700 0x30 = 0) :
    let u := (s.modPower fun p => { p with railBad := bad.map (min 10), railGood := good.map (min 1000) }).setNum 0x2700 0x30 0
    s.sampleRails inRange f = State.settleError (State.recover (u.modPower fun p => { p with railShed := false })) := by
  have hold : (s.modPower fun p => { p with railBad := bad.map (min 10), railGood := good.map (min 1000) }).nat 0x2700 0x30 = 0 := hnone
  dsimp only [State.sampleRails]
  rw [hbad, hgood, hold, railMask_of_quiet 0 hquiet]
  rfl

/-! ### JTAG (R568) -/

theorem State.jtagLoad_of_allowed {op : JtagOp} {authenticated : Bool}
    (h : ∀ x, op = .other x → s.power.straps.boot = 3 ∧ authenticated = true) :
    s.jtagLoad op authenticated =
      let u := s.modPower fun p => { p with jtag := op }
      if op = .idcode then u.emit (.jtag jtagIdcode) else u := by
  unfold State.jtagLoad
  split
  · next x =>
    obtain ⟨hboot, hauth⟩ := h x rfl
    simp [hboot, hauth]
  · rfl

theorem State.jtagLoad_of_refused {x : Nat} (h : s.power.straps.boot ≠ 3) : s.jtagLoad (.other x) true = s := by
  simp [State.jtagLoad, h]

/-- Settles O46: each edge of power in the state it is taken in, and the shed step by step. -/
theorem powerFailsShedAndRecover : Obligations.PowerFailsShedAndRecover := by
  refine ⟨fun s at_ hrun => ⟨fun h => ?good, fun f h => ?asserts, fun h => ?releases⟩, fun s at_ f hrun h hnew => ?sheds⟩
  case good => exact live_eq_next hrun (State.powerGood_of_first h)
  case asserts => exact live_eq_next hrun (congrArg (fun u : State => u.answerHeld.pump) (State.pfwAsserted_of_good f h))
  case releases => exact live_eq_next hrun (State.pfwDeasserted_of_asserted h)
  case sheds =>
    intro a b c d e
    have hshed := (State.pfwAsserted_of_good f h).trans
      (congrArg State.settleError ((if_neg hnew).trans (State.startShed_eq a f)))
    exact live_eq_next hrun (congrArg (fun u : State => u.answerHeld.pump) hshed)

/-- Settles O48: rails that stay in range leave the shed to end, and the tester's instructions pass the condition of R568. -/
theorem railsAreWatchedAndJtagLoads : Obligations.RailsAreWatchedAndJtagLoads := by
  refine fun s hrun => ⟨fun at_ inRange f => ?rails, fun op authenticated h => live_eq_next hrun (State.jtagLoad_of_allowed h),
    fun x h => live_eq_next hrun (State.jtagLoad_of_refused h)⟩
  intro t now bad good hquiet hnone u
  exact live_eq_next hrun (congrArg (fun u : State => u.answerHeld.pump) (State.sampleRails_of_quiet (s := t) rfl rfl hquiet hnone))

end Sys2Proof.Machine
end
